-- ==== Sys2Proof/Word.lean ====
section
/-!
DEFINITION. The word types of the KX9 (R4, R10): bytes, 32-bit and 64-bit words, and the 96-bit lane word (R41).
-/

namespace Sys2Proof

/-- One byte of memory. -/
abbrev Byte := BitVec 8

/-- A 32-bit word: a scalar instruction, or one lane of a vector register (R36, R41). -/
abbrev W32 := BitVec 32

/-- A 64-bit word: a scalar register or a virtual address (R36, R236). -/
abbrev W64 := BitVec 64

/-- A code address: overlay number in bits 23..16, byte offset in bits 15..0 (R53). -/
abbrev CodeAddr := BitVec 24

end Sys2Proof
end

