-- ==== Sys2Proof/Syntax.lean ====
section
/-!
DEFINITION. The syntax of Cycor: the modifiers of R45, the operand forms of the scalar and lane words (R37 to R51), the
front-end packets (R124), the operations and events of the device (95_what_each_step_holds), and the one inductive Instr
with one constructor for each row of spec/opcode_table.json.
-/

namespace Sys2Proof

/-! ### Modifiers (R45) -/

/-- TY: integer width and signedness. -/
inductive Ty | i32 | u32 | i64 | u64
  deriving DecidableEq, Repr, Inhabited

/-- PK: packing of floating elements. -/
inductive Pk | f32 | h2 | bh2
  deriving DecidableEq, Repr, Inhabited

/-- RM: rounding mode. -/
inductive Rm | rn | rz | rdn | rup
  deriving DecidableEq, Repr, Inhabited

/-- SC, and scalar x for scopes (R6). -/
inductive Scope | cw | bk | cl | dv | sy
  deriving DecidableEq, Repr, Inhabited

/-- ORD: memory order. -/
inductive Ord | plain | acq | rel | ar
  deriving DecidableEq, Repr, Inhabited

/-- WD: access width. -/
inductive Wd | b8 | b16 | b32 | b64
  deriving DecidableEq, Repr, Inhabited

/-- DT and ST: element types of conversions. -/
inductive Dt | f32 | f16 | bf16 | i32 | i8 | i4 | b1 | slot
  deriving DecidableEq, Repr, Inhabited

/-- COND of ICMP. -/
inductive ICond | eq | ne | lt | le | gt | ge
  deriving DecidableEq, Repr, Inhabited

/-- COND of FCMP. -/
inductive FCond | eq | ne | lt | le | gt | ge | un | ord
  deriving DecidableEq, Repr, Inhabited

/-- Scalar cond. -/
inductive SCond | eq | ne | lt | ge | ltu | geu | any | none
  deriving DecidableEq, Repr, Inhabited

/-- Atomic operations (R261). -/
inductive AOp | add | and | or | xor | min | max | minu | maxu | xchg | cas | fadd | incw | bfadd
  deriving DecidableEq, Repr, Inhabited

/-- Barrier operators (R87). -/
inductive BarOp | none | and | or | sum | popc
  deriving DecidableEq, Repr, Inhabited

/-- Levels of completion counters (R108). -/
inductive Level | lch | gph | phs | job
  deriving DecidableEq, Repr, Inhabited

/-- Operators of TRED (R277). -/
inductive RedOp | add | fadd | min | max | and | or
  deriving DecidableEq, Repr, Inhabited

/-- Operators of XPUT (R211). -/
inductive XOp | sum | fsum | min | max | minu | maxu | and | or
  deriving DecidableEq, Repr, Inhabited

/-- Modes of VOTE (R210). -/
inductive VMode | ballot | any | all | popc
  deriving DecidableEq, Repr, Inhabited

/-! ### Scalar operand forms (R37, R50) -/

/-- No operand (format Z and the all-zero forms). -/
structure OpZ where
  sw : Bool
  deriving DecidableEq, Repr, Inhabited

/-- rd only. -/
structure OpD where
  sw : Bool
  rd : BitVec 7
  deriving DecidableEq, Repr, Inhabited

/-- ra only. -/
structure OpA where
  sw : Bool
  ra : BitVec 7
  deriving DecidableEq, Repr, Inhabited

/-- rd and ra. -/
structure OpDA where
  sw : Bool
  rd : BitVec 7
  ra : BitVec 7
  deriving DecidableEq, Repr, Inhabited

/-- ra and rb. -/
structure OpAB where
  sw : Bool
  ra : BitVec 7
  rb : BitVec 7
  deriving DecidableEq, Repr, Inhabited

/-- rd, ra and rb. -/
structure OpDAB where
  sw : Bool
  rd : BitVec 7
  ra : BitVec 7
  rb : BitVec 7
  deriving DecidableEq, Repr, Inhabited

/-- ra, rb and x (a format slot). -/
structure OpABX where
  sw : Bool
  ra : BitVec 7
  rb : BitVec 7
  x  : BitVec 3
  deriving DecidableEq, Repr, Inhabited

/-- rd, ra, rb and x (a format slot, or the selecting condition of SEL). -/
structure OpDABX where
  sw : Bool
  rd : BitVec 7
  ra : BitVec 7
  rb : BitVec 7
  x  : BitVec 3
  deriving DecidableEq, Repr, Inhabited

/-- rd, ra and imm10 (format I). -/
structure OpDAI where
  sw  : Bool
  rd  : BitVec 7
  ra  : BitVec 7
  imm : BitVec 10
  deriving DecidableEq, Repr, Inhabited

/-- rd, ra and a shift count imm10[5:0] (R40). -/
structure OpShI where
  sw  : Bool
  rd  : BitVec 7
  ra  : BitVec 7
  cnt : BitVec 6
  deriving DecidableEq, Repr, Inhabited

/-- Compare with a register (format C-R). -/
structure OpCmp where
  sw   : Bool
  cond : SCond
  qd   : BitVec 3
  ra   : BitVec 7
  rb   : BitVec 7
  deriving DecidableEq, Repr, Inhabited

/-- Compare with an immediate (format C-I). -/
structure OpCmpI where
  sw   : Bool
  cond : SCond
  qd   : BitVec 3
  ra   : BitVec 7
  imm  : BitVec 10
  deriving DecidableEq, Repr, Inhabited

/-- rd and imm17 (format L). -/
structure OpDL where
  sw  : Bool
  rd  : BitVec 7
  imm : BitVec 17
  deriving DecidableEq, Repr, Inhabited

/-- off21 (format B with q = 0). -/
structure OpB where
  sw  : Bool
  off : BitVec 21
  deriving DecidableEq, Repr, Inhabited

/-- q and off21 (format B). -/
structure OpBQ where
  sw  : Bool
  q   : BitVec 3
  off : BitVec 21
  deriving DecidableEq, Repr, Inhabited

/-- Slice mask and lane offset (format LR). -/
structure OpLR where
  sw   : Bool
  mask : BitVec 8
  off  : BitVec 16
  deriving DecidableEq, Repr, Inhabited

/-- A number in imm10 (TRAP, BRK). -/
structure OpN where
  sw  : Bool
  num : BitVec 10
  deriving DecidableEq, Repr, Inhabited

/-- rd and a system register number (MFSR). -/
structure OpDN where
  sw  : Bool
  rd  : BitVec 7
  num : BitVec 10
  deriving DecidableEq, Repr, Inhabited

/-- A system register number and ra (MTSR). -/
structure OpNA where
  sw  : Bool
  num : BitVec 10
  ra  : BitVec 7
  deriving DecidableEq, Repr, Inhabited

/-- A scope (SFENCE). -/
structure OpS where
  sw : Bool
  sc : Scope
  deriving DecidableEq, Repr, Inhabited

/-- A scalar atomic: rd, ra, rb and its scope. -/
structure OpAt where
  sw : Bool
  rd : BitVec 7
  ra : BitVec 7
  rb : BitVec 7
  sc : Scope
  deriving DecidableEq, Repr, Inhabited

/-- TRED: rd, ra, rb and the operator. -/
structure OpRed where
  sw : Bool
  rd : BitVec 7
  ra : BitVec 7
  rb : BitVec 7
  op : RedOp
  deriving DecidableEq, Repr, Inhabited

/-- BARRIVE: rd, ra, rb and the operator. -/
structure OpBar where
  sw : Bool
  rd : BitVec 7
  ra : BitVec 7
  rb : BitVec 7
  op : BarOp
  deriving DecidableEq, Repr, Inhabited

/-- WDONE and WCANCEL: rd, ra and the level. -/
structure OpLev where
  sw  : Bool
  rd  : BitVec 7
  ra  : BitVec 7
  lev : Level
  deriving DecidableEq, Repr, Inhabited

/-! ### Lane operand forms (R41 to R45) -/

/-- The guard of a lane instruction (R42). -/
structure Guard where
  en  : Bool
  neg : Bool
  p   : BitVec 4
  deriving DecidableEq, Repr, Inhabited

/-- First source: a vector register, or a run constant when KA = 1 (R43). -/
inductive SrcA
  | reg (v : BitVec 9)
  | const (s : BitVec 5)
  deriving DecidableEq, Repr, Inhabited

/-- Second source: a vector register, or W2 when IMM = 1 (R44). -/
inductive SrcB
  | reg (v : BitVec 9)
  | imm (w : W32)
  deriving DecidableEq, Repr, Inhabited

/-- Two-operand integer instructions (R193). -/
structure LInt where
  sw  : Bool
  g   : Guard
  ty  : Ty
  sat : Bool
  vd  : BitVec 9
  va  : SrcA
  vb  : SrcB
  deriving DecidableEq, Repr, Inhabited

/-- IMAD (R193). -/
structure LMad where
  sw  : Bool
  g   : Guard
  ty  : Ty
  sat : Bool
  vd  : BitVec 9
  va  : SrcA
  vb  : SrcB
  vc  : BitVec 9
  deriving DecidableEq, Repr, Inhabited

/-- IPOP and ICLZ (R194). -/
structure LCnt where
  sw : Bool
  g  : Guard
  ty : Ty
  vd : BitVec 9
  va : SrcA
  deriving DecidableEq, Repr, Inhabited

/-- IBFE (R195). -/
structure LBfe where
  sw  : Bool
  g   : Guard
  ty  : Ty
  vd  : BitVec 9
  va  : SrcA
  pos : BitVec 7
  len : BitVec 7
  deriving DecidableEq, Repr, Inhabited

/-- IBFI (R195). -/
structure LBfi where
  sw  : Bool
  g   : Guard
  ty  : Ty
  vd  : BitVec 9
  va  : SrcA
  vb  : BitVec 9
  pos : BitVec 7
  len : BitVec 7
  deriving DecidableEq, Repr, Inhabited

/-- FADD, FSUB, FMUL (R196). -/
structure LFlt where
  sw : Bool
  g  : Guard
  pk : Pk
  rm : Rm
  vd : BitVec 9
  va : SrcA
  vb : SrcB
  deriving DecidableEq, Repr, Inhabited

/-- FFMA (R196). -/
structure LFma where
  sw : Bool
  g  : Guard
  pk : Pk
  rm : Rm
  vd : BitVec 9
  va : SrcA
  vb : SrcB
  vc : BitVec 9
  deriving DecidableEq, Repr, Inhabited

/-- FMIN and FMAX (R197). -/
structure LFmm where
  sw : Bool
  g  : Guard
  pk : Pk
  vd : BitVec 9
  va : SrcA
  vb : SrcB
  deriving DecidableEq, Repr, Inhabited

/-- FRND (R198). -/
structure LFrnd where
  sw : Bool
  g  : Guard
  pk : Pk
  rm : Rm
  vd : BitVec 9
  va : SrcA
  deriving DecidableEq, Repr, Inhabited

/-- One source, one destination: the transcendentals and MOV (R200, R208). -/
structure LUn where
  sw : Bool
  g  : Guard
  vd : BitVec 9
  va : SrcA
  deriving DecidableEq, Repr, Inhabited

/-- CVT (R202). -/
structure LCvt where
  sw  : Bool
  g   : Guard
  sat : Bool
  rm  : Rm
  vd  : BitVec 9
  va  : SrcA
  dt  : Dt
  st  : Dt
  fs  : BitVec 3
  deriving DecidableEq, Repr, Inhabited

/-- PACK and UNPACK (R203, R204). -/
structure LPack where
  sw  : Bool
  g   : Guard
  sat : Bool
  rm  : Rm
  vd  : BitVec 9
  va  : SrcA
  vb  : BitVec 9
  dt  : Dt
  st  : Dt
  fs  : BitVec 3
  deriving DecidableEq, Repr, Inhabited

/-- ICMP (R205). -/
structure LICmp where
  sw   : Bool
  g    : Guard
  cond : ICond
  ty   : Ty
  pd   : BitVec 4
  va   : SrcA
  vb   : SrcB
  deriving DecidableEq, Repr, Inhabited

/-- FCMP (R206). -/
structure LFCmp where
  sw   : Bool
  g    : Guard
  cond : FCond
  pk   : Pk
  pd   : BitVec 4
  va   : SrcA
  vb   : SrcB
  deriving DecidableEq, Repr, Inhabited

/-- PAND, POR, PXOR (R207). -/
structure LP3 where
  sw : Bool
  g  : Guard
  pd : BitVec 4
  pa : BitVec 4
  pb : BitVec 4
  deriving DecidableEq, Repr, Inhabited

/-- PNOT (R207). -/
structure LP2 where
  sw : Bool
  g  : Guard
  pd : BitVec 4
  pa : BitVec 4
  deriving DecidableEq, Repr, Inhabited

/-- The source of PMOV: a predicate, or the constant W2[0] (R207). -/
inductive PSrc
  | reg (p : BitVec 4)
  | imm (b : Bool)
  deriving DecidableEq, Repr, Inhabited

/-- PMOV (R207). -/
structure LPMov where
  sw  : Bool
  g   : Guard
  pd  : BitVec 4
  src : PSrc
  deriving DecidableEq, Repr, Inhabited

/-- MOVI (R208). -/
structure LMovi where
  sw  : Bool
  g   : Guard
  vd  : BitVec 9
  imm : W32
  deriving DecidableEq, Repr, Inhabited

/-- Lane SEL (R208). -/
structure LSel where
  sw : Bool
  g  : Guard
  vd : BitVec 9
  va : SrcA
  vb : BitVec 9
  pc : BitVec 4
  deriving DecidableEq, Repr, Inhabited

/-- The source lane of SHFL by MODE (R209). -/
inductive ShSrc
  | idx (vb : BitVec 9)
  | up (d : BitVec 5)
  | down (d : BitVec 5)
  | xor (d : BitVec 5)
  deriving DecidableEq, Repr, Inhabited

/-- SHFL (R209). -/
structure LShfl where
  sw  : Bool
  g   : Guard
  vd  : BitVec 9
  va  : SrcA
  src : ShSrc
  deriving DecidableEq, Repr, Inhabited

/-- VOTE (R210): d is a vector register for ballot and popc, a predicate for any and all. -/
structure LVote where
  sw   : Bool
  g    : Guard
  mode : VMode
  d    : BitVec 9
  pa   : BitVec 4
  deriving DecidableEq, Repr, Inhabited

/-- XPUT (R211). -/
structure LXput where
  sw : Bool
  g  : Guard
  op : XOp
  k  : BitVec 2
  va : SrcA
  deriving DecidableEq, Repr, Inhabited

/-- REORD (R93). -/
structure LReord where
  sw     : Bool
  vd     : BitVec 9
  va     : SrcA
  groups : W32
  deriving DecidableEq, Repr, Inhabited

/-- LD (R257). -/
structure LLd where
  sw  : Bool
  g   : Guard
  wd  : Wd
  sx  : Bool
  ord : Ord
  sc  : Scope
  vd  : BitVec 9
  va  : SrcA
  off : W32
  deriving DecidableEq, Repr, Inhabited

/-- ST (R257). -/
structure LSt where
  sw  : Bool
  g   : Guard
  wd  : Wd
  ord : Ord
  sc  : Scope
  va  : SrcA
  vb  : BitVec 9
  off : W32
  deriving DecidableEq, Repr, Inhabited

/-- PREF (R257). -/
structure LPref where
  sw  : Bool
  g   : Guard
  va  : SrcA
  off : W32
  deriving DecidableEq, Repr, Inhabited

/-- ATOM (R265). -/
structure LAtom where
  sw  : Bool
  g   : Guard
  op  : AOp
  w64 : Bool
  ord : Ord
  sc  : Scope
  vd  : BitVec 9
  va  : SrcA
  vb  : BitVec 9
  vc  : BitVec 9
  deriving DecidableEq, Repr, Inhabited

/-- FENCE (R258). -/
structure LFence where
  sw  : Bool
  ord : Ord
  sc  : Scope
  deriving DecidableEq, Repr, Inhabited

/-- BRA, the divergent form (R76). -/
structure LBraD where
  sw     : Bool
  g      : Guard
  target : BitVec 16
  join   : BitVec 16
  deriving DecidableEq, Repr, Inhabited

/-- BRA, the leave form (R76). -/
structure LBraL where
  sw   : Bool
  g    : Guard
  join : BitVec 16
  deriving DecidableEq, Repr, Inhabited

/-- A lane offset: BRA's jump form, and JOIN (R76, R77). -/
structure LOff where
  sw  : Bool
  off : BitVec 16
  deriving DecidableEq, Repr, Inhabited

/-- LTRAP (R321). -/
structure LTrap where
  sw  : Bool
  g   : Guard
  num : BitVec 10
  deriving DecidableEq, Repr, Inhabited

/-! ### Operands of the device's operations and events -/

/-- A crew: the control crew of a C-die (R17), or a crew of a block by its index (the block under the model's name for it). -/
inductive CrewRef
  | ctl (die : Nat)
  | blk (block : Nat) (crew : Nat)
  deriving DecidableEq, Repr, Inhabited

/-- A stream of a crew: its scalar thread, or a slice of its executing run (R47). -/
inductive StreamId
  | scalar
  | slice (s : Nat)
  deriving DecidableEq, Repr, Inhabited

/-- An instruction store: that of a core, or of a control tile (R17, R20). -/
inductive StoreRef
  | core (k : Nat)
  | ctl (die : Nat)
  deriving DecidableEq, Repr, Inhabited

/-- Why a copy is abandoned (R273): the fault that its step has met, an uncorrectable read error, or a transport error. -/
inductive CopyFault
  | met
  | readError
  | transport
  deriving DecidableEq, Repr, Inhabited

/-- Operands of the JOB, PHASE and GRAPH packets (R124). -/
structure UnitPkt where
  close  : Bool
  id     : W32
  note   : Bool
  bell   : BitVec 12
  count  : BitVec 16
  parent : W32
  deriving DecidableEq, Repr, Inhabited

/-- Operands of the PRED packets (R124, R125). -/
structure PredPkt where
  cond : BitVec 2
  arg  : W32
  addr : W64
  ref  : W64
  mask : W64
  deriving DecidableEq, Repr, Inhabited

/-- Operands of SREAD (R124, R132). -/
structure SreadPkt where
  drive : BitVec 3
  wait  : Bool
  bell  : BitVec 12
  nblk  : BitVec 16
  lba   : W64
  dest  : W64
  deriving DecidableEq, Repr, Inhabited

/-- A host write to one register: the whole 64 bits, or one naturally aligned half (R119). -/
inductive RegPart | whole | low | high
  deriving DecidableEq, Repr, Inhabited

/-- What the verification of a firmware image found (R295): the key digest and the signature are good, and the image's security
version. -/
structure ImageCheck where
  signed  : Bool
  version : Nat
  deriving DecidableEq, Repr, Inhabited

/-- The images that RESTART may verify (R327): the held one, and the two copies of the flash. -/
structure RestartImages where
  held  : ImageCheck
  copy0 : ImageCheck
  copy1 : ImageCheck
  deriving DecidableEq, Repr, Inhabited

/-- What a session with a peer supplies (R307): the address space of its endpoint, and the addresses of the host and peer window that
the peer maps, from lo to hi. -/
structure SessionTerms where
  asid : Nat
  lo   : Nat
  hi   : Nat
  deriving DecidableEq, Repr, Inhabited

/-- What attestation of a chiplet found (R296, R297): the digest of its ROM, with its serial number, stepping and identity key as the
manifest has them, or a failure. -/
inductive Attest
  | ok (digest : Nat)
  | bad
  deriving DecidableEq, Repr, Inhabited

/-- A hardware block whose world the Porter assigns (R292). -/
inductive WorldBlock
  | queue (q : Nat)
  | context (c : Nat)
  | bells (g : Nat)
  | drive (d : Nat)
  | port (p : Nat)
  deriving DecidableEq, Repr, Inhabited

/-- A request of a tenant (R299); viaSession says whether it came over a secured session with the Porter. -/
inductive TenantReq
  | openSession
  | readLog
  | assignGranule (g : Nat) (secure : Bool)
  | assignBlock (b : WorldBlock) (secure : Bool)
  | writeRoot (q : Nat) (v : W64)
  | writeGen (q : Nat)
  deriving DecidableEq, Repr, Inhabited

/-- The steps of a key switch (R302). -/
inductive KeyStep
  | program (key : Nat)
  | announce (seq : Nat)
  | report
  deriving DecidableEq, Repr, Inhabited

/-- The kind of a memory access (R64). -/
inductive AccKind | read | write | execute | atomic
  deriving DecidableEq, Repr, Inhabited

/-- What an access from outside the package does: a read of n bytes, a write, or an atomic operation on 4 or 8 bytes with its
operands (R291, R308). -/
inductive ExtKind
  | read (n : Nat)
  | write (bytes : List Byte)
  | atomic (op : AOp) (wide : Bool) (b : Nat) (c : Nat)
  deriving DecidableEq, Repr, Inhabited

/-- An access from outside the package: its address, what it does, and the sender's name for it, by which it is answered (R325). -/
structure ExtAccess where
  addr : W64
  kind : ExtKind
  tag  : Nat
  deriving DecidableEq, Repr, Inhabited

/-- Where an uncorrectable error lies (R324). -/
inductive SramLoc
  | scratchpad (block : Nat)
  | registers (c : CrewRef)
  | context (core : Nat) (ctx : Nat)
  | weights (core : Nat) (offset : Nat)
  | store (st : StoreRef) (slot : Nat)
  | supervisor (core : Nat)
  | memory (pa : Nat)
  | foreman (ctx : Nat)
  deriving DecidableEq, Repr, Inhabited

/-- What the firmware sets when it starts a control crew (R17, R278, R280, R313). -/
structure CtlStart where
  die     : Nat
  root    : W64
  ovtab   : W64
  entries : Nat
  entry   : CodeAddr
  tvec    : BitVec 16
  image   : List Byte
  deriving DecidableEq, Repr, Inhabited

/-- A request handed over by a peer (R166): the port and endpoint that it came over, the context that is to take it, its record and
the contents of its used pages. -/
structure Handoff where
  port  : Nat
  ep    : Nat
  ctx   : Nat
  words : List W64
  pages : List (List Byte)
  deriving DecidableEq, Repr, Inhabited

/-! ### Instructions -/

/-- One constructor for each row of spec/opcode_table.json, in the table's order but for ILL_FORMED_PACKET, which stands with the
packets. -/
inductive Instr
  | add (o : OpDAB) | sub (o : OpDAB) | mul (o : OpDAB) | mulh (o : OpDAB)
  | divu (o : OpDAB) | divs (o : OpDAB) | remu (o : OpDAB)
  | and (o : OpDAB) | or (o : OpDAB) | xor (o : OpDAB)
  | shl (o : OpDAB) | shr (o : OpDAB) | sar (o : OpDAB)
  | min (o : OpDAB) | max (o : OpDAB) | minu (o : OpDAB) | maxu (o : OpDAB)
  | cmp (o : OpCmp) | sel (o : OpDABX)
  | addImm (o : OpDAI) | mulImm (o : OpDAI) | andImm (o : OpDAI) | orImm (o : OpDAI) | xorImm (o : OpDAI)
  | shlImm (o : OpShI) | shrImm (o : OpShI) | sarImm (o : OpShI)
  | cmpImm (o : OpCmpI) | li (o : OpDL) | lih (o : OpDL) | ljoin (o : OpD)
  | b (o : OpB) | bq (o : OpBQ) | bqN (o : OpBQ) | call (o : OpB) | callReg (o : OpA) | ret (o : OpZ) | jr (o : OpA)
  | loop (o : OpDL)
  | sldU8 (o : OpDAI) | sldU16 (o : OpDAI) | sldU32 (o : OpDAI) | sld64 (o : OpDAI)
  | sldI8 (o : OpDAI) | sldI16 (o : OpDAI) | sldI32 (o : OpDAI)
  | sfence (o : OpS)
  | sst8 (o : OpDAI) | sst16 (o : OpDAI) | sst32 (o : OpDAI) | sst64 (o : OpDAI)
  | lrun (o : OpLR) | lrunReg (o : OpAB) | trap (o : OpN) | eret (o : OpZ)
  | satomAdd32 (o : OpAt) | satomAnd32 (o : OpAt) | satomOr32 (o : OpAt) | satomXor32 (o : OpAt)
  | satomMin32 (o : OpAt) | satomMax32 (o : OpAt) | satomMinu32 (o : OpAt) | satomMaxu32 (o : OpAt)
  | satomAdd64 (o : OpAt) | satomAnd64 (o : OpAt) | satomOr64 (o : OpAt) | satomXor64 (o : OpAt)
  | satomMin64 (o : OpAt) | satomMax64 (o : OpAt) | satomMinu64 (o : OpAt) | satomMaxu64 (o : OpAt)
  | satomXchg32 (o : OpAt) | satomCas32 (o : OpAt) | satomFadd32 (o : OpAt) | satomIncw32 (o : OpAt)
  | satomBfadd32 (o : OpAt)
  | mfsr (o : OpDN) | mtsr (o : OpNA) | brk (o : OpN)
  | satomXchg64 (o : OpAt) | satomCas64 (o : OpAt) | satomIncw64 (o : OpAt) | satomBfadd64 (o : OpAt)
  | halt (o : OpZ) | nop (o : OpZ)
  | tshape (o : OpDA) | tld (o : OpDAB) | tst (o : OpDAB) | tgath (o : OpDAB) | tscat (o : OpDAB) | tred (o : OpRed)
  | twait (o : OpAB) | tgive (o : OpAB)
  | ovload (o : OpDAB) | wloadImg (o : OpAB) | wloadTile (o : OpAB) | gang (o : OpA)
  | mma (o : OpABX) | mxpop (o : OpABX) | mdist (o : OpABX)
  | msmax (o : OpAB) | mnorm (o : OpAB) | mmerge (o : OpAB)
  | mdrain (o : OpDABX) | mzeroAcq (o : OpD) | mzeroClr (o : OpD) | mzeroRel (o : OpD)
  | barrive (o : OpBar) | bwait (o : OpDA) | btest (o : OpDA) | attach (o : OpD) | detach (o : OpZ)
  | claim (o : OpDA) | release (o : OpDA) | yield (o : OpZ) | wcancel (o : OpLev) | wdone (o : OpLev)
  | sqadmit (o : OpDAB) | sqnext (o : OpDA) | sqret (o : OpDAB)
  | pgalloc (o : OpDA) | pgref (o : OpDA) | pgdrop (o : OpDA) | pgfork (o : OpDA) | pgmove (o : OpDAB) | pgsend (o : OpDAB)
  | sieveArm (o : OpDA) | sieveRead (o : OpDA) | sieveDisarm (o : OpDA)
  | sampleDraw (o : OpDAB) | sampleVfy (o : OpDAB)
  | iadd (o : LInt) | isub (o : LInt) | imul (o : LInt) | imulh (o : LInt) | imad (o : LMad)
  | imin (o : LInt) | imax (o : LInt) | iand (o : LInt) | ior (o : LInt) | ixor (o : LInt)
  | ishl (o : LInt) | ishr (o : LInt) | isar (o : LInt)
  | ipop (o : LCnt) | iclz (o : LCnt) | ibfe (o : LBfe) | ibfi (o : LBfi)
  | fadd (o : LFlt) | fsub (o : LFlt) | fmul (o : LFlt) | ffma (o : LFma) | fmin (o : LFmm) | fmax (o : LFmm)
  | frnd (o : LFrnd)
  | exp2 (o : LUn) | log2 (o : LUn) | rcp (o : LUn) | rsq (o : LUn) | sqrt (o : LUn) | tanh (o : LUn)
  | cvt (o : LCvt) | pack (o : LPack) | unpack (o : LPack)
  | icmp (o : LICmp) | fcmp (o : LFCmp)
  | pand (o : LP3) | por (o : LP3) | pxor (o : LP3) | pnot (o : LP2) | pmov (o : LPMov)
  | mov (o : LUn) | movi (o : LMovi) | laneSel (o : LSel)
  | shfl (o : LShfl) | vote (o : LVote) | xput (o : LXput) | reord (o : LReord)
  | ld (o : LLd) | st (o : LSt) | pref (o : LPref) | atom (o : LAtom) | fence (o : LFence)
  | braDivergent (o : LBraD) | braLeave (o : LBraL) | braJump (o : LOff) | join (o : LOff)
  | regang (o : OpZ) | lend (o : OpZ) | ltrap (o : LTrap)
  | resultDelivery (c : CrewRef) (k : Nat)
  | deferredMemerr (c : CrewRef) (st : StreamId)
  | deferredTileFault (c : CrewRef)
  | copyFaultTrap (c : CrewRef)
  | claimGrant (core : Nat) | claimDeadlock (core : Nat) | growCrew (core : Nat)
  | shrinkRequest (core : Nat) | shrinkGraceExpiry (core : Nat)
  | preempt (block : Nat) | blockResume (block : Nat) | placeBlock
  | issueStarvation (c : CrewRef) (lane : Bool)
  | cancelDone (unit : Nat)
  | mosStep (core : Nat) (k : Nat)
  | gangTimeout (core : Nat) (k : Nat)
  | copyComplete (core : Nat) (k : Nat)
  | copyAbandon (core : Nat) (k : Nat) (why : CopyFault)
  | slowPath (core : Nat) (k : Nat) (ok : Bool)
  | overlayArrived (st : StoreRef) (slot : Nat)
  | migrationComplete (k : Nat)
  | ackgenUpdate (asid : Nat)
  | bellPost
  | pgsendAck (ctx : Nat) (code : Nat)
  | ftmapRequest
  | lfailWrite (c : CrewRef) (v : W64)
  | nopPacket (q : Nat) (len : Nat)
  | jobPacket (q : Nat) (o : UnitPkt) | phasePacket (q : Nat) (o : UnitPkt) | graphPacket (q : Nat) (o : UnitPkt)
  | launchPacket (q : Nat) (addr : W64)
  | predSkip (q : Nat) (o : PredPkt) | predWait (q : Nat) (o : PredPkt) | predTimeout (q : Nat)
  | loopPacket (q : Nat) (count : W32) (body : W32)
  | indPacket (q : Nat) (len : W32) (addr : W64)
  | ffence (q : Nat)
  | sread (q : Nat) (o : SreadPkt)
  | illFormedPacket (q : Nat)
  | sreadCompletion (drive : Nat) (cid : Nat) (status : BitVec 16)
  | sreadTimeout (drive : Nat) (cid : Nat)
  | qtailWrite (q : Nat) (w : W32)
  | qcfgWrite (q : Nat) (v : W32)
  | qstatResume (q : Nat)
  | qstatFlagClear (q : Nat) (tailerr : Bool) (ovf : Bool)
  | qrootWrite (q : Nat) (part : RegPart) (v : W64)
  | qgenWrite (q : Nat)
  | ntheadWrite (w : W32)
  | ntcfgWrite (v : W32)
  | registerWrite (off : Nat) (width : Nat) (v : W64)
  | hostdrv | step | restart (images : RestartImages) | loadimg (img : ImageCheck) | resume | teston | testoff
  | watchdog
  | powerUp (copy0 : ImageCheck) (copy1 : ImageCheck)
  | attestChiplet (chiplet : Nat) (r : Attest)
  | spdmTimeout (chiplet : Nat)
  | declareService
  | tenantRequest (viaSession : Bool) (r : TenantReq)
  | worldChange (g : Nat) (secure : Bool)
  | shutterFlitTimeout (link : Nat)
  | keySwitch (link : Nat) (k : KeyStep)
  | flitCrcFailure (link : Nat) (seq : Nat)
  | tamperEvent (link : Nat)
  | singleDieReset (chiplet : Nat) (r : Attest)
  | peerSession (port : Nat) (endpoint : Nat) (sameWorld : Bool) (policyOk : Bool) (map : SessionTerms)
  | peerAccess (port : Nat) (endpoint : Nat) (a : ExtAccess)
  | endpointClose (port : Nat) (endpoint : Nat)
  | peerAccessTimeout (k : Nat)
  | hostMemoryAccess (a : ExtAccess)
  | softErrorCorrected (chiplet : Nat)
  | sramUncorrectable (loc : SramLoc)
  | coreRetire (core : Nat)
  | thermalThrottle (chiplet : Nat) (raise : Bool) (voltage : Bool)
  | criticalTemperature (chiplet : Nat)
  | illegalInstruction
  | instructionFetchFault
  | unlistedMailboxCommand (cmd : BitVec 4)
  | powerOff
  | packageReset
  | inboundHandoff (h : Handoff)
  | packetAuthenticationFailure (port : Nat) (endpoint : Nat)
  | flitGroupAccepted (link : Nat) (seq : Nat) (tagOk : Bool)
  | pageMigrationEngineMove (ctx : Nat) (page : Nat) (tier : Nat)
  | controlCrewStart (o : CtlStart)
  deriving DecidableEq, Repr, Inhabited

end Sys2Proof
end

