-- ==== Sys2Proof/WellFormed.lean ====
section
/-!
DEFINITION. Which instructions are well formed: the limits that R38 to R45 and the entries put on fields whose type alone
does not hold them. An encoding that breaks one of them raises ILLINS (R52 check 4). Operations and events of the device
have no encoding in the instruction stores, and every one of them is well formed.
-/

namespace Sys2Proof

/-! ### Scalar fields (R38) -/

/-- rd as a destination: s0 to s95, or code 96, which discards the result. -/
def okDest (r : BitVec 7) : Bool := decide (r.toNat ≤ 96)

/-- ra or rb as a source: s0 to s95, or a special register; codes 124 to 127 are reserved (R39). -/
def okSrc (r : BitVec 7) : Bool := decide (r.toNat ≤ 123)

/-- The first register of a run of n registers that lies wholly within s0 to s95. -/
def okRun (n : Nat) (r : BitVec 7) : Bool := decide (r.toNat + n ≤ 96)

def OpD.wf (o : OpD) : Bool := okDest o.rd
def OpA.wf (o : OpA) : Bool := okSrc o.ra
def OpDA.wf (o : OpDA) : Bool := okDest o.rd && okSrc o.ra
def OpAB.wf (o : OpAB) : Bool := okSrc o.ra && okSrc o.rb
def OpDAB.wf (o : OpDAB) : Bool := okDest o.rd && okSrc o.ra && okSrc o.rb
def OpABX.wf (o : OpABX) : Bool := okSrc o.ra && okSrc o.rb
def OpDABX.wf (o : OpDABX) : Bool := okDest o.rd && okSrc o.ra && okSrc o.rb
def OpDAI.wf (o : OpDAI) : Bool := okDest o.rd && okSrc o.ra
def OpShI.wf (o : OpShI) : Bool := okDest o.rd && okSrc o.ra
def OpCmp.wf (o : OpCmp) : Bool := okSrc o.ra && okSrc o.rb
def OpCmpI.wf (o : OpCmpI) : Bool := okSrc o.ra
def OpDL.wf (o : OpDL) : Bool := okDest o.rd
def OpDN.wf (o : OpDN) : Bool := okDest o.rd
def OpNA.wf (o : OpNA) : Bool := okSrc o.ra
def OpAt.wf (o : OpAt) : Bool := okDest o.rd && okSrc o.ra && okSrc o.rb
def OpBar.wf (o : OpBar) : Bool := okDest o.rd && okSrc o.ra && okSrc o.rb
def OpLev.wf (o : OpLev) : Bool := okDest o.rd && okSrc o.ra

/-- SATOM.cas and SATOM.bfadd: rb and rb + 1 lie within s0 to s95 (R38, R50). -/
def OpAt.wfPair (o : OpAt) : Bool := okDest o.rd && okSrc o.ra && okRun 2 o.rb

/-- The copies: rd names a source s0 to s95, and rb is at most 93 (R271). -/
def OpDAB.wfCopy (o : OpDAB) : Bool := okRun 1 o.rd && okSrc o.ra && okRun 3 o.rb

/-- TRED (R271, R277). -/
def OpRed.wf (o : OpRed) : Bool := okRun 1 o.rd && okSrc o.ra && okRun 3 o.rb

/-! ### Lane fields (R42 to R45) -/

/-- With G = 0, N and P are 0 (R42). -/
def Guard.wf (g : Guard) : Bool := g.en || (!g.neg && g.p == 0)

/-- An even register number (R43). -/
def isEven (v : BitVec 9) : Bool := v.toNat % 2 == 0

/-- A first source of the width: an even register when it is a pair (R43). -/
def SrcA.wf (pair : Bool) : SrcA → Bool
  | .reg v => !pair || isEven v
  | .const _ => true

/-- A second source of the width (R43, R44). -/
def SrcB.wf (pair : Bool) : SrcB → Bool
  | .reg v => !pair || isEven v
  | .imm _ => true

/-- TY names 64-bit operands (R45). -/
def Ty.is64 : Ty → Bool
  | .i32 | .u32 => false
  | .i64 | .u64 => true

/-- TY names signed operands (R45). -/
def Ty.isSigned : Ty → Bool
  | .i32 | .i64 => true
  | .u32 | .u64 => false

/-- The width w of TY in bits (R193). -/
def Ty.bits (t : Ty) : Nat := if t.is64 then 64 else 32

/-- Two-operand integer instructions; satOk says whether the entry allows .sat (R193). -/
def LInt.wf (satOk : Bool) (o : LInt) : Bool :=
  o.g.wf && (satOk || !o.sat) && (!o.ty.is64 || isEven o.vd) && o.va.wf o.ty.is64 && o.vb.wf o.ty.is64

def LMad.wf (o : LMad) : Bool :=
  o.g.wf && (!o.ty.is64 || isEven o.vd) && o.va.wf o.ty.is64 && o.vb.wf o.ty.is64 && (!o.ty.is64 || isEven o.vc)

def LCnt.wf (o : LCnt) : Bool := o.g.wf && o.va.wf o.ty.is64

/-- The limits on pos and len (R195). -/
def bfOk (t : Ty) (pos len : BitVec 7) : Bool := decide (1 ≤ len.toNat) && decide (pos.toNat + len.toNat ≤ t.bits)

def LBfe.wf (o : LBfe) : Bool :=
  o.g.wf && (!o.ty.is64 || isEven o.vd) && o.va.wf o.ty.is64 && bfOk o.ty o.pos o.len

def LBfi.wf (o : LBfi) : Bool :=
  o.g.wf && (!o.ty.is64 || isEven o.vd) && o.va.wf o.ty.is64 && (!o.ty.is64 || isEven o.vb) && bfOk o.ty o.pos o.len

/-- The types PACK and UNPACK take for the packed element (R203, R204). -/
def Dt.isPacked : Dt → Bool
  | .f32 | .i32 => false
  | .f16 | .bf16 | .i8 | .i4 | .b1 | .slot => true

/-- FS is 0 unless DT or ST is 7 (R202). -/
def fsOk (dt st : Dt) (fs : BitVec 3) : Bool := dt == .slot || st == .slot || fs == 0

def LCvt.wf (o : LCvt) : Bool := o.g.wf && fsOk o.dt o.st o.fs
def LPack.wfPack (o : LPack) : Bool := o.g.wf && o.dt.isPacked && fsOk o.dt o.st o.fs
def LPack.wfUnpack (o : LPack) : Bool := o.g.wf && o.st.isPacked && fsOk o.dt o.st o.fs

def LICmp.wf (o : LICmp) : Bool := o.g.wf && o.va.wf o.ty.is64 && o.vb.wf o.ty.is64

/-- With .h2 or .bh2, pd is even (R206). -/
def LFCmp.wf (o : LFCmp) : Bool := o.g.wf && (o.pk == .f32 || o.pd.toNat % 2 == 0)

/-- VOTE.any and VOTE.all write a predicate (R210, R43). -/
def LVote.wf (o : LVote) : Bool :=
  o.g.wf && (match o.mode with | .ballot | .popc => true | .any | .all => decide (o.d.toNat < 16))

/-- ORD = 00 requires SC = 000 (R45). -/
def plainOk (ord : Ord) (sc : Scope) : Bool := ord != .plain || sc == .cw

def LLd.wf (o : LLd) : Bool :=
  o.g.wf && o.va.wf true && (o.wd != .b64 || isEven o.vd) && (!o.sx || o.wd == .b8 || o.wd == .b16) &&
  plainOk o.ord o.sc && o.ord != .rel

def LSt.wf (o : LSt) : Bool :=
  o.g.wf && o.va.wf true && (o.wd != .b64 || isEven o.vb) && plainOk o.ord o.sc && o.ord != .acq

def LPref.wf (o : LPref) : Bool := o.g.wf && o.va.wf true

/-- Whether an atomic takes a second operand c (R261). -/
def AOp.hasC : AOp → Bool
  | .cas | .bfadd => true
  | _ => false

def LAtom.wf (o : LAtom) : Bool :=
  o.g.wf && o.va.wf true && (!o.w64 || (isEven o.vd && isEven o.vb && isEven o.vc)) && (o.op.hasC || o.vc == 0) &&
  (o.op != .fadd || !o.w64)

/-- FENCE with ORD = 00 is illegal (R258). -/
def LFence.wf (o : LFence) : Bool := o.ord != .plain

/-- The divergent form: join is not 0xFFFF and not the target (R76). -/
def LBraD.wf (o : LBraD) : Bool := o.g.wf && o.join != 0xFFFF && o.join != o.target

/-- The leave form: join is not 0xFFFF (R76). -/
def LBraL.wf (o : LBraL) : Bool := o.g.wf && o.join != 0xFFFF

/-- The well-formed instructions. -/
def Instr.wf : Instr → Bool
  | .add o | .sub o | .mul o | .mulh o | .divu o | .divs o | .remu o | .and o | .or o | .xor o
  | .shl o | .shr o | .sar o | .min o | .max o | .minu o | .maxu o => o.wf
  | .cmp o => o.wf
  | .sel o => o.wf
  | .addImm o | .mulImm o | .andImm o | .orImm o | .xorImm o => o.wf
  | .shlImm o | .shrImm o | .sarImm o => o.wf
  | .cmpImm o => o.wf
  | .li o | .lih o => o.wf
  | .ljoin o => okRun 4 o.rd
  | .callReg o | .jr o => o.wf
  | .loop o => okRun 1 o.rd
  | .sldU8 o | .sldU16 o | .sldU32 o | .sld64 o | .sldI8 o | .sldI16 o | .sldI32 o => o.wf
  | .sst8 o | .sst16 o | .sst32 o | .sst64 o => o.wf
  | .lrunReg o => o.wf
  | .satomAdd32 o | .satomAnd32 o | .satomOr32 o | .satomXor32 o
  | .satomMin32 o | .satomMax32 o | .satomMinu32 o | .satomMaxu32 o
  | .satomAdd64 o | .satomAnd64 o | .satomOr64 o | .satomXor64 o
  | .satomMin64 o | .satomMax64 o | .satomMinu64 o | .satomMaxu64 o
  | .satomXchg32 o | .satomFadd32 o | .satomIncw32 o | .satomXchg64 o | .satomIncw64 o => o.wf
  | .satomCas32 o | .satomBfadd32 o | .satomCas64 o | .satomBfadd64 o => o.wfPair
  | .mfsr o => o.wf
  | .mtsr o => o.wf
  | .tshape o => o.wf
  | .tld o | .tst o | .tgath o | .tscat o => o.wfCopy
  | .tred o => o.wf
  | .twait o | .tgive o | .wloadImg o | .wloadTile o | .msmax o | .mnorm o | .mmerge o => o.wf
  | .ovload o | .sqadmit o | .sqret o | .pgmove o | .pgsend o | .sampleDraw o | .sampleVfy o => o.wf
  | .gang o => o.wf
  | .mma o | .mxpop o | .mdist o => o.wf
  | .mdrain o => o.wf
  | .mzeroAcq o | .mzeroClr o | .mzeroRel o | .attach o => o.wf
  | .barrive o => o.wf
  | .bwait o | .btest o | .claim o | .release o | .sqnext o | .pgalloc o | .pgref o | .pgdrop o | .pgfork o
  | .sieveArm o | .sieveRead o | .sieveDisarm o => o.wf
  | .wcancel o | .wdone o => o.wf
  | .iadd o | .isub o | .imul o => o.wf true
  | .imulh o | .imin o | .imax o | .iand o | .ior o | .ixor o | .ishl o | .ishr o | .isar o => o.wf false
  | .imad o => o.wf
  | .ipop o | .iclz o => o.wf
  | .ibfe o => o.wf
  | .ibfi o => o.wf
  | .fadd o | .fsub o | .fmul o => o.g.wf
  | .ffma o => o.g.wf
  | .fmin o | .fmax o => o.g.wf
  | .frnd o => o.g.wf
  | .exp2 o | .log2 o | .rcp o | .rsq o | .sqrt o | .tanh o | .mov o => o.g.wf
  | .cvt o => o.wf
  | .pack o => o.wfPack
  | .unpack o => o.wfUnpack
  | .icmp o => o.wf
  | .fcmp o => o.wf
  | .pand o | .por o | .pxor o => o.g.wf
  | .pnot o => o.g.wf
  | .pmov o => o.g.wf
  | .movi o => o.g.wf
  | .laneSel o => o.g.wf
  | .shfl o => o.g.wf
  | .vote o => o.wf
  | .xput o => o.g.wf
  | .ld o => o.wf
  | .st o => o.wf
  | .pref o => o.wf
  | .atom o => o.wf
  | .fence o => o.wf
  | .braDivergent o => o.wf
  | .braLeave o => o.wf
  | .ltrap o => o.g.wf
  | _ => true

end Sys2Proof
end

