-- ==== Sys2Proof/Decode.lean ====
section
/-!
DEFINITION. Decoding of scalar words (R37, R49, R50) and lane words (R41 to R45, R51), total on any word and refusing what
R52 checks 3 and 4 refuse; and after it the encoder, written from the same tables.
-/

namespace Sys2Proof

/-! ### Codes of the modifiers (R45, R87, R211, R261, R277, R110) -/

def Ty.code : Ty → BitVec 2 | .i32 => 0 | .u32 => 1 | .i64 => 2 | .u64 => 3
def Ty.ofCode (c : BitVec 2) : Ty := if c = 0 then .i32 else if c = 1 then .u32 else if c = 2 then .i64 else .u64

def Pk.code : Pk → BitVec 2 | .f32 => 0 | .h2 => 1 | .bh2 => 2
def Pk.ofCode (c : BitVec 2) : Option Pk := if c = 0 then some .f32 else if c = 1 then some .h2 else if c = 2 then some .bh2 else none

def Rm.code : Rm → BitVec 3 | .rn => 0 | .rz => 1 | .rdn => 2 | .rup => 3
def Rm.ofCode (c : BitVec 3) : Option Rm :=
  if c = 0 then some .rn else if c = 1 then some .rz else if c = 2 then some .rdn else if c = 3 then some .rup else none

def Scope.code : Scope → BitVec 3 | .cw => 0 | .bk => 1 | .cl => 2 | .dv => 3 | .sy => 4
def Scope.ofCode (c : BitVec 3) : Option Scope :=
  if c = 0 then some .cw else if c = 1 then some .bk else if c = 2 then some .cl else if c = 3 then some .dv
  else if c = 4 then some .sy else none

def Ord.code : Ord → BitVec 2 | .plain => 0 | .acq => 1 | .rel => 2 | .ar => 3
def Ord.ofCode (c : BitVec 2) : Ord := if c = 0 then .plain else if c = 1 then .acq else if c = 2 then .rel else .ar

def Wd.code : Wd → BitVec 2 | .b8 => 0 | .b16 => 1 | .b32 => 2 | .b64 => 3
def Wd.ofCode (c : BitVec 2) : Wd := if c = 0 then .b8 else if c = 1 then .b16 else if c = 2 then .b32 else .b64

def Dt.code : Dt → BitVec 4
  | .f32 => 0 | .f16 => 1 | .bf16 => 2 | .i32 => 3 | .i8 => 4 | .i4 => 5 | .b1 => 6 | .slot => 7
def Dt.ofCode (c : BitVec 4) : Option Dt :=
  if c = 0 then some .f32 else if c = 1 then some .f16 else if c = 2 then some .bf16 else if c = 3 then some .i32
  else if c = 4 then some .i8 else if c = 5 then some .i4 else if c = 6 then some .b1 else if c = 7 then some .slot else none

def ICond.code : ICond → BitVec 3 | .eq => 0 | .ne => 1 | .lt => 2 | .le => 3 | .gt => 4 | .ge => 5
def ICond.ofCode (c : BitVec 3) : Option ICond :=
  if c = 0 then some .eq else if c = 1 then some .ne else if c = 2 then some .lt else if c = 3 then some .le
  else if c = 4 then some .gt else if c = 5 then some .ge else none

def FCond.code : FCond → BitVec 3
  | .eq => 0 | .ne => 1 | .lt => 2 | .le => 3 | .gt => 4 | .ge => 5 | .un => 6 | .ord => 7
def FCond.ofCode (c : BitVec 3) : FCond :=
  if c = 0 then .eq else if c = 1 then .ne else if c = 2 then .lt else if c = 3 then .le
  else if c = 4 then .gt else if c = 5 then .ge else if c = 6 then .un else .ord

def SCond.code : SCond → BitVec 3
  | .eq => 0 | .ne => 1 | .lt => 2 | .ge => 3 | .ltu => 4 | .geu => 5 | .any => 6 | .none => 7
def SCond.ofCode (c : BitVec 3) : SCond :=
  if c = 0 then .eq else if c = 1 then .ne else if c = 2 then .lt else if c = 3 then .ge
  else if c = 4 then .ltu else if c = 5 then .geu else if c = 6 then .any else .none

def AOp.code : AOp → BitVec 4
  | .add => 0 | .and => 1 | .or => 2 | .xor => 3 | .min => 4 | .max => 5 | .minu => 6 | .maxu => 7 | .xchg => 8
  | .cas => 9 | .fadd => 10 | .incw => 11 | .bfadd => 12
def AOp.ofCode (c : BitVec 4) : Option AOp :=
  if c = 0 then some .add else if c = 1 then some .and else if c = 2 then some .or else if c = 3 then some .xor
  else if c = 4 then some .min else if c = 5 then some .max else if c = 6 then some .minu else if c = 7 then some .maxu
  else if c = 8 then some .xchg else if c = 9 then some .cas else if c = 10 then some .fadd
  else if c = 11 then some .incw else if c = 12 then some .bfadd else none

def BarOp.code : BarOp → BitVec 3 | .none => 0 | .and => 1 | .or => 2 | .sum => 3 | .popc => 4
def BarOp.ofCode (c : BitVec 3) : Option BarOp :=
  if c = 0 then some .none else if c = 1 then some .and else if c = 2 then some .or else if c = 3 then some .sum
  else if c = 4 then some .popc else Option.none

def Level.code : Level → BitVec 3 | .lch => 0 | .gph => 1 | .phs => 2 | .job => 3
def Level.ofCode (c : BitVec 3) : Option Level :=
  if c = 0 then some .lch else if c = 1 then some .gph else if c = 2 then some .phs else if c = 3 then some .job else none

def RedOp.code : RedOp → BitVec 3 | .add => 0 | .fadd => 1 | .min => 2 | .max => 3 | .and => 4 | .or => 5
def RedOp.ofCode (c : BitVec 3) : Option RedOp :=
  if c = 0 then some .add else if c = 1 then some .fadd else if c = 2 then some .min else if c = 3 then some .max
  else if c = 4 then some .and else if c = 5 then some .or else none

def XOp.code : XOp → BitVec 3
  | .sum => 0 | .fsum => 1 | .min => 2 | .max => 3 | .minu => 4 | .maxu => 5 | .and => 6 | .or => 7
def XOp.ofCode (c : BitVec 3) : XOp :=
  if c = 0 then .sum else if c = 1 then .fsum else if c = 2 then .min else if c = 3 then .max
  else if c = 4 then .minu else if c = 5 then .maxu else if c = 6 then .and else .or

def VMode.code : VMode → BitVec 3 | .ballot => 0 | .any => 1 | .all => 2 | .popc => 3
def VMode.ofCode (c : BitVec 3) : Option VMode :=
  if c = 0 then some .ballot else if c = 1 then some .any else if c = 2 then some .all else if c = 3 then some .popc else none

/-! ### The scalar word (R37) -/

/-- A scalar word cut into its switch marker, its opcode and its body. -/
structure RawS where
  sw   : Bool
  op   : BitVec 7
  body : BitVec 24
  deriving DecidableEq, Repr

/-- The three parts of a scalar word: bit [31], bits [30:24] and bits [23:0]. -/
def splitS (w : W32) : RawS := ⟨w.extractLsb' 31 1 == 1#1, w.extractLsb' 24 7, w.extractLsb' 0 24⟩

/-- The scalar word of the three parts. -/
def joinS (r : RawS) : W32 := BitVec.ofBool r.sw ++ r.op ++ r.body

/-- rd [23:17]. -/
def fD (b : BitVec 24) : BitVec 7 := b.extractLsb' 17 7
/-- ra [16:10]. -/
def fA (b : BitVec 24) : BitVec 7 := b.extractLsb' 10 7
/-- rb [9:3]. -/
def fB (b : BitVec 24) : BitVec 7 := b.extractLsb' 3 7
/-- x [2:0]. -/
def fX (b : BitVec 24) : BitVec 3 := b.extractLsb' 0 3
/-- imm10 [9:0]. -/
def fI (b : BitVec 24) : BitVec 10 := b.extractLsb' 0 10
/-- imm17 [16:0]. -/
def fL (b : BitVec 24) : BitVec 17 := b.extractLsb' 0 17
/-- q [23:21]. -/
def fQ (b : BitVec 24) : BitVec 3 := b.extractLsb' 21 3
/-- off21 [20:0]. -/
def fO (b : BitVec 24) : BitVec 21 := b.extractLsb' 0 21

def mkR (d a b : BitVec 7) (x : BitVec 3) : BitVec 24 := d ++ a ++ b ++ x
def mkI (d a : BitVec 7) (i : BitVec 10) : BitVec 24 := d ++ a ++ i
def mkC (c : SCond) (q : BitVec 3) (a : BitVec 7) (i : BitVec 10) : BitVec 24 := 0#1 ++ c.code ++ q ++ a ++ i
def mkL (d : BitVec 7) (i : BitVec 17) : BitVec 24 := d ++ i
def mkB (q : BitVec 3) (o : BitVec 21) : BitVec 24 := q ++ o
def mkLR (m : BitVec 8) (o : BitVec 16) : BitVec 24 := m ++ o
/-- rb and x, in the place of imm10. -/
def mkBX (b : BitVec 7) (x : BitVec 3) : BitVec 10 := b ++ x
/-- A shift count in imm10[5:0], with imm10[9:6] = 0 (R40). -/
def mkCnt (c : BitVec 6) : BitVec 10 := 0#4 ++ c

def decZ (k : OpZ → Instr) (sw : Bool) (b : BitVec 24) : Option Instr := if b = 0 then some (k ⟨sw⟩) else none
def decDk (x : BitVec 3) (k : OpD → Instr) (sw : Bool) (b : BitVec 24) : Option Instr :=
  if fA b = 0 ∧ fB b = 0 ∧ fX b = x then some (k ⟨sw, fD b⟩) else none
def decD (k : OpD → Instr) (sw : Bool) (b : BitVec 24) : Option Instr := decDk 0 k sw b
def decA (k : OpA → Instr) (sw : Bool) (b : BitVec 24) : Option Instr :=
  if fD b = 0 ∧ fB b = 0 ∧ fX b = 0 then some (k ⟨sw, fA b⟩) else none
def decDAk (x : BitVec 3) (k : OpDA → Instr) (sw : Bool) (b : BitVec 24) : Option Instr :=
  if fB b = 0 ∧ fX b = x then some (k ⟨sw, fD b, fA b⟩) else none
def decDA (k : OpDA → Instr) (sw : Bool) (b : BitVec 24) : Option Instr := decDAk 0 k sw b
def decABk (x : BitVec 3) (k : OpAB → Instr) (sw : Bool) (b : BitVec 24) : Option Instr :=
  if fD b = 0 ∧ fX b = x then some (k ⟨sw, fA b, fB b⟩) else none
def decAB (k : OpAB → Instr) (sw : Bool) (b : BitVec 24) : Option Instr := decABk 0 k sw b
def decDABk (x : BitVec 3) (k : OpDAB → Instr) (sw : Bool) (b : BitVec 24) : Option Instr :=
  if fX b = x then some (k ⟨sw, fD b, fA b, fB b⟩) else none
def decDAB (k : OpDAB → Instr) (sw : Bool) (b : BitVec 24) : Option Instr := decDABk 0 k sw b
def decABX (k : OpABX → Instr) (sw : Bool) (b : BitVec 24) : Option Instr :=
  if fD b = 0 then some (k ⟨sw, fA b, fB b, fX b⟩) else none
def decDABX (k : OpDABX → Instr) (sw : Bool) (b : BitVec 24) : Option Instr := some (k ⟨sw, fD b, fA b, fB b, fX b⟩)
def decDAI (k : OpDAI → Instr) (sw : Bool) (b : BitVec 24) : Option Instr := some (k ⟨sw, fD b, fA b, fI b⟩)
def decShI (k : OpShI → Instr) (sw : Bool) (b : BitVec 24) : Option Instr :=
  if b.extractLsb' 6 4 = 0 then some (k ⟨sw, fD b, fA b, b.extractLsb' 0 6⟩) else none
def decCmp (k : OpCmp → Instr) (sw : Bool) (b : BitVec 24) : Option Instr :=
  if b.extractLsb' 23 1 = 0 ∧ fX b = 0
  then some (k ⟨sw, SCond.ofCode (b.extractLsb' 20 3), b.extractLsb' 17 3, fA b, fB b⟩) else none
def decCmpI (k : OpCmpI → Instr) (sw : Bool) (b : BitVec 24) : Option Instr :=
  if b.extractLsb' 23 1 = 0
  then some (k ⟨sw, SCond.ofCode (b.extractLsb' 20 3), b.extractLsb' 17 3, fA b, fI b⟩) else none
def decDL (k : OpDL → Instr) (sw : Bool) (b : BitVec 24) : Option Instr := some (k ⟨sw, fD b, fL b⟩)
def decB (k : OpB → Instr) (sw : Bool) (b : BitVec 24) : Option Instr := if fQ b = 0 then some (k ⟨sw, fO b⟩) else none
def decBQ (k : OpBQ → Instr) (sw : Bool) (b : BitVec 24) : Option Instr := some (k ⟨sw, fQ b, fO b⟩)
def decLR (k : OpLR → Instr) (sw : Bool) (b : BitVec 24) : Option Instr :=
  some (k ⟨sw, b.extractLsb' 16 8, b.extractLsb' 0 16⟩)
def decN (k : OpN → Instr) (sw : Bool) (b : BitVec 24) : Option Instr :=
  if fD b = 0 ∧ fA b = 0 then some (k ⟨sw, fI b⟩) else none
def decDN (k : OpDN → Instr) (sw : Bool) (b : BitVec 24) : Option Instr :=
  if fA b = 0 then some (k ⟨sw, fD b, fI b⟩) else none
def decNA (k : OpNA → Instr) (sw : Bool) (b : BitVec 24) : Option Instr :=
  if fD b = 0 then some (k ⟨sw, fI b, fA b⟩) else none
def decS (k : OpS → Instr) (sw : Bool) (b : BitVec 24) : Option Instr :=
  if fD b = 0 ∧ fA b = 0 ∧ fB b = 0 then (Scope.ofCode (fX b)).map (fun s => k ⟨sw, s⟩) else none
def decAt (k : OpAt → Instr) (sw : Bool) (b : BitVec 24) : Option Instr :=
  (Scope.ofCode (fX b)).map (fun s => k ⟨sw, fD b, fA b, fB b, s⟩)
def decRed (k : OpRed → Instr) (sw : Bool) (b : BitVec 24) : Option Instr :=
  (RedOp.ofCode (fX b)).map (fun p => k ⟨sw, fD b, fA b, fB b, p⟩)
def decBar (k : OpBar → Instr) (sw : Bool) (b : BitVec 24) : Option Instr :=
  (BarOp.ofCode (fX b)).map (fun p => k ⟨sw, fD b, fA b, fB b, p⟩)
def decLev (k : OpLev → Instr) (sw : Bool) (b : BitVec 24) : Option Instr :=
  if fB b = 0 then (Level.ofCode (fX b)).map (fun l => k ⟨sw, fD b, fA b, l⟩) else none

/-- The scalar opcode map (R49) with the field use of each cell (R50); a cell it does not assign is illegal. -/
def decCell (op : Nat) (sw : Bool) (b : BitVec 24) : Option Instr :=
  match op with
  | 0x01 => decDAB .add sw b
  | 0x02 => decDAB .sub sw b
  | 0x03 => decDAB .mul sw b
  | 0x04 => decDAB .mulh sw b
  | 0x05 => decDAB .divu sw b
  | 0x06 => decDAB .divs sw b
  | 0x07 => decDAB .remu sw b
  | 0x08 => decDAB .and sw b
  | 0x09 => decDAB .or sw b
  | 0x0A => decDAB .xor sw b
  | 0x0B => decDAB .shl sw b
  | 0x0C => decDAB .shr sw b
  | 0x0D => decDAB .sar sw b
  | 0x0E => decDAB .min sw b
  | 0x0F => decDAB .max sw b
  | 0x10 => decDAB .minu sw b
  | 0x11 => decDAB .maxu sw b
  | 0x12 => decCmp .cmp sw b
  | 0x13 => decDABX .sel sw b
  | 0x14 => decDAI .addImm sw b
  | 0x15 => decDAI .mulImm sw b
  | 0x16 => decDAI .andImm sw b
  | 0x17 => decDAI .orImm sw b
  | 0x18 => decDAI .xorImm sw b
  | 0x19 => decShI .shlImm sw b
  | 0x1A => decShI .shrImm sw b
  | 0x1B => decShI .sarImm sw b
  | 0x1C => decCmpI .cmpImm sw b
  | 0x1D => decDL .li sw b
  | 0x1E => decDL .lih sw b
  | 0x1F => decD .ljoin sw b
  | 0x20 => decB .b sw b
  | 0x21 => decBQ .bq sw b
  | 0x22 => decBQ .bqN sw b
  | 0x23 => decB .call sw b
  | 0x24 => decA .callReg sw b
  | 0x25 => decZ .ret sw b
  | 0x26 => decA .jr sw b
  | 0x27 => decDL .loop sw b
  | 0x28 => decDAI .sldU8 sw b
  | 0x29 => decDAI .sldU16 sw b
  | 0x2A => decDAI .sldU32 sw b
  | 0x2B => decDAI .sld64 sw b
  | 0x2C => decDAI .sldI8 sw b
  | 0x2D => decDAI .sldI16 sw b
  | 0x2E => decDAI .sldI32 sw b
  | 0x2F => decS .sfence sw b
  | 0x30 => decDAI .sst8 sw b
  | 0x31 => decDAI .sst16 sw b
  | 0x32 => decDAI .sst32 sw b
  | 0x33 => decDAI .sst64 sw b
  | 0x34 => decLR .lrun sw b
  | 0x35 => decAB .lrunReg sw b
  | 0x36 => decN .trap sw b
  | 0x37 => decZ .eret sw b
  | 0x38 => decAt .satomAdd32 sw b
  | 0x39 => decAt .satomAnd32 sw b
  | 0x3A => decAt .satomOr32 sw b
  | 0x3B => decAt .satomXor32 sw b
  | 0x3C => decAt .satomMin32 sw b
  | 0x3D => decAt .satomMax32 sw b
  | 0x3E => decAt .satomMinu32 sw b
  | 0x3F => decAt .satomMaxu32 sw b
  | 0x40 => decAt .satomAdd64 sw b
  | 0x41 => decAt .satomAnd64 sw b
  | 0x42 => decAt .satomOr64 sw b
  | 0x43 => decAt .satomXor64 sw b
  | 0x44 => decAt .satomMin64 sw b
  | 0x45 => decAt .satomMax64 sw b
  | 0x46 => decAt .satomMinu64 sw b
  | 0x47 => decAt .satomMaxu64 sw b
  | 0x48 => decAt .satomXchg32 sw b
  | 0x49 => decAt .satomCas32 sw b
  | 0x4A => decAt .satomFadd32 sw b
  | 0x4B => decAt .satomIncw32 sw b
  | 0x4C => decAt .satomBfadd32 sw b
  | 0x4D => decDN .mfsr sw b
  | 0x4E => decNA .mtsr sw b
  | 0x4F => decN .brk sw b
  | 0x50 => decAt .satomXchg64 sw b
  | 0x51 => decAt .satomCas64 sw b
  | 0x53 => decAt .satomIncw64 sw b
  | 0x54 => decAt .satomBfadd64 sw b
  | 0x55 => decZ .halt sw b
  | 0x56 => decZ .nop sw b
  | 0x58 => decDA .tshape sw b
  | 0x59 => decDAB .tld sw b
  | 0x5A => decDAB .tst sw b
  | 0x5B => decDAB .tgath sw b
  | 0x5C => decDAB .tscat sw b
  | 0x5D => decRed .tred sw b
  | 0x5E => decAB .twait sw b
  | 0x5F => decAB .tgive sw b
  | 0x60 => decDAB .ovload sw b
  | 0x61 => if fX b = 0 then decAB .wloadImg sw b else if fX b = 1 then decABk 1 .wloadTile sw b else none
  | 0x62 => decA .gang sw b
  | 0x63 => decABX .mma sw b
  | 0x64 => decABX .mxpop sw b
  | 0x65 => decABX .mdist sw b
  | 0x66 => decAB .msmax sw b
  | 0x67 => decAB .mnorm sw b
  | 0x68 => decAB .mmerge sw b
  | 0x69 => decDABX .mdrain sw b
  | 0x6A => if fX b = 0 then decD .mzeroAcq sw b else if fX b = 1 then decDk 1 .mzeroClr sw b else decDk 2 .mzeroRel sw b
  | 0x6B => decBar .barrive sw b
  | 0x6C => decDA .bwait sw b
  | 0x6D => decDA .btest sw b
  | 0x6E => decD .attach sw b
  | 0x6F => decZ .detach sw b
  | 0x70 => decDA .claim sw b
  | 0x71 => decDA .release sw b
  | 0x72 => decZ .yield sw b
  | 0x73 => decLev .wcancel sw b
  | 0x74 => decLev .wdone sw b
  | 0x75 => decDAB .sqadmit sw b
  | 0x76 => decDA .sqnext sw b
  | 0x77 => decDAB .sqret sw b
  | 0x78 => decDA .pgalloc sw b
  | 0x79 => decDA .pgref sw b
  | 0x7A => decDA .pgdrop sw b
  | 0x7B => decDA .pgfork sw b
  | 0x7C => decDAB .pgmove sw b
  | 0x7D => decDAB .pgsend sw b
  | 0x7E => if fX b = 0 then decDA .sieveArm sw b else if fX b = 1 then decDAk 1 .sieveRead sw b else decDAk 2 .sieveDisarm sw b
  | 0x7F => if fX b = 0 then decDAB .sampleDraw sw b else decDABk 1 .sampleVfy sw b
  | _ => none

/-- An instruction that passes the limits on its fields (R52 check 4). -/
def keepWf (i : Option Instr) : Option Instr := i.bind (fun x => if x.wf then some x else none)

/-- The instruction of a scalar word, or none where R52 check 3 or 4 raises ILLINS. -/
def decodeScalar (w : W32) : Option Instr :=
  let r := splitS w
  keepWf (decCell r.op.toNat r.sw r.body)

/-! ### The lane word (R41) -/

/-- A lane word cut into the fields of R41. -/
structure RawL where
  sw  : Bool
  grp : BitVec 4
  fn  : BitVec 6
  g   : Bool
  n   : Bool
  p   : BitVec 4
  vd  : BitVec 9
  ma  : BitVec 6
  ka  : Bool
  mb  : BitVec 4
  vc  : BitVec 9
  vb  : BitVec 9
  va  : BitVec 9
  w2  : W32
  deriving DecidableEq, Repr

/-- The fields of a lane word (R41). -/
def splitL (w0 w1 w2 : W32) : RawL :=
  ⟨w0.extractLsb' 31 1 == 1#1, w0.extractLsb' 27 4, w0.extractLsb' 21 6, w0.extractLsb' 20 1 == 1#1,
   w0.extractLsb' 19 1 == 1#1, w0.extractLsb' 15 4, w0.extractLsb' 6 9, w0.extractLsb' 0 6,
   w1.extractLsb' 31 1 == 1#1, w1.extractLsb' 27 4, w1.extractLsb' 18 9, w1.extractLsb' 9 9, w1.extractLsb' 0 9, w2⟩

/-- Word 0 of the fields. -/
def joinL0 (r : RawL) : W32 :=
  BitVec.ofBool r.sw ++ r.grp ++ r.fn ++ BitVec.ofBool r.g ++ BitVec.ofBool r.n ++ r.p ++ r.vd ++ r.ma

/-- Word 1 of the fields. -/
def joinL1 (r : RawL) : W32 := BitVec.ofBool r.ka ++ r.mb ++ r.vc ++ r.vb ++ r.va

/-- The guard fields (R42). -/
def RawL.guard (r : RawL) : Guard := ⟨r.g, r.n, r.p⟩

/-- The first source (R43): with KA = 1, va[8:5] is 0. -/
def RawL.srcA (r : RawL) : Option SrcA :=
  if r.ka then (if r.va.extractLsb' 5 4 = 0 then some (.const (r.va.extractLsb' 0 5)) else none) else some (.reg r.va)

/-- The second source of groups 0, 1 and 4 (R44): with IMM = 1, vb is 0; with IMM = 0, W2 is 0. -/
def RawL.srcB (r : RawL) : Option SrcB :=
  if r.ma.extractLsb' 5 1 = 1#1 then (if r.vb = 0 then some (.imm r.w2) else none)
  else (if r.w2 = 0 then some (.reg r.vb) else none)

/-- A predicate field: its index in [3:0], with [8:4] = 0 (R43). -/
def predField (v : BitVec 9) : Option (BitVec 4) := if v.extractLsb' 4 5 = 0 then some (v.extractLsb' 0 4) else none

/-- A predicate index as a 9-bit field. -/
def predCode (p : BitVec 4) : BitVec 9 := 0#5 ++ p

/-- TY of groups 0 and 4: MA[4:3]. -/
def RawL.ty (r : RawL) : Ty := Ty.ofCode (r.ma.extractLsb' 3 2)

/-- SAT of group 0: MA[2]. -/
def RawL.sat0 (r : RawL) : Bool := r.ma.extractLsb' 2 1 == 1#1

def laneInt (k : LInt → Instr) (r : RawL) : Option Instr :=
  if r.ma.extractLsb' 0 2 = 0 ∧ r.mb = 0 ∧ r.vc = 0 then
    r.srcA.bind fun a => r.srcB.map fun b => k ⟨r.sw, r.guard, r.ty, r.sat0, r.vd, a, b⟩
  else none

def laneMad (r : RawL) : Option Instr :=
  if r.ma.extractLsb' 0 2 = 0 ∧ r.mb = 0 then
    r.srcA.bind fun a => r.srcB.map fun b => .imad ⟨r.sw, r.guard, r.ty, r.sat0, r.vd, a, b, r.vc⟩
  else none

def laneCnt (k : LCnt → Instr) (r : RawL) : Option Instr :=
  if r.ma.extractLsb' 5 1 = 0 ∧ r.ma.extractLsb' 0 3 = 0 ∧ r.mb = 0 ∧ r.vc = 0 ∧ r.vb = 0 ∧ r.w2 = 0 then
    r.srcA.map fun a => k ⟨r.sw, r.guard, r.ty, r.vd, a⟩
  else none

def laneBfe (r : RawL) : Option Instr :=
  if r.ma.extractLsb' 5 1 = 0 ∧ r.ma.extractLsb' 0 3 = 0 ∧ r.mb = 0 ∧ r.vc = 0 ∧ r.vb = 0 ∧
     r.w2.extractLsb' 7 1 = 0 ∧ r.w2.extractLsb' 15 17 = 0 then
    r.srcA.map fun a => .ibfe ⟨r.sw, r.guard, r.ty, r.vd, a, r.w2.extractLsb' 0 7, r.w2.extractLsb' 8 7⟩
  else none

def laneBfi (r : RawL) : Option Instr :=
  if r.ma.extractLsb' 5 1 = 0 ∧ r.ma.extractLsb' 0 3 = 0 ∧ r.mb = 0 ∧ r.vc = 0 ∧
     r.w2.extractLsb' 7 1 = 0 ∧ r.w2.extractLsb' 15 17 = 0 then
    r.srcA.map fun a => .ibfi ⟨r.sw, r.guard, r.ty, r.vd, a, r.vb, r.w2.extractLsb' 0 7, r.w2.extractLsb' 8 7⟩
  else none

/-- Group 0, Integer (R193 to R195). -/
def laneGrp0 (r : RawL) : Option Instr :=
  match r.fn.toNat with
  | 1 => laneInt .iadd r | 2 => laneInt .isub r | 3 => laneInt .imul r | 4 => laneInt .imulh r | 5 => laneMad r
  | 6 => laneInt .imin r | 7 => laneInt .imax r | 8 => laneInt .iand r | 9 => laneInt .ior r | 10 => laneInt .ixor r
  | 11 => laneInt .ishl r | 12 => laneInt .ishr r | 13 => laneInt .isar r
  | 14 => laneCnt .ipop r | 15 => laneCnt .iclz r | 16 => laneBfe r | 17 => laneBfi r
  | _ => none

def laneFlt (k : LFlt → Instr) (r : RawL) : Option Instr :=
  if r.mb = 0 ∧ r.vc = 0 then
    (Pk.ofCode (r.ma.extractLsb' 3 2)).bind fun pk => (Rm.ofCode (r.ma.extractLsb' 0 3)).bind fun rm =>
      r.srcA.bind fun a => r.srcB.map fun b => k ⟨r.sw, r.guard, pk, rm, r.vd, a, b⟩
  else none

def laneFma (r : RawL) : Option Instr :=
  if r.mb = 0 then
    (Pk.ofCode (r.ma.extractLsb' 3 2)).bind fun pk => (Rm.ofCode (r.ma.extractLsb' 0 3)).bind fun rm =>
      r.srcA.bind fun a => r.srcB.map fun b => .ffma ⟨r.sw, r.guard, pk, rm, r.vd, a, b, r.vc⟩
  else none

def laneFmm (k : LFmm → Instr) (r : RawL) : Option Instr :=
  if r.mb = 0 ∧ r.vc = 0 ∧ r.ma.extractLsb' 0 3 = 0 then
    (Pk.ofCode (r.ma.extractLsb' 3 2)).bind fun pk =>
      r.srcA.bind fun a => r.srcB.map fun b => k ⟨r.sw, r.guard, pk, r.vd, a, b⟩
  else none

def laneFrnd (r : RawL) : Option Instr :=
  if r.ma.extractLsb' 5 1 = 0 ∧ r.mb = 0 ∧ r.vc = 0 ∧ r.vb = 0 ∧ r.w2 = 0 then
    (Pk.ofCode (r.ma.extractLsb' 3 2)).bind fun pk => (Rm.ofCode (r.ma.extractLsb' 0 3)).bind fun rm =>
      r.srcA.map fun a => .frnd ⟨r.sw, r.guard, pk, rm, r.vd, a⟩
  else none

/-- Group 1, Float (R196 to R198). -/
def laneGrp1 (r : RawL) : Option Instr :=
  match r.fn.toNat with
  | 0 => laneFlt .fadd r | 1 => laneFlt .fsub r | 2 => laneFlt .fmul r | 3 => laneFma r
  | 4 => laneFmm .fmin r | 5 => laneFmm .fmax r | 6 => laneFrnd r
  | _ => none

def laneUn (k : LUn → Instr) (r : RawL) : Option Instr :=
  if r.ma = 0 ∧ r.mb = 0 ∧ r.vc = 0 ∧ r.vb = 0 ∧ r.w2 = 0 then r.srcA.map fun a => k ⟨r.sw, r.guard, r.vd, a⟩ else none

/-- Group 2, Transcendental (R200). -/
def laneGrp2 (r : RawL) : Option Instr :=
  match r.fn.toNat with
  | 0 => laneUn .exp2 r | 1 => laneUn .log2 r | 2 => laneUn .rcp r | 3 => laneUn .rsq r | 4 => laneUn .sqrt r
  | 5 => laneUn .tanh r
  | _ => none

/-- SAT of group 3: MA[5]. -/
def RawL.sat3 (r : RawL) : Bool := r.ma.extractLsb' 5 1 == 1#1

def laneCvt (r : RawL) : Option Instr :=
  if r.ma.extractLsb' 3 2 = 0 ∧ r.mb = 0 ∧ r.vc = 0 ∧ r.vb = 0 ∧ r.w2.extractLsb' 11 21 = 0 then
    (Rm.ofCode (r.ma.extractLsb' 0 3)).bind fun rm => (Dt.ofCode (r.w2.extractLsb' 0 4)).bind fun dt =>
      (Dt.ofCode (r.w2.extractLsb' 4 4)).bind fun st =>
        r.srcA.map fun a => .cvt ⟨r.sw, r.guard, r.sat3, rm, r.vd, a, dt, st, r.w2.extractLsb' 8 3⟩
  else none

def lanePack (k : LPack → Instr) (r : RawL) : Option Instr :=
  if r.ma.extractLsb' 3 2 = 0 ∧ r.mb = 0 ∧ r.vc = 0 ∧ r.w2.extractLsb' 11 21 = 0 then
    (Rm.ofCode (r.ma.extractLsb' 0 3)).bind fun rm => (Dt.ofCode (r.w2.extractLsb' 0 4)).bind fun dt =>
      (Dt.ofCode (r.w2.extractLsb' 4 4)).bind fun st =>
        r.srcA.map fun a => k ⟨r.sw, r.guard, r.sat3, rm, r.vd, a, r.vb, dt, st, r.w2.extractLsb' 8 3⟩
  else none

/-- Group 3, Convert (R202 to R204). -/
def laneGrp3 (r : RawL) : Option Instr :=
  match r.fn.toNat with
  | 0 => laneCvt r | 1 => lanePack .pack r | 2 => lanePack .unpack r
  | _ => none

def laneICmp (r : RawL) : Option Instr :=
  if r.ma.extractLsb' 0 3 = 0 ∧ r.mb.extractLsb' 3 1 = 0 ∧ r.vc = 0 then
    (ICond.ofCode (r.mb.extractLsb' 0 3)).bind fun c => (predField r.vd).bind fun pd =>
      r.srcA.bind fun a => r.srcB.map fun b => .icmp ⟨r.sw, r.guard, c, r.ty, pd, a, b⟩
  else none

def laneFCmp (r : RawL) : Option Instr :=
  if r.ma.extractLsb' 0 3 = 0 ∧ r.mb.extractLsb' 3 1 = 0 ∧ r.vc = 0 then
    (Pk.ofCode (r.ma.extractLsb' 3 2)).bind fun pk => (predField r.vd).bind fun pd =>
      r.srcA.bind fun a => r.srcB.map fun b =>
        .fcmp ⟨r.sw, r.guard, FCond.ofCode (r.mb.extractLsb' 0 3), pk, pd, a, b⟩
  else none

def laneP3 (k : LP3 → Instr) (r : RawL) : Option Instr :=
  if r.ma = 0 ∧ r.mb = 0 ∧ r.ka = false ∧ r.vc = 0 ∧ r.w2 = 0 then
    (predField r.vd).bind fun pd => (predField r.va).bind fun pa => (predField r.vb).map fun pb =>
      k ⟨r.sw, r.guard, pd, pa, pb⟩
  else none

def lanePNot (r : RawL) : Option Instr :=
  if r.ma = 0 ∧ r.mb = 0 ∧ r.ka = false ∧ r.vc = 0 ∧ r.vb = 0 ∧ r.w2 = 0 then
    (predField r.vd).bind fun pd => (predField r.va).map fun pa => .pnot ⟨r.sw, r.guard, pd, pa⟩
  else none

def lanePMov (r : RawL) : Option Instr :=
  if r.ma.extractLsb' 0 5 = 0 ∧ r.mb = 0 ∧ r.ka = false ∧ r.vc = 0 ∧ r.vb = 0 then
    if r.ma.extractLsb' 5 1 = 1#1 then
      (if r.va = 0 ∧ r.w2.extractLsb' 1 31 = 0 then
        (predField r.vd).map fun pd => .pmov ⟨r.sw, r.guard, pd, .imm (r.w2.extractLsb' 0 1 == 1#1)⟩ else none)
    else
      (if r.w2 = 0 then
        (predField r.vd).bind fun pd => (predField r.va).map fun pa => .pmov ⟨r.sw, r.guard, pd, .reg pa⟩ else none)
  else none

/-- Group 4, Compare and predicate (R205 to R207). -/
def laneGrp4 (r : RawL) : Option Instr :=
  match r.fn.toNat with
  | 0 => laneICmp r | 1 => laneFCmp r | 2 => laneP3 .pand r | 3 => laneP3 .por r | 4 => laneP3 .pxor r
  | 5 => lanePNot r | 6 => lanePMov r
  | _ => none

def laneMovi (r : RawL) : Option Instr :=
  if r.ma = 0 ∧ r.mb = 0 ∧ r.ka = false ∧ r.vc = 0 ∧ r.vb = 0 ∧ r.va = 0 then
    some (.movi ⟨r.sw, r.guard, r.vd, r.w2⟩) else none

def laneSelD (r : RawL) : Option Instr :=
  if r.ma = 0 ∧ r.mb = 0 ∧ r.w2 = 0 then
    r.srcA.bind fun a => (predField r.vc).map fun pc => .laneSel ⟨r.sw, r.guard, r.vd, a, r.vb, pc⟩
  else none

/-- Group 5, Move (R208). -/
def laneGrp5 (r : RawL) : Option Instr :=
  match r.fn.toNat with
  | 0 => laneUn .mov r | 1 => laneMovi r | 2 => laneSelD r
  | _ => none

/-- The distance d of SHFL.up, .down and .xor: W2[4:0], with W2[31:5] = 0 and vb = 0 (R209). -/
def shDist (r : RawL) : Option (BitVec 5) :=
  if r.vb = 0 ∧ r.w2.extractLsb' 5 27 = 0 then some (r.w2.extractLsb' 0 5) else none

/-- The source lane of SHFL by MODE (R209). -/
def shSrc (r : RawL) : Option ShSrc :=
  if r.mb = 0 then (if r.w2 = 0 then some (.idx r.vb) else none)
  else if r.mb = 1 then (shDist r).map .up
  else if r.mb = 2 then (shDist r).map .down
  else if r.mb = 3 then (shDist r).map .xor
  else none

def laneShfl (r : RawL) : Option Instr :=
  if r.ma = 0 ∧ r.vc = 0 then
    r.srcA.bind fun a => (shSrc r).map fun s => .shfl ⟨r.sw, r.guard, r.vd, a, s⟩
  else none

def laneVote (r : RawL) : Option Instr :=
  if r.ma = 0 ∧ r.ka = false ∧ r.vc = 0 ∧ r.vb = 0 ∧ r.w2 = 0 ∧ r.mb.extractLsb' 3 1 = 0 then
    (VMode.ofCode (r.mb.extractLsb' 0 3)).bind fun m => (predField r.va).map fun pa =>
      .vote ⟨r.sw, r.guard, m, r.vd, pa⟩
  else none

def laneXput (r : RawL) : Option Instr :=
  if r.ma = 0 ∧ r.vc = 0 ∧ r.vb = 0 ∧ r.w2 = 0 ∧ r.mb.extractLsb' 3 1 = 0 ∧ r.vd.extractLsb' 2 7 = 0 then
    r.srcA.map fun a => .xput ⟨r.sw, r.guard, XOp.ofCode (r.mb.extractLsb' 0 3), r.vd.extractLsb' 0 2, a⟩
  else none

def laneReord (r : RawL) : Option Instr :=
  if r.guard = ⟨false, false, 0⟩ ∧ r.ma = 0 ∧ r.mb = 0 ∧ r.vc = 0 ∧ r.vb = 0 then
    r.srcA.map fun a => .reord ⟨r.sw, r.vd, a, r.w2⟩
  else none

/-- Group 6, Cross-lane (R209 to R211, R93). -/
def laneGrp6 (r : RawL) : Option Instr :=
  match r.fn.toNat with
  | 0 => laneShfl r | 1 => laneVote r | 2 => laneXput r | 3 => laneReord r
  | _ => none

/-- SC: MA[2:0]. -/
def RawL.sc (r : RawL) : Option Scope := Scope.ofCode (r.ma.extractLsb' 0 3)

/-- ORD: MB[1:0]. -/
def RawL.ord (r : RawL) : Ord := Ord.ofCode (r.mb.extractLsb' 0 2)

/-- WD: MA[5:4]. -/
def RawL.wd (r : RawL) : Wd := Wd.ofCode (r.ma.extractLsb' 4 2)

def laneLd (r : RawL) : Option Instr :=
  if r.mb.extractLsb' 2 2 = 0 ∧ r.vc = 0 ∧ r.vb = 0 then
    r.sc.bind fun sc => r.srcA.map fun a =>
      .ld ⟨r.sw, r.guard, r.wd, r.ma.extractLsb' 3 1 == 1#1, r.ord, sc, r.vd, a, r.w2⟩
  else none

def laneSt (r : RawL) : Option Instr :=
  if r.mb.extractLsb' 2 2 = 0 ∧ r.vc = 0 ∧ r.vd = 0 ∧ r.ma.extractLsb' 3 1 = 0 then
    r.sc.bind fun sc => r.srcA.map fun a => .st ⟨r.sw, r.guard, r.wd, r.ord, sc, a, r.vb, r.w2⟩
  else none

def lanePref (r : RawL) : Option Instr :=
  if r.ma = 0 ∧ r.mb = 0 ∧ r.vc = 0 ∧ r.vb = 0 ∧ r.vd = 0 then
    r.srcA.map fun a => .pref ⟨r.sw, r.guard, a, r.w2⟩
  else none

/-- ATOM: WD is .32 or .64 (R261), S = 0. -/
def laneAtom (r : RawL) : Option Instr :=
  if r.mb.extractLsb' 2 2 = 0 ∧ r.ma.extractLsb' 3 1 = 0 ∧ r.ma.extractLsb' 5 1 = 1#1 ∧ r.w2.extractLsb' 4 28 = 0 then
    r.sc.bind fun sc => (AOp.ofCode (r.w2.extractLsb' 0 4)).bind fun op => r.srcA.map fun a =>
      .atom ⟨r.sw, r.guard, op, r.ma.extractLsb' 4 1 == 1#1, r.ord, sc, r.vd, a, r.vb, r.vc⟩
  else none

def laneFence (r : RawL) : Option Instr :=
  if r.guard = ⟨false, false, 0⟩ ∧ r.vd = 0 ∧ r.ma.extractLsb' 3 3 = 0 ∧ r.mb.extractLsb' 2 2 = 0 ∧ r.ka = false ∧
     r.vc = 0 ∧ r.vb = 0 ∧ r.va = 0 ∧ r.w2 = 0 then
    r.sc.map fun sc => .fence ⟨r.sw, r.ord, sc⟩
  else none

/-- Group 7, Memory (R257, R258, R265). -/
def laneGrp7 (r : RawL) : Option Instr :=
  match r.fn.toNat with
  | 0 => laneLd r | 1 => laneSt r | 2 => laneAtom r | 3 => laneFence r | 4 => lanePref r
  | _ => none

/-- Word 1 is 0, and vd = MA = 0: the control instructions (R76 to R79). -/
def RawL.ctl (r : RawL) : Bool :=
  r.vd == 0 && r.ma == 0 && !r.ka && r.mb == 0 && r.vc == 0 && r.vb == 0 && r.va == 0

/-- The forms of BRA, selected by W2 (R76). -/
def laneBra (r : RawL) : Option Instr :=
  let j := r.w2.extractLsb' 16 16
  let t := r.w2.extractLsb' 0 16
  if j = 0xFFFF then (if r.guard = ⟨false, false, 0⟩ then some (.braJump ⟨r.sw, t⟩) else none)
  else if j = t then some (.braLeave ⟨r.sw, r.guard, j⟩)
  else some (.braDivergent ⟨r.sw, r.guard, t, j⟩)

/-- Group 8, Control (R76 to R79, R321). -/
def laneGrp8 (r : RawL) : Option Instr :=
  if r.ctl then
    match r.fn.toNat with
    | 0 => laneBra r
    | 1 => if r.guard = ⟨false, false, 0⟩ ∧ r.w2.extractLsb' 0 16 = 0
        then some (.join ⟨r.sw, r.w2.extractLsb' 16 16⟩) else none
    | 2 => if r.guard = ⟨false, false, 0⟩ ∧ r.w2 = 0 then some (.regang ⟨r.sw⟩) else none
    | 3 => if r.guard = ⟨false, false, 0⟩ ∧ r.w2 = 0 then some (.lend ⟨r.sw⟩) else none
    | 4 => if r.w2.extractLsb' 10 22 = 0 then some (.ltrap ⟨r.sw, r.guard, r.w2.extractLsb' 0 10⟩) else none
    | _ => none
  else none

/-- The lane opcode map (R51): groups 9 to 15 are illegal. -/
def decLaneRaw (r : RawL) : Option Instr :=
  match r.grp.toNat with
  | 0 => laneGrp0 r | 1 => laneGrp1 r | 2 => laneGrp2 r | 3 => laneGrp3 r | 4 => laneGrp4 r | 5 => laneGrp5 r
  | 6 => laneGrp6 r | 7 => laneGrp7 r | 8 => laneGrp8 r
  | _ => none

/-- The instruction of a lane word, or none where R52 check 3 or 4 raises ILLINS. -/
def decodeLane (w0 w1 w2 : W32) : Option Instr := keepWf (decLaneRaw (splitL w0 w1 w2))

/-- The instruction that the decoder reads from a word numbered as spec/opcode_table.json numbers it: 32 bits give a scalar
word, 96 bits the three words of a lane instruction, lowest first. -/
def decodeTableWord (nbits w : Nat) : Option Instr :=
  if nbits ≤ 32 then decodeScalar (BitVec.ofNat 32 w)
  else decodeLane (BitVec.ofNat 32 w) (BitVec.ofNat 32 (w >>> 32)) (BitVec.ofNat 32 (w >>> 64))

/-! ### The encoder -/

/-- The parts of a scalar instruction's word (R50). -/
def rawScalar : Instr → Option RawS
  | .add o => some ⟨o.sw, 0x01, mkR o.rd o.ra o.rb 0⟩
  | .sub o => some ⟨o.sw, 0x02, mkR o.rd o.ra o.rb 0⟩
  | .mul o => some ⟨o.sw, 0x03, mkR o.rd o.ra o.rb 0⟩
  | .mulh o => some ⟨o.sw, 0x04, mkR o.rd o.ra o.rb 0⟩
  | .divu o => some ⟨o.sw, 0x05, mkR o.rd o.ra o.rb 0⟩
  | .divs o => some ⟨o.sw, 0x06, mkR o.rd o.ra o.rb 0⟩
  | .remu o => some ⟨o.sw, 0x07, mkR o.rd o.ra o.rb 0⟩
  | .and o => some ⟨o.sw, 0x08, mkR o.rd o.ra o.rb 0⟩
  | .or o => some ⟨o.sw, 0x09, mkR o.rd o.ra o.rb 0⟩
  | .xor o => some ⟨o.sw, 0x0A, mkR o.rd o.ra o.rb 0⟩
  | .shl o => some ⟨o.sw, 0x0B, mkR o.rd o.ra o.rb 0⟩
  | .shr o => some ⟨o.sw, 0x0C, mkR o.rd o.ra o.rb 0⟩
  | .sar o => some ⟨o.sw, 0x0D, mkR o.rd o.ra o.rb 0⟩
  | .min o => some ⟨o.sw, 0x0E, mkR o.rd o.ra o.rb 0⟩
  | .max o => some ⟨o.sw, 0x0F, mkR o.rd o.ra o.rb 0⟩
  | .minu o => some ⟨o.sw, 0x10, mkR o.rd o.ra o.rb 0⟩
  | .maxu o => some ⟨o.sw, 0x11, mkR o.rd o.ra o.rb 0⟩
  | .cmp o => some ⟨o.sw, 0x12, mkC o.cond o.qd o.ra (mkBX o.rb 0)⟩
  | .sel o => some ⟨o.sw, 0x13, mkR o.rd o.ra o.rb o.x⟩
  | .addImm o => some ⟨o.sw, 0x14, mkI o.rd o.ra o.imm⟩
  | .mulImm o => some ⟨o.sw, 0x15, mkI o.rd o.ra o.imm⟩
  | .andImm o => some ⟨o.sw, 0x16, mkI o.rd o.ra o.imm⟩
  | .orImm o => some ⟨o.sw, 0x17, mkI o.rd o.ra o.imm⟩
  | .xorImm o => some ⟨o.sw, 0x18, mkI o.rd o.ra o.imm⟩
  | .shlImm o => some ⟨o.sw, 0x19, mkI o.rd o.ra (mkCnt o.cnt)⟩
  | .shrImm o => some ⟨o.sw, 0x1A, mkI o.rd o.ra (mkCnt o.cnt)⟩
  | .sarImm o => some ⟨o.sw, 0x1B, mkI o.rd o.ra (mkCnt o.cnt)⟩
  | .cmpImm o => some ⟨o.sw, 0x1C, mkC o.cond o.qd o.ra o.imm⟩
  | .li o => some ⟨o.sw, 0x1D, mkL o.rd o.imm⟩
  | .lih o => some ⟨o.sw, 0x1E, mkL o.rd o.imm⟩
  | .ljoin o => some ⟨o.sw, 0x1F, mkR o.rd 0 0 0⟩
  | .b o => some ⟨o.sw, 0x20, mkB 0 o.off⟩
  | .bq o => some ⟨o.sw, 0x21, mkB o.q o.off⟩
  | .bqN o => some ⟨o.sw, 0x22, mkB o.q o.off⟩
  | .call o => some ⟨o.sw, 0x23, mkB 0 o.off⟩
  | .callReg o => some ⟨o.sw, 0x24, mkR 0 o.ra 0 0⟩
  | .ret o => some ⟨o.sw, 0x25, 0⟩
  | .jr o => some ⟨o.sw, 0x26, mkR 0 o.ra 0 0⟩
  | .loop o => some ⟨o.sw, 0x27, mkL o.rd o.imm⟩
  | .sldU8 o => some ⟨o.sw, 0x28, mkI o.rd o.ra o.imm⟩
  | .sldU16 o => some ⟨o.sw, 0x29, mkI o.rd o.ra o.imm⟩
  | .sldU32 o => some ⟨o.sw, 0x2A, mkI o.rd o.ra o.imm⟩
  | .sld64 o => some ⟨o.sw, 0x2B, mkI o.rd o.ra o.imm⟩
  | .sldI8 o => some ⟨o.sw, 0x2C, mkI o.rd o.ra o.imm⟩
  | .sldI16 o => some ⟨o.sw, 0x2D, mkI o.rd o.ra o.imm⟩
  | .sldI32 o => some ⟨o.sw, 0x2E, mkI o.rd o.ra o.imm⟩
  | .sfence o => some ⟨o.sw, 0x2F, mkR 0 0 0 o.sc.code⟩
  | .sst8 o => some ⟨o.sw, 0x30, mkI o.rd o.ra o.imm⟩
  | .sst16 o => some ⟨o.sw, 0x31, mkI o.rd o.ra o.imm⟩
  | .sst32 o => some ⟨o.sw, 0x32, mkI o.rd o.ra o.imm⟩
  | .sst64 o => some ⟨o.sw, 0x33, mkI o.rd o.ra o.imm⟩
  | .lrun o => some ⟨o.sw, 0x34, mkLR o.mask o.off⟩
  | .lrunReg o => some ⟨o.sw, 0x35, mkR 0 o.ra o.rb 0⟩
  | .trap o => some ⟨o.sw, 0x36, mkI 0 0 o.num⟩
  | .eret o => some ⟨o.sw, 0x37, 0⟩
  | .satomAdd32 o => some ⟨o.sw, 0x38, mkR o.rd o.ra o.rb o.sc.code⟩
  | .satomAnd32 o => some ⟨o.sw, 0x39, mkR o.rd o.ra o.rb o.sc.code⟩
  | .satomOr32 o => some ⟨o.sw, 0x3A, mkR o.rd o.ra o.rb o.sc.code⟩
  | .satomXor32 o => some ⟨o.sw, 0x3B, mkR o.rd o.ra o.rb o.sc.code⟩
  | .satomMin32 o => some ⟨o.sw, 0x3C, mkR o.rd o.ra o.rb o.sc.code⟩
  | .satomMax32 o => some ⟨o.sw, 0x3D, mkR o.rd o.ra o.rb o.sc.code⟩
  | .satomMinu32 o => some ⟨o.sw, 0x3E, mkR o.rd o.ra o.rb o.sc.code⟩
  | .satomMaxu32 o => some ⟨o.sw, 0x3F, mkR o.rd o.ra o.rb o.sc.code⟩
  | .satomAdd64 o => some ⟨o.sw, 0x40, mkR o.rd o.ra o.rb o.sc.code⟩
  | .satomAnd64 o => some ⟨o.sw, 0x41, mkR o.rd o.ra o.rb o.sc.code⟩
  | .satomOr64 o => some ⟨o.sw, 0x42, mkR o.rd o.ra o.rb o.sc.code⟩
  | .satomXor64 o => some ⟨o.sw, 0x43, mkR o.rd o.ra o.rb o.sc.code⟩
  | .satomMin64 o => some ⟨o.sw, 0x44, mkR o.rd o.ra o.rb o.sc.code⟩
  | .satomMax64 o => some ⟨o.sw, 0x45, mkR o.rd o.ra o.rb o.sc.code⟩
  | .satomMinu64 o => some ⟨o.sw, 0x46, mkR o.rd o.ra o.rb o.sc.code⟩
  | .satomMaxu64 o => some ⟨o.sw, 0x47, mkR o.rd o.ra o.rb o.sc.code⟩
  | .satomXchg32 o => some ⟨o.sw, 0x48, mkR o.rd o.ra o.rb o.sc.code⟩
  | .satomCas32 o => some ⟨o.sw, 0x49, mkR o.rd o.ra o.rb o.sc.code⟩
  | .satomFadd32 o => some ⟨o.sw, 0x4A, mkR o.rd o.ra o.rb o.sc.code⟩
  | .satomIncw32 o => some ⟨o.sw, 0x4B, mkR o.rd o.ra o.rb o.sc.code⟩
  | .satomBfadd32 o => some ⟨o.sw, 0x4C, mkR o.rd o.ra o.rb o.sc.code⟩
  | .mfsr o => some ⟨o.sw, 0x4D, mkI o.rd 0 o.num⟩
  | .mtsr o => some ⟨o.sw, 0x4E, mkI 0 o.ra o.num⟩
  | .brk o => some ⟨o.sw, 0x4F, mkI 0 0 o.num⟩
  | .satomXchg64 o => some ⟨o.sw, 0x50, mkR o.rd o.ra o.rb o.sc.code⟩
  | .satomCas64 o => some ⟨o.sw, 0x51, mkR o.rd o.ra o.rb o.sc.code⟩
  | .satomIncw64 o => some ⟨o.sw, 0x53, mkR o.rd o.ra o.rb o.sc.code⟩
  | .satomBfadd64 o => some ⟨o.sw, 0x54, mkR o.rd o.ra o.rb o.sc.code⟩
  | .halt o => some ⟨o.sw, 0x55, 0⟩
  | .nop o => some ⟨o.sw, 0x56, 0⟩
  | .tshape o => some ⟨o.sw, 0x58, mkR o.rd o.ra 0 0⟩
  | .tld o => some ⟨o.sw, 0x59, mkR o.rd o.ra o.rb 0⟩
  | .tst o => some ⟨o.sw, 0x5A, mkR o.rd o.ra o.rb 0⟩
  | .tgath o => some ⟨o.sw, 0x5B, mkR o.rd o.ra o.rb 0⟩
  | .tscat o => some ⟨o.sw, 0x5C, mkR o.rd o.ra o.rb 0⟩
  | .tred o => some ⟨o.sw, 0x5D, mkR o.rd o.ra o.rb o.op.code⟩
  | .twait o => some ⟨o.sw, 0x5E, mkR 0 o.ra o.rb 0⟩
  | .tgive o => some ⟨o.sw, 0x5F, mkR 0 o.ra o.rb 0⟩
  | .ovload o => some ⟨o.sw, 0x60, mkR o.rd o.ra o.rb 0⟩
  | .wloadImg o => some ⟨o.sw, 0x61, mkR 0 o.ra o.rb 0⟩
  | .wloadTile o => some ⟨o.sw, 0x61, mkR 0 o.ra o.rb 1⟩
  | .gang o => some ⟨o.sw, 0x62, mkR 0 o.ra 0 0⟩
  | .mma o => some ⟨o.sw, 0x63, mkR 0 o.ra o.rb o.x⟩
  | .mxpop o => some ⟨o.sw, 0x64, mkR 0 o.ra o.rb o.x⟩
  | .mdist o => some ⟨o.sw, 0x65, mkR 0 o.ra o.rb o.x⟩
  | .msmax o => some ⟨o.sw, 0x66, mkR 0 o.ra o.rb 0⟩
  | .mnorm o => some ⟨o.sw, 0x67, mkR 0 o.ra o.rb 0⟩
  | .mmerge o => some ⟨o.sw, 0x68, mkR 0 o.ra o.rb 0⟩
  | .mdrain o => some ⟨o.sw, 0x69, mkR o.rd o.ra o.rb o.x⟩
  | .mzeroAcq o => some ⟨o.sw, 0x6A, mkR o.rd 0 0 0⟩
  | .mzeroClr o => some ⟨o.sw, 0x6A, mkR o.rd 0 0 1⟩
  | .mzeroRel o => some ⟨o.sw, 0x6A, mkR o.rd 0 0 2⟩
  | .barrive o => some ⟨o.sw, 0x6B, mkR o.rd o.ra o.rb o.op.code⟩
  | .bwait o => some ⟨o.sw, 0x6C, mkR o.rd o.ra 0 0⟩
  | .btest o => some ⟨o.sw, 0x6D, mkR o.rd o.ra 0 0⟩
  | .attach o => some ⟨o.sw, 0x6E, mkR o.rd 0 0 0⟩
  | .detach o => some ⟨o.sw, 0x6F, 0⟩
  | .claim o => some ⟨o.sw, 0x70, mkR o.rd o.ra 0 0⟩
  | .release o => some ⟨o.sw, 0x71, mkR o.rd o.ra 0 0⟩
  | .yield o => some ⟨o.sw, 0x72, 0⟩
  | .wcancel o => some ⟨o.sw, 0x73, mkR o.rd o.ra 0 o.lev.code⟩
  | .wdone o => some ⟨o.sw, 0x74, mkR o.rd o.ra 0 o.lev.code⟩
  | .sqadmit o => some ⟨o.sw, 0x75, mkR o.rd o.ra o.rb 0⟩
  | .sqnext o => some ⟨o.sw, 0x76, mkR o.rd o.ra 0 0⟩
  | .sqret o => some ⟨o.sw, 0x77, mkR o.rd o.ra o.rb 0⟩
  | .pgalloc o => some ⟨o.sw, 0x78, mkR o.rd o.ra 0 0⟩
  | .pgref o => some ⟨o.sw, 0x79, mkR o.rd o.ra 0 0⟩
  | .pgdrop o => some ⟨o.sw, 0x7A, mkR o.rd o.ra 0 0⟩
  | .pgfork o => some ⟨o.sw, 0x7B, mkR o.rd o.ra 0 0⟩
  | .pgmove o => some ⟨o.sw, 0x7C, mkR o.rd o.ra o.rb 0⟩
  | .pgsend o => some ⟨o.sw, 0x7D, mkR o.rd o.ra o.rb 0⟩
  | .sieveArm o => some ⟨o.sw, 0x7E, mkR o.rd o.ra 0 0⟩
  | .sieveRead o => some ⟨o.sw, 0x7E, mkR o.rd o.ra 0 1⟩
  | .sieveDisarm o => some ⟨o.sw, 0x7E, mkR o.rd o.ra 0 2⟩
  | .sampleDraw o => some ⟨o.sw, 0x7F, mkR o.rd o.ra o.rb 0⟩
  | .sampleVfy o => some ⟨o.sw, 0x7F, mkR o.rd o.ra o.rb 1⟩
  | _ => none

/-- The word of a scalar instruction. -/
def encodeScalar (i : Instr) : Option W32 := (rawScalar i).map joinS

/-- All fields zero but GRP, FN, SW and the guard. -/
def rawBase (sw : Bool) (grp : BitVec 4) (fn : BitVec 6) (g : Guard) : RawL :=
  ⟨sw, grp, fn, g.en, g.neg, g.p, 0, 0, false, 0, 0, 0, 0, 0⟩

/-- No guard. -/
def noGuard : Guard := ⟨false, false, 0⟩

def SrcA.ka : SrcA → Bool | .reg _ => false | .const _ => true
def SrcA.va : SrcA → BitVec 9 | .reg v => v | .const s => 0#4 ++ s
def SrcB.isImm : SrcB → Bool | .reg _ => false | .imm _ => true
def SrcB.vb : SrcB → BitVec 9 | .reg v => v | .imm _ => 0
def SrcB.w2 : SrcB → W32 | .reg _ => 0 | .imm w => w

/-- The first source into KA and va. -/
def RawL.withA (r : RawL) (a : SrcA) : RawL := { r with ka := a.ka, va := a.va }

/-- MA of groups 0, 1 and 4: IMM, two bits and three bits. -/
def mkMA (imm : Bool) (x : BitVec 2) (y : BitVec 3) : BitVec 6 := BitVec.ofBool imm ++ x ++ y

/-- MA of group 0: [2] SAT, [1:0] 0. -/
def mkMA0 (imm : Bool) (t : Ty) (sat : Bool) : BitVec 6 := mkMA imm t.code (BitVec.ofBool sat ++ 0#2)

def rawInt (fn : BitVec 6) (o : LInt) : RawL :=
  { (rawBase o.sw 0 fn o.g).withA o.va with vd := o.vd, ma := mkMA0 o.vb.isImm o.ty o.sat, vb := o.vb.vb, w2 := o.vb.w2 }

def rawMad (o : LMad) : RawL :=
  { (rawBase o.sw 0 5 o.g).withA o.va with
    vd := o.vd, ma := mkMA0 o.vb.isImm o.ty o.sat, vb := o.vb.vb, w2 := o.vb.w2, vc := o.vc }

def rawCnt (fn : BitVec 6) (o : LCnt) : RawL :=
  { (rawBase o.sw 0 fn o.g).withA o.va with vd := o.vd, ma := mkMA0 false o.ty false }

/-- W2 of the bit-field instructions (R195). -/
def mkBf (pos len : BitVec 7) : W32 := 0#17 ++ len ++ 0#1 ++ pos

def rawBfe (o : LBfe) : RawL :=
  { (rawBase o.sw 0 16 o.g).withA o.va with vd := o.vd, ma := mkMA0 false o.ty false, w2 := mkBf o.pos o.len }

def rawBfi (o : LBfi) : RawL :=
  { (rawBase o.sw 0 17 o.g).withA o.va with vd := o.vd, ma := mkMA0 false o.ty false, vb := o.vb, w2 := mkBf o.pos o.len }

def rawFlt (fn : BitVec 6) (o : LFlt) : RawL :=
  { (rawBase o.sw 1 fn o.g).withA o.va with
    vd := o.vd, ma := mkMA o.vb.isImm o.pk.code o.rm.code, vb := o.vb.vb, w2 := o.vb.w2 }

def rawFma (o : LFma) : RawL :=
  { (rawBase o.sw 1 3 o.g).withA o.va with
    vd := o.vd, ma := mkMA o.vb.isImm o.pk.code o.rm.code, vb := o.vb.vb, w2 := o.vb.w2, vc := o.vc }

def rawFmm (fn : BitVec 6) (o : LFmm) : RawL :=
  { (rawBase o.sw 1 fn o.g).withA o.va with
    vd := o.vd, ma := mkMA o.vb.isImm o.pk.code 0, vb := o.vb.vb, w2 := o.vb.w2 }

def rawFrnd (o : LFrnd) : RawL :=
  { (rawBase o.sw 1 6 o.g).withA o.va with vd := o.vd, ma := mkMA false o.pk.code o.rm.code }

def rawUn (grp : BitVec 4) (fn : BitVec 6) (o : LUn) : RawL := { (rawBase o.sw grp fn o.g).withA o.va with vd := o.vd }

/-- W2 of the conversions (R202): FS in [10:8], ST in [7:4], DT in [3:0]. -/
def mkCvtW (dt st : Dt) (fs : BitVec 3) : W32 := 0#21 ++ fs ++ st.code ++ dt.code

def rawCvt (o : LCvt) : RawL :=
  { (rawBase o.sw 3 0 o.g).withA o.va with vd := o.vd, ma := mkMA o.sat 0 o.rm.code, w2 := mkCvtW o.dt o.st o.fs }

def rawPack (fn : BitVec 6) (o : LPack) : RawL :=
  { (rawBase o.sw 3 fn o.g).withA o.va with
    vd := o.vd, ma := mkMA o.sat 0 o.rm.code, vb := o.vb, w2 := mkCvtW o.dt o.st o.fs }

def rawICmp (o : LICmp) : RawL :=
  { (rawBase o.sw 4 0 o.g).withA o.va with
    vd := predCode o.pd, ma := mkMA o.vb.isImm o.ty.code 0, mb := 0#1 ++ o.cond.code, vb := o.vb.vb, w2 := o.vb.w2 }

def rawFCmp (o : LFCmp) : RawL :=
  { (rawBase o.sw 4 1 o.g).withA o.va with
    vd := predCode o.pd, ma := mkMA o.vb.isImm o.pk.code 0, mb := 0#1 ++ o.cond.code, vb := o.vb.vb, w2 := o.vb.w2 }

def rawP3 (fn : BitVec 6) (o : LP3) : RawL :=
  { rawBase o.sw 4 fn o.g with vd := predCode o.pd, va := predCode o.pa, vb := predCode o.pb }

def rawPMov (o : LPMov) : RawL :=
  match o.src with
  | .reg p => { rawBase o.sw 4 6 o.g with vd := predCode o.pd, va := predCode p }
  | .imm b => { rawBase o.sw 4 6 o.g with vd := predCode o.pd, ma := mkMA true 0 0, w2 := 0#31 ++ BitVec.ofBool b }

def rawShfl (o : LShfl) : RawL :=
  let r := { (rawBase o.sw 6 0 o.g).withA o.va with vd := o.vd }
  match o.src with
  | .idx v => { r with vb := v }
  | .up d => { r with mb := 1, w2 := 0#27 ++ d }
  | .down d => { r with mb := 2, w2 := 0#27 ++ d }
  | .xor d => { r with mb := 3, w2 := 0#27 ++ d }

/-- MA of the memory instructions: WD, S and SC (R44). -/
def mkMA7 (wd : Wd) (sx : Bool) (sc : Scope) : BitVec 6 := wd.code ++ BitVec.ofBool sx ++ sc.code

/-- MB of the memory instructions: ORD (R44). -/
def mkMB7 (ord : Ord) : BitVec 4 := 0#2 ++ ord.code

def rawLd (o : LLd) : RawL :=
  { (rawBase o.sw 7 0 o.g).withA o.va with vd := o.vd, ma := mkMA7 o.wd o.sx o.sc, mb := mkMB7 o.ord, w2 := o.off }

def rawSt (o : LSt) : RawL :=
  { (rawBase o.sw 7 1 o.g).withA o.va with vb := o.vb, ma := mkMA7 o.wd false o.sc, mb := mkMB7 o.ord, w2 := o.off }

/-- WD of ATOM (R261). -/
def atomWd (w64 : Bool) : Wd := if w64 then .b64 else .b32

def rawAtom (o : LAtom) : RawL :=
  { (rawBase o.sw 7 2 o.g).withA o.va with
    vd := o.vd, ma := mkMA7 (atomWd o.w64) false o.sc, mb := mkMB7 o.ord, vb := o.vb, vc := o.vc, w2 := 0#28 ++ o.op.code }

/-- The fields of a lane instruction's words (R41, R51). -/
def rawLane : Instr → Option RawL
  | .iadd o => some (rawInt 1 o) | .isub o => some (rawInt 2 o) | .imul o => some (rawInt 3 o)
  | .imulh o => some (rawInt 4 o) | .imad o => some (rawMad o)
  | .imin o => some (rawInt 6 o) | .imax o => some (rawInt 7 o) | .iand o => some (rawInt 8 o)
  | .ior o => some (rawInt 9 o) | .ixor o => some (rawInt 10 o) | .ishl o => some (rawInt 11 o)
  | .ishr o => some (rawInt 12 o) | .isar o => some (rawInt 13 o)
  | .ipop o => some (rawCnt 14 o) | .iclz o => some (rawCnt 15 o) | .ibfe o => some (rawBfe o) | .ibfi o => some (rawBfi o)
  | .fadd o => some (rawFlt 0 o) | .fsub o => some (rawFlt 1 o) | .fmul o => some (rawFlt 2 o) | .ffma o => some (rawFma o)
  | .fmin o => some (rawFmm 4 o) | .fmax o => some (rawFmm 5 o) | .frnd o => some (rawFrnd o)
  | .exp2 o => some (rawUn 2 0 o) | .log2 o => some (rawUn 2 1 o) | .rcp o => some (rawUn 2 2 o)
  | .rsq o => some (rawUn 2 3 o) | .sqrt o => some (rawUn 2 4 o) | .tanh o => some (rawUn 2 5 o)
  | .cvt o => some (rawCvt o) | .pack o => some (rawPack 1 o) | .unpack o => some (rawPack 2 o)
  | .icmp o => some (rawICmp o) | .fcmp o => some (rawFCmp o)
  | .pand o => some (rawP3 2 o) | .por o => some (rawP3 3 o) | .pxor o => some (rawP3 4 o)
  | .pnot o => some { rawBase o.sw 4 5 o.g with vd := predCode o.pd, va := predCode o.pa }
  | .pmov o => some (rawPMov o)
  | .mov o => some (rawUn 5 0 o)
  | .movi o => some { rawBase o.sw 5 1 o.g with vd := o.vd, w2 := o.imm }
  | .laneSel o => some { (rawBase o.sw 5 2 o.g).withA o.va with vd := o.vd, vb := o.vb, vc := predCode o.pc }
  | .shfl o => some (rawShfl o)
  | .vote o => some { rawBase o.sw 6 1 o.g with vd := o.d, va := predCode o.pa, mb := 0#1 ++ o.mode.code }
  | .xput o => some { (rawBase o.sw 6 2 o.g).withA o.va with vd := 0#7 ++ o.k, mb := 0#1 ++ o.op.code }
  | .reord o => some { (rawBase o.sw 6 3 noGuard).withA o.va with vd := o.vd, w2 := o.groups }
  | .ld o => some (rawLd o) | .st o => some (rawSt o) | .atom o => some (rawAtom o)
  | .fence o => some { rawBase o.sw 7 3 noGuard with ma := mkMA7 .b8 false o.sc, mb := mkMB7 o.ord }
  | .pref o => some { (rawBase o.sw 7 4 o.g).withA o.va with w2 := o.off }
  | .braDivergent o => some { rawBase o.sw 8 0 o.g with w2 := o.join ++ o.target }
  | .braLeave o => some { rawBase o.sw 8 0 o.g with w2 := o.join ++ o.join }
  | .braJump o => some { rawBase o.sw 8 0 noGuard with w2 := 0xFFFF#16 ++ o.off }
  | .join o => some { rawBase o.sw 8 1 noGuard with w2 := o.off ++ 0#16 }
  | .regang o => some (rawBase o.sw 8 2 noGuard)
  | .lend o => some (rawBase o.sw 8 3 noGuard)
  | .ltrap o => some { rawBase o.sw 8 4 o.g with w2 := 0#22 ++ o.num }
  | _ => none

/-- The three words of a lane instruction. -/
def encodeLane (i : Instr) : Option (W32 × W32 × W32) := (rawLane i).map fun r => (joinL0 r, joinL1 r, r.w2)

/-- The 32-bit words of an instruction, lowest first; none for the operations and events, which have no words in the
instruction stores. -/
def encode (i : Instr) : List W32 :=
  match encodeScalar i with
  | some w => [w]
  | none =>
    match encodeLane i with
    | some (a, b, c) => [a, b, c]
    | none => []

/-- The number of bits of an instruction's words. -/
def encodedBits (i : Instr) : Nat := 32 * (encode i).length

/-- The words of an instruction as one number, the first word lowest. -/
def encodeNat (i : Instr) : Nat := (encode i).foldr (fun w n => w.toNat + n * 2 ^ 32) 0

end Sys2Proof
end

