-- ==== Sys2Proof/Machine/Bits.lean ====
section
/-!
DEFINITION. Bit-field, sign-extension and byte-order helpers (R4, R64), and the CRC-32 of IEEE 802.3 (R55, R219).
-/

namespace Sys2Proof

/-- bits(x, hi, lo) of R64 on a natural number: x[hi:lo], zero-extended. -/
def bitsN (x hi lo : Nat) : Nat := (x >>> lo) % 2 ^ (hi + 1 - lo)

/-- Bit k of a natural number. -/
def bitN (x k : Nat) : Bool := (x >>> k) % 2 == 1

/-- A Bool as the number 0 or 1. -/
def b2n (b : Bool) : Nat := if b then 1 else 0

/-- sext(x, w) of R64 as an integer: the low w bits of x read as two's complement. -/
def sextI (w x : Nat) : Int :=
  let y := x % 2 ^ w
  if y < 2 ^ (w - 1) then (y : Int) else (y : Int) - (2 ^ w : Nat)

/-- The low w bits of an integer, as a natural number (narrowing modulo 2^w, R10). -/
def wrapN (w : Nat) (i : Int) : Nat := (i % ((2 ^ w : Nat) : Int)).toNat

/-- sext(x, w) of R64 to 64 bits. -/
def sext64 (w x : Nat) : W64 := BitVec.ofNat 64 (wrapN 64 (sextI w x))

/-- The n little-endian bytes of a value (R4). -/
def bytesOf : Nat → Nat → List Byte
  | 0, _ => []
  | n + 1, v => BitVec.ofNat 8 v :: bytesOf n (v / 256)

/-- The value of little-endian bytes (R4). -/
def ofBytes : List Byte → Nat
  | [] => 0
  | b :: t => b.toNat + 256 * ofBytes t

/-- The number of 1 bits among the low n bits of x. -/
def popN : Nat → Nat → Nat
  | 0, _ => 0
  | n + 1, x => x % 2 + popN n (x / 2)

/-- Eight steps of the reflected CRC-32 shift register. -/
def crcBits : Nat → Nat → Nat
  | 0, c => c
  | n + 1, c => crcBits n (if c % 2 = 1 then (c / 2) ^^^ 0xEDB88320 else c / 2)

/-- CRC-32 (IEEE 802.3 polynomial) over bytes, as R55 and R219 name it. -/
def crc32 (bs : List Byte) : Nat :=
  (bs.foldl (fun c b => crcBits 8 (c ^^^ b.toNat)) 0xFFFFFFFF) ^^^ 0xFFFFFFFF

/-- The least multiple of m that is at least x, for m ≥ 1. -/
def roundUp (x m : Nat) : Nat := (x + m - 1) / m * m

/-- ceil(x ÷ m), for m ≥ 1. -/
def ceilDiv (x m : Nat) : Nat := (x + m - 1) / m

/-- The elements of a list whose index is set in the mask, used for slice and lane masks. -/
def maskList (n m : Nat) : List Nat := (List.range n).filter (fun k => bitN m k)

/-- The mask with the bits named in a list. -/
def listMask (l : List Nat) : Nat := l.foldl (fun m k => m ||| (1 <<< k)) 0

/-- Replaces element k of a list; a list shorter than k is unchanged. -/
def listSet {α : Type} : List α → Nat → α → List α
  | [], _, _ => []
  | _ :: t, 0, v => v :: t
  | h :: t, k + 1, v => h :: listSet t k v

/-- Element k of a list, or d past its end. -/
def listGet {α : Type} (d : α) : List α → Nat → α
  | [], _ => d
  | h :: _, 0 => h
  | _ :: t, k + 1 => listGet d t k

/-- Removes element k of a list. -/
def listDrop {α : Type} : List α → Nat → List α
  | [], _ => []
  | _ :: t, 0 => t
  | h :: t, k + 1 => h :: listDrop t k

end Sys2Proof
end

