-- ==== Sys2Proof/Machine/Num.lean ====
section
/-!
DEFINITION. Number formats and rounding (R168 to R182): exact values, the formats of a slot, round of R180 and R181, and
the functions of R200 as exact or bracketed rational values that are rounded once.
-/

namespace Sys2Proof

/-- The sticky flags of R176: RSVD, NV, DZ, OF, UF, NX from bit 5 down to bit 0. -/
abbrev Flags := BitVec 6

def flagRSVD : Flags := 0x20
def flagNV : Flags := 0x10
def flagDZ : Flags := 0x08
def flagOF : Flags := 0x04
def flagUF : Flags := 0x02
def flagNX : Flags := 0x01

/-- An exact value: NaN, an infinity, or (-1)^neg × num ÷ den with den ≥ 1; a zero keeps its sign. -/
inductive Ex
  | nan
  | inf (neg : Bool)
  | fin (neg : Bool) (num den : Nat)
  deriving DecidableEq, Repr, Inhabited

/-- The exact value of an integer; 0 is +0. -/
def Ex.ofInt (i : Int) : Ex := .fin (decide (i < 0)) i.natAbs 1

/-- m × 2^e with a sign. -/
def Ex.scaled (neg : Bool) (m : Nat) (e : Int) : Ex :=
  if 0 ≤ e then .fin neg (m * 2 ^ e.toNat) 1 else .fin neg m (2 ^ (-e).toNat)

def Ex.isNan : Ex → Bool | .nan => true | _ => false
def Ex.isInf : Ex → Bool | .inf _ => true | _ => false
def Ex.isZero : Ex → Bool | .fin _ n _ => n == 0 | _ => false
/-- The sign bit: of a zero or an infinity too; false of NaN. -/
def Ex.sign : Ex → Bool | .nan => false | .inf s => s | .fin s _ _ => s
/-- x < 0. -/
def Ex.isNeg : Ex → Bool | .nan => false | .inf s => s | .fin s n _ => s && n != 0

def Ex.neg : Ex → Ex | .nan => .nan | .inf s => .inf (!s) | .fin s n d => .fin (!s) n d
def Ex.abs : Ex → Ex | .nan => .nan | .inf _ => .inf false | .fin _ n d => .fin false n d

/-- The signed numerator of a finite value. -/
def signedNum (s : Bool) (n : Nat) : Int := if s then -(n : Int) else n

/-- Exact sum; rdn gives the sign of an exact zero sum of operands of opposite signs (R196). Opposite infinities give NaN. -/
def Ex.add (rdn : Bool) : Ex → Ex → Ex
  | .nan, _ => .nan
  | _, .nan => .nan
  | .inf s, .inf t => if s = t then .inf s else .nan
  | .inf s, .fin _ _ _ => .inf s
  | .fin _ _ _, .inf t => .inf t
  | .fin s n d, .fin t m e =>
    let v := if d = e then signedNum s n + signedNum t m else signedNum s (n * e) + signedNum t (m * d)
    let dn := if d = e then d else d * e
    if v = 0 then .fin (if n = 0 ∧ m = 0 ∧ s = t then s else rdn) 0 1 else .fin (decide (v < 0)) v.natAbs dn

/-- Exact difference. -/
def Ex.sub (rdn : Bool) (a b : Ex) : Ex := a.add rdn b.neg

/-- Exact product; infinity × 0 is NaN. -/
def Ex.mul : Ex → Ex → Ex
  | .nan, _ => .nan
  | _, .nan => .nan
  | .inf s, .inf t => .inf (s != t)
  | .inf s, .fin t m _ => if m = 0 then .nan else .inf (s != t)
  | .fin s n _, .inf t => if n = 0 then .nan else .inf (s != t)
  | .fin s n d, .fin t m e => .fin (s != t) (n * m) (d * e)

/-- Exact quotient; 0 ÷ 0 and inf ÷ inf give NaN, and x ÷ 0 gives an infinity. -/
def Ex.div : Ex → Ex → Ex
  | .nan, _ => .nan
  | _, .nan => .nan
  | .inf _, .inf _ => .nan
  | .inf s, .fin t _ _ => .inf (s != t)
  | .fin s _ _, .inf t => .fin (s != t) 0 1
  | .fin s n d, .fin t m e =>
    if m = 0 then (if n = 0 then .nan else .inf (s != t)) else .fin (s != t) (n * e) (d * m)

/-- a < b; false when either is NaN; -0 equals +0. -/
def Ex.lt : Ex → Ex → Bool
  | .nan, _ => false
  | _, .nan => false
  | .inf s, .inf t => s && !t
  | .inf s, .fin _ _ _ => s
  | .fin _ _ _, .inf t => !t
  | .fin s n d, .fin t m e => decide (signedNum s (n * e) < signedNum t (m * d))

/-- a = b as numbers; false when either is NaN. -/
def Ex.eqv (a b : Ex) : Bool := !a.isNan && !b.isNan && !a.lt b && !b.lt a

/-- The sign, numerator and denominator of a finite value; 0 for the others. -/
def Ex.parts : Ex → Bool × Nat × Nat
  | .fin s n d => (s, n, d)
  | .nan => (false, 0, 1)
  | .inf s => (s, 0, 1)

/-! ### Formats (R168 to R174) -/

/-- A format: floating (a narrow format with E ≥ 1, or F32, F16, BF16, which follow the policy SP = 1), fixed point or
integer, or B1. -/
inductive Fmt
  | flt (e m : Nat) (bias : Int) (s : Bool) (sp : Nat)
  | fix (w : Nat) (s : Bool) (bias : Int) (sym : Bool)
  | b1
  deriving DecidableEq, Repr, Inhabited

def fmtF32 : Fmt := .flt 8 23 127 true 1
def fmtF16 : Fmt := .flt 5 10 15 true 1
def fmtBF16 : Fmt := .flt 8 7 127 true 1
def fmtI32 : Fmt := .fix 32 true 0 false
def fmtI8 : Fmt := .fix 8 true 0 false
def fmtI4 : Fmt := .fix 4 true 0 false

/-- The canonical NaN code of a floating format (R172). -/
def Fmt.nanCode : Fmt → Nat
  | .flt e m _ _ sp =>
    if sp = 1 then (2 ^ e - 1) * 2 ^ m + 2 ^ (m - 1) else (2 ^ e - 1) * 2 ^ m + (2 ^ m - 1)
  | .fix _ _ _ _ => 0
  | .b1 => 0

/-- The exponent and mantissa fields of the largest finite magnitude (R172). -/
def maxFields (e m sp : Nat) : Nat × Nat :=
  if sp = 1 then (2 ^ e - 2, 2 ^ m - 1)
  else if sp = 2 then (if m = 0 then (2 ^ e - 2, 0) else (2 ^ e - 1, 2 ^ m - 2))
  else (2 ^ e - 1, 2 ^ m - 1)

/-- The magnitude of the code with exponent field ef and mantissa field mf (R169). -/
def fieldValue (m : Nat) (bias : Int) (neg : Bool) (ef mf : Nat) : Ex :=
  if ef = 0 then Ex.scaled neg mf (1 - bias - m) else Ex.scaled neg (2 ^ m + mf) ((ef : Int) - bias - m)

/-- The value of a code, and whether the code is reserved (R169 to R173, R177). -/
def Fmt.value (f : Fmt) (code : Nat) : Ex × Bool :=
  match f with
  | .flt e m bias s sp =>
    let neg := s && bitN code (e + m)
    let ef := (code / 2 ^ m) % 2 ^ e
    let mf := code % 2 ^ m
    if sp = 1 ∧ ef = 2 ^ e - 1 then ((if mf = 0 then .inf neg else .nan), false)
    else if sp = 2 ∧ ef = 2 ^ e - 1 ∧ mf = 2 ^ m - 1 then (.nan, false)
    else if sp = 3 ∧ neg ∧ ef = 0 ∧ mf = 0 then (.fin false 0 1, true)
    else (fieldValue m bias neg ef mf, false)
  | .fix w s bias sym =>
    let c := code % 2 ^ w
    let n : Int := if s then sextI w c else c
    if sym ∧ c = 2 ^ (w - 1) then (Ex.scaled true (2 ^ (w - 1) - 1) (-bias), true)
    else (Ex.scaled (decide (n < 0)) n.natAbs (-bias), false)
  | .b1 => (.fin (code % 2 == 1) 1 1, false)

/-- A result code and the flags it raises. -/
structure Rounded where
  code  : Nat
  flags : Flags
  deriving DecidableEq, Repr, Inhabited

/-! ### Rounding -/

/-- floor(log2 (n ÷ d)) for n, d ≥ 1. -/
def ilog2 (n d : Nat) : Int :=
  let l : Int := (Nat.log2 n : Int) - (Nat.log2 d : Int)
  let ge : Bool := if 0 ≤ l then decide (d * 2 ^ l.toNat ≤ n) else decide (d ≤ n * 2 ^ (-l).toNat)
  if ge then l else l - 1

/-- Whether a magnitude with quotient q, remainder r and divisor d is rounded up (R180). A tie of .rn goes by the parity of the
significand, also in a format without mantissa bits (log entry 116). -/
def roundUpMag (rm : Rm) (neg : Bool) (q r d : Nat) : Bool :=
  match rm with
  | .rn => decide (d < 2 * r) || (decide (2 * r = d) && q % 2 == 1)
  | .rz => false
  | .rdn => neg && r != 0
  | .rup => !neg && r != 0

/-- n ÷ (d × 2^e) as quotient, remainder and divisor. -/
def quotAt (n d : Nat) (e : Int) : Nat × Nat × Nat :=
  let n' := if 0 ≤ e then n else n * 2 ^ (-e).toNat
  let d' := if 0 ≤ e then d * 2 ^ e.toNat else d
  (n' / d', n' % d', d')

/-- A magnitude rounded onto the grid of m mantissa bits with least exponent emin: (mantissa, exponent, inexact) (R180). -/
def onGrid (rm : Rm) (neg : Bool) (n d m : Nat) (emin : Int) : Nat × Int × Bool :=
  let e := max (ilog2 n d) emin - m
  let (q, r, d') := quotAt n d e
  (if roundUpMag rm neg q r d' then q + 1 else q, e, r != 0)

/-- The code of sign, exponent field and mantissa field. -/
def packFields (e m : Nat) (neg : Bool) (ef mf : Nat) : Nat := b2n neg * 2 ^ (e + m) + ef * 2 ^ m + mf

/-- round of R180 into a floating format. -/
def roundFlt (e m : Nat) (bias : Int) (s : Bool) (sp : Nat) (rm : Rm) (sat : Bool) (x : Ex) : Rounded :=
  let (maxE, maxM) := maxFields e m sp
  let largest (neg : Bool) : Nat := packFields e m neg maxE maxM
  let nanCode := (Fmt.flt e m bias s sp).nanCode
  let negZero := s && sp != 3
  match x with
  | .nan => if sp = 1 ∨ sp = 2 then ⟨nanCode, 0⟩ else ⟨0, flagNV⟩
  | .inf neg =>
    if neg ∧ s = false then ⟨0, if sat then 0 else flagNV⟩
    else if sp = 1 then (if sat then ⟨largest neg, 0⟩ else ⟨packFields e m neg (2 ^ e - 1) 0, 0⟩)
    else if sp = 2 then (if sat then ⟨largest neg, 0⟩ else ⟨nanCode, flagNV⟩)
    else ⟨largest neg, flagOF⟩
  | .fin neg n d =>
    if n = 0 then ⟨if neg && negZero then packFields e m true 0 0 else 0, 0⟩
    else if neg ∧ s = false then ⟨0, if sat then 0 else flagNV⟩
    else
      let (q, ex, inexact) := onGrid rm neg n d m (1 - bias)
      let y := Ex.scaled false q ex
      if (fieldValue m bias false maxE maxM).lt y then
        let fl := flagOF ||| flagNX
        if sat then ⟨largest neg, fl⟩
        else if sp = 1 then
          (if rm = .rn ∨ (rm = .rup ∧ !neg) ∨ (rm = .rdn ∧ neg) then ⟨packFields e m neg (2 ^ e - 1) 0, fl⟩
           else ⟨largest neg, fl⟩)
        else if sp = 2 then ⟨nanCode, fl ||| flagNV⟩
        else ⟨largest neg, fl⟩
      else
        let tiny := (Ex.fin false n d).lt (Ex.scaled false 1 (1 - bias))
        let fl : Flags := if inexact then (if tiny then flagNX ||| flagUF else flagNX) else 0
        if q = 0 then ⟨if neg && negZero then packFields e m true 0 0 else 0, fl⟩
        else if q < 2 ^ m then ⟨packFields e m neg 0 q, fl⟩
        else
          let (q', ex') := if q = 2 ^ (m + 1) then (2 ^ m, ex + 1) else (q, ex)
          ⟨packFields e m neg ((ex' + m + bias).toNat) (q' - 2 ^ m), fl⟩

/-- The nearest integers to a finite value under a mode, and whether it is inexact. -/
def roundInt (rm : Rm) (neg : Bool) (n d : Nat) : Int × Bool :=
  let q := n / d
  let r := n % d
  (signedNum neg (if roundUpMag rm neg q r d then q + 1 else q), r != 0)

/-- round of R181 into an integer or fixed-point format. -/
def roundFix (w : Nat) (s : Bool) (bias : Int) (sym : Bool) (rm : Rm) (sat : Bool) (x : Ex) : Rounded :=
  let lo : Int := if s then -(2 ^ (w - 1) : Nat) + (b2n sym : Nat) else 0
  let hi : Int := if s then (2 ^ (w - 1) : Nat) - 1 else (2 ^ w : Nat) - 1
  match x with
  | .nan => ⟨0, flagNV⟩
  | .inf neg => if sat then ⟨wrapN w (if neg then lo else hi), 0⟩ else ⟨0, flagNV⟩
  | .fin neg n d =>
    let (n', d') := if 0 ≤ bias then (n * 2 ^ bias.toNat, d) else (n, d * 2 ^ (-bias).toNat)
    let (i, inexact) := roundInt rm neg n' d'
    if lo ≤ i ∧ i ≤ hi then ⟨wrapN w i, if inexact then flagNX else 0⟩
    else if sat then ⟨wrapN w (if i < 0 then lo else hi), flagNX⟩
    else
      let c := wrapN w i
      ⟨if sym ∧ c = 2 ^ (w - 1) then wrapN w (if i < 0 then lo else hi) else c, flagNV⟩

/-- round(x, f, rm, sat) of R64 (R180, R181). -/
def roundTo (f : Fmt) (rm : Rm) (sat : Bool) (x : Ex) : Rounded :=
  match f with
  | .flt e m bias s sp => roundFlt e m bias s sp rm sat x
  | .fix w s bias sym => roundFix w s bias sym rm sat x
  | .b1 => ⟨b2n x.sign, 0⟩

/-- round(x, F32, .rn, 0), the rounding of every accumulation (R183, R185). -/
def rn32 (x : Ex) : Rounded := roundTo fmtF32 .rn false x

/-- The value of a binary32 code. -/
def val32 (code : Nat) : Ex := (fmtF32.value (code % 2 ^ 32)).1

/-! ### The functions of R200 -/

/-- floor(√n), by the bits of the root from bit k - 1 down. -/
def isqrtGo (n : Nat) : Nat → Nat → Nat
  | 0, r => r
  | k + 1, r => isqrtGo n k (if (r + 2 ^ k) * (r + 2 ^ k) ≤ n then r + 2 ^ k else r)

/-- floor(√n). -/
def isqrt (n : Nat) : Nat := isqrtGo n (Nat.log2 n / 2 + 1) 0

/-- √(n ÷ d): exact when n × d is a square, else the middle of a bracket of 2^-64 of its place. -/
def sqrtEx (n d : Nat) : Ex :=
  let t := n * d * 2 ^ 128
  let r := isqrt t
  if r * r = t then .fin false r (d * 2 ^ 64) else .fin false (2 * r + 1) (2 * d * 2 ^ 64)

/-- ln 2 × 2^256, rounded down. -/
def ln2Fix : Nat := 0xb17217f7d1cf79abc9e3b39803f2f6af40f343267298b62d8a0d175b8baafa2b

/-- Fixed-point places of the series below. -/
def fixBits : Nat := 256

/-- Terms y^k ÷ k! of the exponential series, k from i on, in fixed point. -/
def expTerms : Nat → Nat → Nat → Nat → Nat
  | 0, _, _, _ => 0
  | n + 1, i, y, t => t + expTerms n (i + 1) y (t * y / 2 ^ 256 / (i + 1))

/-- e^(y ÷ 2^256) × 2^256 for 0 ≤ y < 2^256. -/
def expFix (y : Nat) : Nat := expTerms 80 0 y (2 ^ 256)

/-- 2^x for x = i + f with 0 ≤ f < 1, f in fixed point. -/
def pow2Fix (i : Int) (f : Nat) : Ex := Ex.scaled false (expFix (f * ln2Fix / 2 ^ 256)) (i - 256)

/-- Terms z^(2k+1) ÷ (2k+1) of the inverse hyperbolic tangent, in fixed point. -/
def atanhTerms : Nat → Nat → Nat → Nat → Nat
  | 0, _, _, _ => 0
  | n + 1, k, z2, t => t / (2 * k + 1) + atanhTerms n (k + 1) z2 (t * z2 / 2 ^ 256)

/-- ln(m) × 2^256 for m = n ÷ d in [1, 2]. -/
def lnFix (n d : Nat) : Nat :=
  let z := (n - d) * 2 ^ 256 / (n + d)
  2 * atanhTerms 90 0 (z * z / 2 ^ 256) z

/-- A result that is known to be inexact carries NX (R200). -/
def inexact (r : Rounded) : Rounded := ⟨r.code, r.flags ||| flagNX⟩

/-- 2^x for a finite x: exact for integers; clamped where the result overflows or rounds to 0 in any case. -/
def exp2Val (neg : Bool) (n d : Nat) : Ex × Bool :=
  let big := n ≥ d * 256
  if big then ((if neg then Ex.scaled false 1 (-256) else Ex.scaled false 1 256), true)
  else
    let fl : Int := if neg then -((n + d - 1) / d : Nat) else ((n / d : Nat) : Int)
    let num : Int := signedNum neg n - fl * d
    if num = 0 then (Ex.scaled false 1 fl, true)
    else (pow2Fix fl (num.toNat * 2 ^ 256 / d), false)

/-- EXP2 (R200, R201). -/
def exp2R (x : Ex) : Rounded :=
  match x with
  | .nan => ⟨fmtF32.nanCode, 0⟩
  | .inf neg => if neg then ⟨0, 0⟩ else ⟨0x7F800000, 0⟩
  | .fin neg n d =>
    if n = 0 then ⟨0x3F800000, 0⟩
    else
      let (v, exact) := exp2Val neg n d
      if exact then rn32 v else inexact (rn32 v)

/-- LOG2 (R200, R201). -/
def log2R (x : Ex) : Rounded :=
  match x with
  | .nan => ⟨fmtF32.nanCode, 0⟩
  | .inf neg => if neg then ⟨fmtF32.nanCode, flagNV⟩ else ⟨0x7F800000, 0⟩
  | .fin neg n d =>
    if n = 0 then ⟨0xFF800000, flagDZ⟩
    else if neg then ⟨fmtF32.nanCode, flagNV⟩
    else
      let e := ilog2 n d
      let n' := if 0 ≤ e then n else n * 2 ^ (-e).toNat
      let d' := if 0 ≤ e then d * 2 ^ e.toNat else d
      if n' = d' then rn32 (Ex.ofInt e)
      else
        let v : Int := e * (2 ^ 256 : Nat) + (lnFix n' d' * 2 ^ 256 / ln2Fix : Nat)
        inexact (rn32 (.fin (decide (v < 0)) v.natAbs (2 ^ 256)))

/-- RCP (R200, R201). -/
def rcpR (x : Ex) : Rounded :=
  match x with
  | .nan => ⟨fmtF32.nanCode, 0⟩
  | .inf neg => if neg then ⟨0x80000000, 0⟩ else ⟨0, 0⟩
  | .fin neg n d =>
    if n = 0 then ⟨if neg then 0xFF800000 else 0x7F800000, flagDZ⟩ else rn32 (.fin neg d n)

/-- RSQ (R200, R201). -/
def rsqR (x : Ex) : Rounded :=
  match x with
  | .nan => ⟨fmtF32.nanCode, 0⟩
  | .inf neg => if neg then ⟨fmtF32.nanCode, flagNV⟩ else ⟨0, 0⟩
  | .fin neg n d =>
    if n = 0 then ⟨if neg then 0xFF800000 else 0x7F800000, flagDZ⟩
    else if neg then ⟨fmtF32.nanCode, flagNV⟩ else rn32 (sqrtEx d n)

/-- SQRT (R200, R201). -/
def sqrtR (x : Ex) : Rounded :=
  match x with
  | .nan => ⟨fmtF32.nanCode, 0⟩
  | .inf neg => if neg then ⟨fmtF32.nanCode, flagNV⟩ else ⟨0x7F800000, 0⟩
  | .fin neg n d =>
    if n = 0 then ⟨if neg then 0x80000000 else 0, 0⟩
    else if neg then ⟨fmtF32.nanCode, flagNV⟩ else rn32 (sqrtEx n d)

/-- tanh of a positive finite value: within 2^-80 of x below 2^-40, near 1 from 32 on, and (e^2x - 1) ÷ (e^2x + 1) between. -/
def tanhVal (n d : Nat) : Ex :=
  if n * 2 ^ 40 < d then .fin false (n * (3 * d * d - n * n)) (3 * d * d * d)
  else if n ≥ 32 * d then .fin false (2 ^ 64 - 1) (2 ^ 64)
  else
    let u := 2 * n * 2 ^ 512 / (d * ln2Fix)
    let i := u / 2 ^ 256
    let e := expFix ((u % 2 ^ 256) * ln2Fix / 2 ^ 256) * 2 ^ i
    .fin false (e - 2 ^ 256) (e + 2 ^ 256)

/-- TANH (R200, R201). -/
def tanhR (x : Ex) : Rounded :=
  match x with
  | .nan => ⟨fmtF32.nanCode, 0⟩
  | .inf neg => ⟨if neg then 0xBF800000 else 0x3F800000, 0⟩
  | .fin neg n d =>
    if n = 0 then ⟨if neg then 0x80000000 else 0, 0⟩
    else
      let v := tanhVal n d
      inexact (rn32 (if neg then v.neg else v))

/-! ### Arithmetic on codes (R185, R196) -/

/-- The result of an operation: a NaN operand gives the canonical NaN, an invalid operation the same with NV, and any other
exact result is rounded once (R196). -/
def arith (f : Fmt) (rm : Rm) (anyNan : Bool) (t : Ex) : Rounded :=
  if anyNan then ⟨f.nanCode, 0⟩
  else match t with
    | .nan => ⟨f.nanCode, flagNV⟩
    | .inf s => roundTo f rm false (.inf s)
    | .fin s n d => roundTo f rm false (.fin s n d)

/-- A binary32 sum rounded to nearest even. -/
def addF32 (a b : Nat) : Rounded :=
  let x := val32 a
  let y := val32 b
  arith fmtF32 .rn (x.isNan || y.isNan) (x.add false y)

/-- The smaller or the larger of two elements, without rounding; -0 lies below +0 (R197). -/
def minmax (f : Fmt) (big : Bool) (a b : Nat) : Nat :=
  let x := (f.value a).1
  let y := (f.value b).1
  if x.isNan && y.isNan then f.nanCode
  else if x.isNan then b
  else if y.isNan then a
  else
    let less := x.lt y || (x.eqv y && x.sign && !y.sign)
    if less != big then a else b

end Sys2Proof
end

