-- ==== Sys2Proof/Machine/Sparse.lean ====
section
/-!
DEFINITION. Sparse maps: lists of (key, value) pairs in one canonical form, keys strictly rising and no value equal
to what an unlisted key reads as. Memory, register files, scratchpads and tables are held in this form.
-/

namespace Sys2Proof

/-- A sparse map from natural numbers. -/
abbrev Sparse (α : Type) := List (Nat × α)

/-- The value at a key; an unlisted key reads d. -/
def sparseGet {α : Type} (d : α) : Sparse α → Nat → α
  | [], _ => d
  | (k, v) :: t, a => if a = k then v else sparseGet d t a

/-- Puts a value at a key, keeping the keys rising. -/
def sparseIns {α : Type} : Sparse α → Nat → α → Sparse α
  | [], a, v => [(a, v)]
  | (k, w) :: t, a, v => if a = k then (k, v) :: t else if a < k then (a, v) :: (k, w) :: t else (k, w) :: sparseIns t a v

/-- Removes a key. -/
def sparseDel {α : Type} : Sparse α → Nat → Sparse α
  | [], _ => []
  | (k, w) :: t, a => if a = k then sparseDel t a else (k, w) :: sparseDel t a

/-- Writes a key: the value an unlisted key reads as is not listed. -/
def sparseSet {α : Type} [DecidableEq α] (d : α) (m : Sparse α) (a : Nat) (v : α) : Sparse α :=
  if v = d then sparseDel m a else sparseIns m a v

/-- Every key of the list is above lo (exclusive), the keys rise, and no value is d. -/
def sparseWfFrom {α : Type} [DecidableEq α] (d : α) : Nat → Sparse α → Bool
  | _, [] => true
  | lo, (k, v) :: t => decide (lo ≤ k) && decide (v ≠ d) && sparseWfFrom d (k + 1) t

/-- The canonical form of a sparse map. -/
def sparseWf {α : Type} [DecidableEq α] (d : α) (m : Sparse α) : Bool := sparseWfFrom d 0 m

/-- Removes every key k with lo ≤ k < hi. -/
def sparseClear {α : Type} (m : Sparse α) (lo hi : Nat) : Sparse α :=
  m.filter (fun p => decide (p.1 < lo) || decide (hi ≤ p.1))

/-- Reads n consecutive keys. -/
def sparseRead {α : Type} (d : α) (m : Sparse α) : Nat → Nat → List α
  | _, 0 => []
  | a, n + 1 => sparseGet d m a :: sparseRead d m (a + 1) n

/-- Writes consecutive keys from a. -/
def sparseWrite {α : Type} [DecidableEq α] (d : α) : Sparse α → Nat → List α → Sparse α
  | m, _, [] => m
  | m, a, v :: t => sparseWrite d (sparseSet d m a v) (a + 1) t

/-- The value paired with a key in an association list. -/
def assocGet {κ α : Type} [DecidableEq κ] : List (κ × α) → κ → Option α
  | [], _ => none
  | (k, v) :: t, a => if a = k then some v else assocGet t a

/-- Replaces the value of a key, or appends the pair. -/
def assocPut {κ α : Type} [DecidableEq κ] : List (κ × α) → κ → α → List (κ × α)
  | [], a, v => [(a, v)]
  | (k, w) :: t, a, v => if a = k then (k, v) :: t else (k, w) :: assocPut t a v

/-- Removes a key of an association list. -/
def assocDel {κ α : Type} [DecidableEq κ] : List (κ × α) → κ → List (κ × α)
  | [], _ => []
  | (k, w) :: t, a => if a = k then assocDel t a else (k, w) :: assocDel t a

end Sys2Proof
end

