-- ==== Sys2Proof/Machine/State.lean ====
section
/-!
DEFINITION. The state of the KX9 package: every register, memory, queue and record that the spec names, as plain data, and
the state right after power-up. INVENTORY.md lists each field with the rule that names it.
-/

namespace Sys2Proof.Machine

/-! ### Turns -/

/-- Who moves in a step: nobody, the scalar thread of a crew, the gang of a crew that holds a slice, an operation or event of
the device, or the parser lane of a queue. The model's own (log entry 4). -/
inductive Turn
  | idle
  | scalar (c : CrewRef)
  | gang (c : CrewRef) (slice : Nat)
  | event (i : Instr)
  | frontEnd (q : Nat)
  deriving DecidableEq, Repr, Inhabited

/-! ### Crews (03, 13) -/

/-- A destination that a variable-latency instruction writes (R46): s[r], lane key % 32 of v[key / 32], or pi in a lane. -/
inductive Dest
  | sreg (r : Nat)
  | vreg (key : Nat)
  | pred (p lane : Nat)
  deriving DecidableEq, Repr, Inhabited

/-- An outstanding destination (R46): its stream, whether it issued in a handler, the value once it is produced, the flags
delivered with it (R187), and the MOS entry that produces it (0 for none). -/
structure Pending where
  owner : StreamId
  inH   : Bool
  dest  : Dest
  val   : Option Nat
  flags : Flags
  tag   : Nat
  deriving DecidableEq, Repr, Inhabited

/-- An entry of a slice's mask stack (R75). -/
structure MaskEntry where
  join    : BitVec 16
  restore : BitVec 4
  target  : BitVec 16
  pending : BitVec 4
  ran     : Bool
  deriving DecidableEq, Repr, Inhabited

/-- A deferred MEMERR of a stream (R256): whether it was met in a handler, the load, its failing lanes and the address of the
lowest. -/
structure MemErr where
  inH  : Bool
  ipc  : CodeAddr
  mask : BitVec 32
  addr : W64
  deriving DecidableEq, Repr, Inhabited

/-- A slice of a run (R71, R74, R75, R78): whether it takes part and has not left, its code address, cur, its mask stack with
the top first, the lowest slice of its gang, parked at a REGANG, parked by a switch marker, waiting in an instruction it
reissues, its deferred MEMERR and its XPUT partials (R211), the word it fetched last, which a waiting instruction keeps
(R56), and when its gang last issued, in issues of the run (R115). -/
structure Slice where
  live     : Bool
  pc       : CodeAddr
  cur      : BitVec 4
  stack    : List MaskEntry
  gang     : Nat
  atRegang : Bool
  park     : Bool
  wait     : Bool
  memerr   : List MemErr
  parts    : List (Option W32)
  word     : Option (CodeAddr × W32 × W32 × W32)
  last     : Nat
  deriving DecidableEq, Repr, Inhabited

/-- The states of a run (R69). -/
inductive RunState | executing | queued | ended
  deriving DecidableEq, Repr, Inhabited

/-- A lane run (R70): run constants, slice mask, group limit, start address, result slots x0 to x3, the XPUT operator of each,
its state, its eight slices, and the replays of trapped instructions that ERET asked for: the gang, the lanes, and whether the
trap was a failed fetch, whose guard nothing had read (R319, log entry 51); and how often its gangs have issued (R115). -/
structure Run where
  consts : Sparse W64
  mask   : BitVec 8
  groups : Nat
  start  : CodeAddr
  x      : List W32
  ops    : List (Option XOp)
  state  : RunState
  slices : List Slice
  replay : List (Nat × BitVec 32 × Bool)
  issues : Nat
  deriving DecidableEq, Repr, Inhabited

/-- The trap registers TCAUSE, TPC, FMASK, FADDR, FINFO, TREP and TSPC (R315). -/
structure TrapRegs where
  tcause : W64
  tpc    : CodeAddr
  fmask  : BitVec 32
  faddr  : W64
  finfo  : W64
  trep   : BitVec 32
  tspc   : CodeAddr
  deriving DecidableEq, Repr, Inhabited

/-- A deferred tile or copy fault of a crew (R352, R273): its cause, its address, the code address of the instruction, the
step, the MOS entry that holds it, and whether the instruction issued in a handler. -/
structure TileFault where
  cause : Nat
  addr  : W64
  ipc   : CodeAddr
  step  : Nat
  entry : Nat
  inH   : Bool
  deriving DecidableEq, Repr, Inhabited

/-- How a crew that is leaving came to leave (R66, R92). -/
inductive Leave | no | halt | detach
  deriving DecidableEq, Repr, Inhabited

/-- A crew (R66): its launch's unit, its registers, its trap state, its runs and the state of its scalar stream. `word` is the
scalar word fetched last, which a waiting instruction keeps (R56); `blk`, that the trap in progress found the scalar thread in a
waiting instruction (R312, R322 BLK); `unread`, that it was a gang's failed fetch (R52, log entry 51); `shown`, the outstanding
destinations that show the value to be delivered already, each with the value from before (R48, log entry 110). -/
structure Crew where
  unit     : Nat
  pc       : CodeAddr
  s        : Sparse W64
  q        : BitVec 8
  bank     : Sparse W64
  v        : Sparse W32
  p        : Sparse W32
  groups   : Nat
  flags    : Flags
  h        : Bool
  tr       : TrapRegs
  ftstat   : BitVec 3
  ftReq    : Option (W64 × Bool)
  grant    : W32
  gangw    : BitVec 19
  ctx      : Option Nat
  runs     : List Run
  hrun     : Option Run
  out      : List Pending
  shown    : List (Pending × Nat)
  park     : Bool
  parkH    : Bool
  wait     : Bool
  word     : Option (CodeAddr × W32)
  blk      : Bool
  unread   : Bool
  memerr   : List MemErr
  deferred : List TileFault
  trapping : Option TrapRegs
  growth   : Bool
  leave    : Leave
  stopping : Bool
  age      : Nat
  sinceS   : Nat
  sinceL   : Nat
  boostS   : Bool
  boostL   : Bool
  deriving DecidableEq, Repr, Inhabited

/-! ### Blocks, clusters, launches and units (03, 04) -/

/-- A barrier unit (R84): membership, arrivals, the members that have arrived, phase, accumulator, operator of the phase,
result, and deferred departures. -/
structure Barrier where
  members  : Nat
  arrivals : Nat
  arrived  : List Nat
  phase    : BitVec 16
  acc      : W32
  op       : BarOp
  result   : W32
  deferred : Nat
  deriving DecidableEq, Repr, Inhabited

/-- The state of a scratchpad chunk (R269); an engaged chunk names the MOS entry of its copy, and a failed one the code address of
the copy that failed, its step and the address that failed, for the fault record of CHKFAIL (R270, R315). -/
inductive Chunk
  | idle
  | held
  | engaged (entry : Nat)
  | failed (ipc : CodeAddr) (step : Nat) (addr : W64)
  deriving DecidableEq, Repr, Inhabited

/-- A block's local combining unit of one launch barrier (R87): the crews that have arrived, the operator and the value. -/
structure Combine where
  arrived : List Nat
  op      : BarOp
  acc     : W32
  deriving DecidableEq, Repr, Inhabited

/-- One crew's REORD in a gathering (R93): the crew, the live groups, whether it is a gang of all eight slices with empty mask
stacks, vd, the key operand, the switch marker and the gang's lowest slice. -/
structure ReordArrival where
  crew   : Nat
  groups : W32
  whole  : Bool
  vd     : BitVec 9
  va     : SrcA
  sw     : Bool
  lead   : Nat
  deriving DecidableEq, Repr, Inhabited

/-- A REORD that is gathering (R93): the participants, the arrivals, and whether a participant departed before it issued. -/
structure Gather where
  members : List Nat
  issued  : List ReordArrival
  broken  : Bool
  deriving DecidableEq, Repr, Inhabited

/-- A resident block (R66, R84, R92, R105, R269): its launch's unit, its index, core, block slot and cluster, its scratchpad and
chunk states, the crews that belong to it, the departures in progress, its barriers and launch combining, its REORD, whether a
shrink is requested, when it was placed, whether it is being saved, and the save area it was given (R322). -/
structure Block where
  unit      : Nat
  index     : Nat
  core      : Nat
  slot      : Nat
  cluster   : Nat
  spad      : Sparse Byte
  chunks    : Sparse Chunk
  members   : Nat
  departing : Nat
  bars      : List Barrier
  combine   : List Combine
  gather    : Option Gather
  shrink    : Bool
  placedAt  : Nat
  saving    : Bool
  area      : Nat
  deriving DecidableEq, Repr, Inhabited

/-- A cluster (R66, R84, R105): its launch, its index, the die of its barriers, its barriers, and the scratchpads of members
that have ended, by rank, with the core that holds each. -/
structure Cluster where
  unit  : Nat
  index : Nat
  die   : Nat
  bars  : List Barrier
  ended : List (Nat × Sparse Byte)
  seats : List (Nat × Nat)
  deriving DecidableEq, Repr, Inhabited

/-- A launch record's fields (R96); the format slots are eight 128-bit numbers. -/
structure LaunchRec where
  attach : CodeAddr
  entry  : CodeAddr
  ovn    : Nat
  idem   : Bool
  grow   : Bool
  track  : Bool
  world  : Bool
  prio   : Nat
  ver    : Nat
  lid    : W32
  ovtab  : W64
  gx     : Nat
  gy     : Nat
  gz     : Nat
  sgrace : Nat
  graph  : W32
  csize  : Nat
  nlb    : Nat
  ncb    : Nat
  nbb    : Nat
  groups : Nat
  maxc   : Nat
  minc   : Nat
  scrch  : Nat
  plid   : W32
  c      : Int
  w      : Nat
  d      : Nat
  a      : Nat
  map    : Nat
  rsv    : Bool
  fmts   : List Nat
  deriving DecidableEq, Repr, Inhabited

/-- What has become of a block of a launch: not yet placed, resident, saved by pre-emption, ended, or killed and waiting to be
placed again (R104, R107, R322, R324). -/
inductive BlockState | waiting | resident | saved | ended
  deriving DecidableEq, Repr, Inhabited

/-- A tile instruction that the MOS holds (R114, R322): its place in issue order, its place among the readers and writers of the
weight buffer (R222), its crew, instruction and code address, the operands captured at issue, the grant, the privilege, whether it
issued in a handler, whether its first step has begun, its step, the context it acts on, its scratchpad extents, its range of the
weight buffer, the record read (TSR or header), the chunks it engages, the done map and the pins, the replays, the fault it met
and the last address that failed, the bytes of a step in progress of a copy with the mask of those moved already (R251, log entry
42), whether it is held by a fault or given to the slow path, the gang word, its arrival at the latch (when, and in which order), the
member that runs its joint MMA, and whether its last step is done. -/
structure MosEntry where
  uid     : Nat
  order   : Nat
  crew    : CrewRef
  instr   : Instr
  ipc     : CodeAddr
  vals    : List W64
  grant   : W32
  priv    : Bool
  inH     : Bool
  started : Bool
  step    : Nat
  ctx     : Option Nat
  sp      : List (Nat × Nat)
  wb      : Option (Nat × Nat)
  tsr     : List Byte
  chunks  : List (Nat × Nat)
  done    : Sparse Bool
  pins    : List (Nat × Nat)
  replay  : Nat
  met     : Option (Nat × W64)
  addr    : W64
  part    : Option (List Byte × Option (Nat × W64) × Nat)
  held    : Bool
  slow    : Bool
  gang    : BitVec 19
  arrived : Option (Nat × Nat)
  joint   : Option Nat
  fin     : Bool
  deriving DecidableEq, Repr, Inhabited

/-- What is kept of a saved block beside the bytes of its save area: the model's name for the block, its linear index and its
area, its crews and block record, its contexts (the index in the core, and the holder) in the order of the area, and its tile
instructions. -/
structure Saved where
  bid   : Nat
  index : Nat
  area  : Nat
  crews : List (Nat × Crew)
  block : Block
  ctxs  : List (Nat × CrewRef)
  mos   : List MosEntry
  deriving DecidableEq, Repr, Inhabited

/-- A launch that the distributor holds (R100, R103, R104): its record, its address space, its deficit counters, the dies chosen
for its next blocks (linear index, die, and the die's count at the choice), the state of each block, its completion bitmap and
whether it waits for one, its launch barriers and the die of their units (R105), and the cause with which it is being stopped
(R111, R317). -/
structure Launch where
  uid    : Nat
  lr     : LaunchRec
  asid   : Nat
  c0     : Int
  c1     : Int
  served : Bool
  chosen : List (Nat × Nat × Nat)
  blocks : Sparse BlockState
  saved  : List Saved
  bitmap : Option (Sparse Bool)
  bmWait : Bool
  bars   : List Barrier
  die    : Nat
  stop   : Option Nat
  deriving DecidableEq, Repr, Inhabited

/-- The states of a unit (R109); `unknown` is the word of no unit. -/
inductive UState | pending | running | done | error | cancelling | cancelled
  deriving DecidableEq, Repr, Inhabited

/-- A completion counter (R108, R109): its name, level, identifier, world, outstanding children, children still to be added,
cause, state, parent, the bell word of its notification, whether a job is closed, and the first failed child's cause. -/
structure CUnit where
  uid    : Nat
  level  : Level
  id     : W32
  world  : Bool
  out    : Nat
  left   : Nat
  cause  : Nat
  state  : UState
  parent : Option Nat
  note   : Option Nat
  closed : Bool
  failed : Option Nat
  asid   : Nat
  deriving DecidableEq, Repr, Inhabited

/-! ### Cores (01 R20) -/

/-- A residency tag (R57): overlay number, address of the overlay table, address space and world. -/
structure OvTag where
  num   : Nat
  table : W64
  asid  : Nat
  world : Bool
  deriving DecidableEq, Repr, Inhabited

/-- An overlay load in flight: the MOS entry that carries it (R278). -/
structure OvSlot where
  tag      : Option OvTag
  resident : Bool
  image    : Sparse Byte
  loading  : Option Nat
  deriving DecidableEq, Repr, Inhabited

/-- A blocked CLAIM (R82): the crew, the groups it asks for, since when it is blocked, its rd and its switch marker. -/
structure Claim where
  crew  : CrewRef
  n     : Nat
  since : Nat
  rd    : BitVec 7
  sw    : Bool
  deriving DecidableEq, Repr, Inhabited

/-- The mode of a matrix context (R212). -/
inductive CtxMode | none | f | i | d
  deriving DecidableEq, Repr, Inhabited

/-- A matrix context (R212): C(i, j) at 128 i + j, rowmax, rowsum, mode, k and the crew that holds it. -/
structure Ctx where
  c      : Sparse W32
  rowmax : Sparse W32
  rowsum : Sparse W32
  mode   : CtxMode
  k      : Nat
  holder : Option CrewRef
  deriving DecidableEq, Repr, Inhabited

/-- A weight image placed in the weight buffer (R219, R222). -/
structure Image where
  off   : Nat
  size  : Nat
  tag   : W32
  slot  : Nat
  k     : Nat
  n     : Nat
  t     : Bool
  world : Bool
  asid  : Nat
  deriving DecidableEq, Repr, Inhabited

/-- A cached translation (R288): address space, generation, page base, leaf level, and the leaf. -/
structure TlbEntry where
  asid  : Nat
  gen   : BitVec 16
  page  : Nat
  level : Nat
  leaf  : W64
  deriving DecidableEq, Repr, Inhabited

/-- An open shrink request (R107): the target block and since when. -/
structure Shrink where
  block : Nat
  since : Nat
  deriving DecidableEq, Repr, Inhabited

/-- A core (R20): overlay slots, claim queue, condition D since (R83), shrink request, last growth, MOS queue, the context
that stepped last (R117), the two contexts, weight buffer, images, ranges being filled, core TLB, walk-ahead TLB, adopted
generations, and the times of its uncorrectable errors (R330). -/
structure Core where
  slots     : List OvSlot
  claims    : List Claim
  deadSince : Option Nat
  shrink    : Option Shrink
  lastGrow  : Nat
  mos       : List MosEntry
  lastCtx   : Option Nat
  ctxs      : List Ctx
  wbuf      : Sparse Byte
  images    : List Image
  filling   : List (Nat × Nat × Nat)
  tlb       : List TlbEntry
  tte       : List TlbEntry
  gens      : Sparse (BitVec 16)
  errors    : List Nat
  deriving DecidableEq, Repr, Inhabited

/-- A control tile (R17, R278, R280, R288, R313): its store, what the firmware named when it started its crew, its overlay loads, and the
cached translations of its scalar accesses and of its overlay loads. -/
structure Ctl where
  slots   : List OvSlot
  table   : W64
  entries : Nat
  entry   : CodeAddr
  tvec    : BitVec 16
  started : Bool
  load    : List MosEntry
  gens    : Sparse (BitVec 16)
  tlb     : List TlbEntry
  tte     : List TlbEntry
  deriving DecidableEq, Repr, Inhabited

/-- The supervisor image that the firmware keeps in every core (R313), and TVEC (R315); the cores whose copy was lost. -/
structure Supervisor where
  image : Sparse Byte
  valid : Bool
  tvec  : BitVec 16
  lost  : List Nat
  deriving DecidableEq, Repr, Inhabited

/-! ### Package, clocks and worlds (01, 12) -/

/-- What is fused in a chiplet (R15): its serial number, and the public and the private key of its identity. -/
structure ChipFuses where
  serial : Nat
  pub    : Nat
  priv   : Nat
  deriving DecidableEq, Repr, Inhabited

/-- What the fuses hold (R15, R22, R24, R295): ID_PART.BIN and STEP, the enabled tiles of each C-die, the minimum version, and the
fuses of each chiplet, which only the Porter reads. -/
structure Fuses where
  bin        : BitVec 8
  step       : BitVec 8
  en0        : BitVec 36
  en1        : BitVec 36
  minVersion : Nat
  chips      : List ChipFuses
  deriving DecidableEq, Repr, Inhabited

/-- The identity registers' changing fields (R24, R25, R330): GEN, the shuttered chiplets, those that failed, the retired cores, and
the replace-requested reasons in force, the most recent last; the clocks of the dies in MHz, with ID_EPOCH and ID_STAMP; and, by
chiplet 0 to 4, the reading of the die's counter at the last change of its clock, negative when the counter has restarted since,
and the reason for which its clock is lowered, or 0 (R329). -/
structure Ident where
  gen     : BitVec 16
  shut    : BitVec 17
  failed  : List Nat
  retired : List Nat
  reasons : List Nat
  hclk    : BitVec 16
  c1clk   : BitVec 16
  c0clk   : BitVec 16
  f0clk   : BitVec 16
  f1clk   : BitVec 16
  stepAt  : List (Option Int)
  cut     : List Nat
  epoch   : BitVec 32
  stamp   : W64
  deriving DecidableEq, Repr, Inhabited

/-- ID_STATUS.REPL and REASON: the most recent reason in force (R330, log entry 41). -/
def Ident.repl (x : Ident) : Bool := !x.reasons.isEmpty
def Ident.reason (x : Ident) : BitVec 8 := BitVec.ofNat 8 (x.reasons.getLast?.getD 0)

/-- The cycle counters of the dies (R31). -/
structure Clocks where
  h  : W64
  c0 : W64
  c1 : W64
  f0 : W64
  f1 : W64
  deriving DecidableEq, Repr, Inhabited

/-- The world map and the worlds of hardware blocks (R290 to R294). -/
structure Worlds where
  secure : List Nat
  closed : List Nat
  ctx    : BitVec 2
  bell   : BitVec 16
  drive  : BitVec 8
  port   : BitVec 8
  deriving DecidableEq, Repr, Inhabited

/-- An address space (R280, R316). -/
structure Space where
  root   : BitVec 36
  en     : Bool
  gen    : BitVec 16
  ack    : BitVec 16
  poolEn : Bool
  pool   : BitVec 52
  deriving DecidableEq, Repr, Inhabited

/-! ### Front end (05) -/

/-- Where a queue's parser stands in one level (R122, R328): the buffer's start and length (0 and 0 at the ring), the offset of the
next packet (at the ring, from HEAD), and the open LOOP: the body's start offset, its length and the iterations left. -/
structure Level1 where
  base : Nat
  len  : Nat
  off  : Nat
  loop : Option (Nat × Nat × Nat)
  deriving DecidableEq, Repr, Inhabited

/-- A queue page and its parser (R120, R122, R127, R328): the ring's level and those of the open buffers, the deepest last. `window`
holds words read ahead: (level, offset in the buffer or byte count of the ring, word). `predAt` is when a waiting PRED was first tested, `sread` the drive and
command that a waiting SREAD has posted. -/
structure Queue where
  base    : BitVec 52
  world   : Bool
  en      : Bool
  log2sz  : BitVec 5
  tail    : W32
  head    : W32
  erroff  : W32
  cause   : BitVec 8
  level   : BitVec 2
  tailerr : Bool
  ovf     : Bool
  stopped : Bool
  ring    : Level1
  levels  : List Level1
  window  : List (Nat × Nat × W64)
  predAt  : Option Nat
  sread   : Option (Nat × Nat)
  deriving DecidableEq, Repr, Inhabited

/-- The notification ring (R129, R130): registers, the 256-entry queue of posts that wait, and the bell stores of the front end and the
Foreman that stall at issue while it is full. -/
structure Notify where
  base    : BitVec 52
  en      : Bool
  log2n   : BitVec 5
  head    : W32
  tail    : W32
  waiting : List (Nat × W64)
  stalled : List (Nat × W64)
  deriving DecidableEq, Repr, Inhabited

/-- A command in flight on a drive (R132): identifier, bell index, start, the queue that waits for it, and the PRP list that H-die
memory holds for it. -/
structure DriveCmd where
  cid   : Nat
  bell  : Nat
  since : Nat
  queue : Option Nat
  prp   : List W64
  deriving DecidableEq, Repr, Inhabited

/-- A drive block (R131) and its queue state (R132). -/
structure Drive where
  sq     : W64
  cq     : W64
  db     : W64
  en     : Bool
  dstrd  : BitVec 4
  lbash  : BitVec 4
  nsid   : W32
  qsize  : BitVec 12
  sqTail : Nat
  cqHead : Nat
  cmds   : List DriveCmd
  nextId : Nat
  deriving DecidableEq, Repr, Inhabited

/-- The recovery mailbox, the error log with the entries that wait for the way to its ring, and the watchdog (R310, R326, R327,
R330). -/
structure Mailbox where
  restarts  : BitVec 16
  mode      : BitVec 2
  state     : BitVec 3
  arg       : BitVec 52
  len       : W32
  queue     : BitVec 5
  cause     : BitVec 8
  adv       : Bool
  busy      : Bool
  elBase    : BitVec 52
  elEn      : Bool
  elLog2    : BitVec 5
  elTail    : W32
  elWait    : List (List Byte)
  wdStart   : W64
  held      : Bool
  times     : List Nat
  corrected : Nat
  deriving DecidableEq, Repr, Inhabited

/-! ### Foreman (06, 10, 13) -/

/-- An entry of a phase's batch (R142): the record, whether it is a prefill, its start position, its tokens, and PFILL before it. -/
structure Batch where
  i     : Nat
  pre   : Bool
  start : Nat
  n     : Nat
  fill  : Nat
  deriving DecidableEq, Repr, Inhabited

/-- How far an SQNEXT that waits has come in forming its phase (R142, R143; log entry 34): the batch so far and its tokens, the service
order, whether it is in the prefill pass, the records of the pass that are left, the first of which it is at, and the victim that it
is evicting. -/
structure Forming where
  batch : List Batch
  toks  : Nat
  order : List Nat
  pre   : Bool
  left  : List Nat
  evict : Option Nat
  deriving DecidableEq, Repr, Inhabited

/-- A serving context (R134 to R147): its bound record's address and words as read when it was bound, the head of its free page
list, the latched intake tail, the admission and phase counters, the open phase's unit and the records that its plan lists,
whether it is frozen (R324), the old values of the bytes of its record, descriptors and bitmaps that software has changed while
it is bound (R135), and the phase that an SQNEXT which waits is forming. -/
structure SCtx where
  bound  : Option Nat
  words  : List W64
  tail   : W32
  freeHd : Nat
  admitted  : Nat
  phase  : Nat
  openPh : Option Nat
  batch  : List Nat
  frozen : Bool
  stale  : List (Nat × Byte)
  forming : Option Forming
  deriving DecidableEq, Repr, Inhabited

/-- Where a migration stands (R252): waiting for the page's pins before step 1, quiesced, or remapped and waiting for the generations
that it raised, each with its address space (R289). -/
inductive MigStage
  | pinned
  | quiet
  | remapped (gens : List (Nat × BitVec 16))
  deriving DecidableEq, Repr, Inhabited

/-- A page migration in progress (R252): the context (2 for a frame of a retiring slice that no context owns), the page, the tier and
frame number it goes to, the addresses of the source and target frames, their size, the tag of the destination that waits for it
(0 for none), and where it stands. -/
structure Migration where
  ctx    : Nat
  page   : Nat
  toTier : Nat
  toFrm  : Nat
  src    : Nat
  dst    : Nat
  size   : Nat
  tag    : Nat
  stage  : MigStage
  deriving DecidableEq, Repr, Inhabited

/-- A handoff in progress (R166): the context, the record, the tag of the destination that waits for its status, the port and
endpoint it goes to, and the cause with which the request was ended while it was being sent. -/
structure Handing where
  ctx   : Nat
  idx   : Nat
  tag   : Nat
  port  : Nat
  ep    : Nat
  ended : Option Nat
  deriving DecidableEq, Repr, Inhabited

/-- An armed Glazier row (R157 to R160): the context, the row's address and element count, the record that supplied TEMP, the
coefficient, whether the row is greedy, the elements written, the elements included with their values, and the flags. -/
structure GlazierRow where
  ctx    : Nat
  row    : Nat
  cnt    : Nat
  req    : Nat
  coef   : W32
  greedy : Bool
  seen   : Sparse Bool
  incl   : Sparse Bool
  vals   : Sparse W32
  dup    : Bool
  part   : Bool
  nf     : Bool
  deriving DecidableEq, Repr, Inhabited

/-- The Foreman (06): serving contexts, the context that owns each record of the request table (0 none, else the context plus
1), migrations, handoffs, armed rows, and the FTMAP requests of the page unit. -/
structure Foreman where
  ctxs  : List SCtx
  owner : Sparse Nat
  migs  : List Migration
  sends : List Handing
  rows  : List GlazierRow
  ftq   : List CrewRef
  deriving DecidableEq, Repr, Inhabited

/-! ### Porter, links and peers (12) -/

/-- The Porter (R295 to R299): boot done, a tenant's session, the measurement log (entry, values) and the copy of it that was sent to
the tenant last, the measurements recorded at power-up, the identity key under which each chiplet's session was made, the SPDM
misses of each chiplet, and when the request now open was sent. -/
structure Porter where
  booted   : Bool
  session  : Bool
  log      : List (Nat × List Nat)
  sent     : List (Nat × List Nat)
  recorded : List (Nat × List Nat)
  keys     : List (Nat × Nat)
  misses   : List (Nat × Nat)
  askedAt  : Nat
  deriving DecidableEq, Repr, Inhabited

/-- Whose request a flit carries: a tile instruction's, or that of a crew's scalar stream or of a gang's first slice, at a code address. -/
inductive Requester
  | tile (uid : Nat)
  | stream (c : CrewRef) (slice : Option Nat) (pc : CodeAddr)
  deriving DecidableEq, Repr, Inhabited

/-- A direction of a Vexlink (R301 to R304): the keys in the two slots of each end, the slot in use, flits sent, last accepted,
the replay buffer, the announced switch, and the requests whose data flits the sender holds for a shuttered chiplet, each with the time of
the sending die since when (R300). -/
structure Link where
  txKeys  : List (Option Nat)
  rxKeys  : List (Option Nat)
  slot    : Nat
  sent    : Nat
  keyed   : Nat
  acked   : Nat
  buffer  : List (Nat × Nat)
  switch  : Option Nat
  held    : List (Requester × Nat)
  deriving DecidableEq, Repr, Inhabited

/-- An endpoint of a port (R307, R308): its session's address space, consecutive authentication failures, and the keys of its two
directions. -/
structure Endpoint where
  port  : Nat
  ep    : Nat
  asid  : Nat
  fails : Nat
  tx    : Link
  rx    : Link
  deriving DecidableEq, Repr, Inhabited

/-- An inbound peer access that has no answer yet (R325): where it came from, the sender's name for it, and since when. -/
structure Inbound where
  port  : Nat
  ep    : Nat
  tag   : Nat
  since : Nat
  deriving DecidableEq, Repr, Inhabited

/-- A range of the host and peer window that a peer maps, with its endpoint (R27, R307). -/
structure PeerMap where
  lo   : Nat
  hi   : Nat
  port : Nat
  ep   : Nat
  deriving DecidableEq, Repr, Inhabited

/-- What the package answers to an access from outside (R291, R325): data, data marked poisoned, or a transport error. -/
inductive Answer
  | data (bs : List Byte)
  | poisoned (bs : List Byte)
  | error
  deriving DecidableEq, Repr, Inhabited

/-- Peers (R27, R291, R308, R325): open endpoints, packets dropped, inbound accesses without an answer, the ranges that peers map, the
last answer to a peer with the access that it answers, and the last answer to a host read. -/
structure Peers where
  eps     : List Endpoint
  dropped : Nat
  inbound : List Inbound
  maps    : List PeerMap
  last    : Option (Nat × Nat × Nat × Answer)
  host    : Option Answer
  deriving DecidableEq, Repr, Inhabited

/-- Save areas (R322): the free areas of each world. -/
structure SavePool where
  free0 : List Nat
  free1 : List Nat
  deriving DecidableEq, Repr, Inhabited

/-- The whole package. `round` holds the queues that have yet to act in the firmware core's round, in order (R123). -/
structure State where
  turn     : Turn
  agenda   : List Turn
  draws    : Nat
  nextUid  : Nat
  powered  : Bool
  fuses    : Fuses
  ident    : Ident
  clk      : Clocks
  mem      : List Host.Cell
  poison   : List Nat
  hostMap  : List (Nat × Nat)
  worlds   : Worlds
  spaces   : List Space
  queues   : List Queue
  round    : List Nat
  bells    : Sparse W64
  notify   : Notify
  drives   : List Drive
  mbox     : Mailbox
  units    : List CUnit
  launches : List Launch
  saves    : SavePool
  blocks   : List (Nat × Block)
  clusters : List (Nat × Cluster)
  crews    : List (CrewRef × Crew)
  cores    : List Core
  sup      : Supervisor
  ctls     : List Ctl
  reqs     : Sparse W64
  fore     : Foreman
  porter   : Porter
  links    : List Link
  peers    : Peers
  deriving DecidableEq, Repr, Inhabited

/-- The stops of a step. -/
inductive Fault
  /-- An instruction of a stream is executed while no live stream has the turn. Raised by every scalar and lane meaning; step
  never does it, because it gives the turn before it executes. Safe: the model stops where nothing happens. -/
  | noIssuer
  deriving DecidableEq, Repr, Inhabited

/-- What the model does not model. -/
inductive Refusal
  /-- An instruction without a meaning yet, by its mnemonic. Raised by arms of exec only. Safe. -/
  | notModelled (mnemonic : String)
  deriving DecidableEq, Repr, Inhabited

/-! ### Reset -/

/-- The byte that an unlisted address of memory reads as (log entry 1). -/
def unlistedByte : Byte := 0

/-- Trap registers at reset (R315). -/
def TrapRegs.zero : TrapRegs := ⟨0, 0, 0, 0, 0, 0, 0⟩

/-- An empty overlay slot. -/
def OvSlot.empty : OvSlot := ⟨none, false, [], none⟩

/-- +0.0 and minus infinity in binary32, and plus infinity. -/
def f32Zero : W32 := 0
def f32NegInf : W32 := 0xFF800000
def f32PosInf : W32 := 0x7F800000

/-- A cleared context (R233): C and rowsum +0.0, rowmax minus infinity, mode none (rowmax is held relative to minus infinity). -/
def Ctx.clear (holder : Option CrewRef) : Ctx := ⟨[], [], [], .none, 0, holder⟩

/-- A core at power-up (log entry 18 for its contexts). -/
def Core.reset : Core :=
  ⟨[.empty, .empty, .empty, .empty], [], none, none, 0, [], none, [.clear none, .clear none], [], [], [], [], [], [], []⟩

/-- A control tile at power-up: not started. -/
def Ctl.reset : Ctl := ⟨[.empty, .empty, .empty, .empty], 0, 0, 0, 0, false, [], [], [], []⟩

/-- A level at the start of the ring. -/
def Level1.reset : Level1 := ⟨0, 0, 0, none⟩

/-- A queue page at power-up (R120). -/
def Queue.reset : Queue :=
  ⟨0, false, false, 0, 0, 0, 0, 0, 0, false, false, false, .reset, [], [], none, none⟩

/-- An address space at power-up (R280). -/
def Space.reset : Space := ⟨0, false, 0, 0, false, 0⟩

/-- A drive block at power-up (R131). -/
def Drive.reset : Drive := ⟨0, 0, 0, false, 0, 0, 0, 0, 0, 0, [], 0⟩

/-- A serving context at power-up. -/
def SCtx.reset : SCtx := ⟨none, [], 0, 0, 0, 0, none, [], false, [], none⟩

/-- A link direction before it is keyed (R301). -/
def Link.reset : Link := ⟨[none, none], [none, none], 0, 0, 0, 0, [], none, []⟩

/-- The mailbox at power-up (R327): MODE 1, STATE 4. -/
def Mailbox.reset : Mailbox :=
  ⟨0, 1, 4, 0, 0, 0, 0, false, false, 0, false, 0, 0, [], 0, false, [], 0⟩

/-- The identity registers at power-up (R24): every chiplet shuttered, clocks at 3,300 MHz. -/
def Ident.reset : Ident := ⟨0, 0x1FFFF, [], [], [], 0x0CE4, 0x0CE4, 0x0CE4, 0x0CE4, 0x0CE4, [none, none, none, none, none], [0, 0, 0, 0, 0], 0, 0⟩

/-- The fuses of the modelled package (log entry 2): a KX9-64 split (32, 32), tiles 0 to 31 of each die; serial numbers and keys are
all 0 (log entry 87). -/
def Fuses.chosen : Fuses := ⟨0x40, 0, 0x0FFFFFFFF, 0x0FFFFFFFF, 0, List.replicate 17 ⟨0, 0, 0⟩⟩

/-- The cores that the fuses enable (R21, R22). -/
def Fuses.cores (f : Fuses) : Nat := popN 36 f.en0.toNat + popN 36 f.en1.toNat

/-- The package right after power-up (R24, R34, R120, R290, R295, R327). -/
def State.reset : State where
  turn := .idle
  agenda := []
  draws := 0
  nextUid := 1
  powered := true
  fuses := .chosen
  ident := .reset
  clk := ⟨0, 0, 0, 0, 0⟩
  mem := []
  poison := []
  hostMap := [(0x8000000000000, 0x10000000000000)]
  worlds := ⟨[], [], 0, 0, 0, 0⟩
  spaces := List.replicate 34 .reset
  queues := List.replicate 32 .reset
  round := []
  bells := []
  notify := ⟨0, false, 0, 0, 0, [], []⟩
  drives := List.replicate 8 .reset
  mbox := .reset
  units := []
  launches := []
  saves := ⟨[], []⟩
  blocks := []
  clusters := []
  crews := []
  cores := List.replicate Fuses.chosen.cores .reset
  sup := ⟨[], false, 0, []⟩
  ctls := [.reset, .reset]
  reqs := []
  fore := ⟨[.reset, .reset], [], [], [], [], []⟩
  porter := ⟨false, false, [], [], [], [], [], 0⟩
  links := List.replicate 10 .reset
  peers := ⟨[], 0, [], [], none, none⟩

end Sys2Proof.Machine
end

