-- ==== Sys2Proof/Config.lean ====
section
/-!
DEFINITION. What an implementation fixes and the manual leaves open: free values. Each is an opaque constant without a body,
applied to the counter State.draws, so that no proof can see a value of it.
-/

namespace Sys2Proof.Config

/-- Who moves next when the agenda is empty (log entry 4). -/
opaque freeTurn : Nat → Machine.Turn

/-- How many aclk pass on a die (0 the H-die, 1 and 2 the C-dies, 3 and 4 the F-dies) in a step (log entry 5). -/
opaque freeTicks : Nat → Nat → Nat

/-- Whether a crew's next instruction has been fetched, or the data of a tile instruction's step are there: the manual gives no time
for either (R114, R115, log entry 4). The arguments are the counter and the name of the crew's place or of the entry. -/
opaque freeReady : Nat → Nat → Bool

/-- The save areas of each world that the firmware keeps: where they begin, and how many (R322, log entry 17). -/
opaque saveBase : Bool → Nat
opaque saveCount : Bool → Nat

/-- A free choice among alternatives that the manual lists (log entry 12). -/
opaque freeChoice : Nat → Nat

/-- Whether a read of a changed word of a bound record, of a descriptor or of a bitmap gives the old value (R135, log entry 76). The
arguments are the counter and the number of the 8-byte word. -/
opaque readsOld : Nat → Nat → Bool

/-- The host-visible address of a physical address under the host's CXL.mem mapping (R132, log entry 13). -/
opaque hostVisible : Nat → Nat

/-- The host-visible address of the PRP list in H-die memory of a command of a drive (R132, log entry 13). -/
opaque prpList : Nat → Nat → Nat

/-- The supervisor image that the firmware image holds, and its handler entry (R313, R315, log entry 19). -/
opaque supImage : Sparse Byte
opaque supEntry : BitVec 16

end Sys2Proof.Config
end

