-- ==== Sys2Proof/Machine/Access.lean ====
section
/-!
DEFINITION. Finding and replacing the parts of the state: crews, blocks, clusters, launches, units and cores, and the
identities that follow from them (R21, R39, R57, R281, R286, R300).
-/

namespace Sys2Proof

/-- The control crew (R17). -/
def CrewRef.isCtl : CrewRef → Bool | .ctl _ => true | .blk _ _ => false

/-- sr.crew: the index within the block (R39). -/
def CrewRef.index : CrewRef → Nat | .ctl _ => 0 | .blk _ k => k

end Sys2Proof

namespace Sys2Proof.Machine

/-! ### Dies, cores and chiplets -/

/-- Bit i of ID_STATUS.SHUT: chiplet i is shuttered (R24, R300). -/
def State.shuttered (s : State) (i : Nat) : Bool := s.ident.shut.toNat.testBit i

/-- The cores that C-die 0 was given at power-up: n0 (R21). -/
def Fuses.n0 (f : Fuses) : Nat := popN 36 f.en0.toNat

/-- The C-die of a logical core (R21). -/
def State.dieOfCore (s : State) (k : Nat) : Nat := if k < s.fuses.n0 then 0 else 1

/-- A logical core that exists and has not been retired (R21). -/
def State.coreIn (s : State) (k : Nat) : Bool := decide (k < s.cores.length) && !s.ident.retired.contains k

/-- A core in service: not retired, and its die not shuttered (R24). -/
def State.coreUp (s : State) (k : Nat) : Bool := s.coreIn k && !s.shuttered (1 + s.dieOfCore k)

/-- The cores in service of a die. -/
def State.coresOfDie (s : State) (d : Nat) : List Nat :=
  (List.range s.cores.length).filter (fun k => s.coreUp k && s.dieOfCore k == d)

def State.core (s : State) (k : Nat) : Core := listGet .reset s.cores k
def State.putCore (s : State) (k : Nat) (c : Core) : State := { s with cores := listSet s.cores k c }
def State.ctl (s : State) (d : Nat) : Ctl := listGet .reset s.ctls d
def State.putCtl (s : State) (d : Nat) (c : Ctl) : State := { s with ctls := listSet s.ctls d c }
def State.space (s : State) (q : Nat) : Space := listGet .reset s.spaces q
def State.putSpace (s : State) (q : Nat) (c : Space) : State := { s with spaces := listSet s.spaces q c }
def State.queue (s : State) (q : Nat) : Queue := listGet .reset s.queues q
def State.putQueue (s : State) (q : Nat) (c : Queue) : State := { s with queues := listSet s.queues q c }
def State.drive (s : State) (q : Nat) : Drive := listGet .reset s.drives q
def State.putDrive (s : State) (q : Nat) (c : Drive) : State := { s with drives := listSet s.drives q c }

/-- The cycle counter of a C-die (R31). -/
def State.cclk (s : State) (d : Nat) : Nat := if d = 0 then s.clk.c0.toNat else s.clk.c1.toNat
/-- The cycle counter of the H-die. -/
def State.hclk (s : State) : Nat := s.clk.h.toNat

/-! ### Crews and blocks -/

def State.crew? (s : State) (c : CrewRef) : Option Crew := assocGet s.crews c
def State.putCrew (s : State) (c : CrewRef) (k : Crew) : State := { s with crews := assocPut s.crews c k }
def State.dropCrew (s : State) (c : CrewRef) : State := { s with crews := assocDel s.crews c }

/-- Changes a crew, if it exists. -/
def State.modCrew (s : State) (c : CrewRef) (f : Crew → Crew) : State :=
  match s.crew? c with
  | some k => s.putCrew c (f k)
  | none => s

def State.block? (s : State) (b : Nat) : Option Block := assocGet s.blocks b
def State.putBlock (s : State) (b : Nat) (k : Block) : State := { s with blocks := assocPut s.blocks b k }
def State.modBlock (s : State) (b : Nat) (f : Block → Block) : State :=
  match s.block? b with
  | some k => s.putBlock b (f k)
  | none => s

def State.cluster? (s : State) (b : Nat) : Option Cluster := assocGet s.clusters b
def State.putCluster (s : State) (b : Nat) (k : Cluster) : State := { s with clusters := assocPut s.clusters b k }
def State.modCluster (s : State) (b : Nat) (f : Cluster → Cluster) : State :=
  match s.cluster? b with
  | some k => s.putCluster b (f k)
  | none => s

def State.launch? (s : State) (u : Nat) : Option Launch := s.launches.find? (fun l => l.uid == u)
def State.modLaunch (s : State) (u : Nat) (f : Launch → Launch) : State :=
  { s with launches := s.launches.map (fun l => if l.uid = u then f l else l) }

def State.unit? (s : State) (u : Nat) : Option CUnit := s.units.find? (fun l => l.uid == u)
def State.modUnit (s : State) (u : Nat) (f : CUnit → CUnit) : State :=
  { s with units := s.units.map (fun l => if l.uid = u then f l else l) }

/-- The block of a crew. -/
def State.blockOf (s : State) : CrewRef → Option Block
  | .ctl _ => none
  | .blk b _ => s.block? b

/-- The launch of a crew. -/
def State.launchOf (s : State) (c : CrewRef) : Option Launch := (s.blockOf c).bind (fun b => s.launch? b.unit)

/-- The launch record of a crew; all zero for the control crew. -/
def State.recOf (s : State) (c : CrewRef) : LaunchRec :=
  match s.launchOf c with | some l => l.lr | none => default

/-- The firmware core runs (R326, R327). -/
def State.firmwareRuns (s : State) : Bool := s.powered && s.mbox.state == 0

/-- The core of a crew; 255 for the control crew (R17). -/
def State.coreOf (s : State) (c : CrewRef) : Nat :=
  match c with
  | .ctl _ => 255
  | .blk b _ => match s.block? b with | some k => k.core | none => 255

/-- The C-die a crew runs on (R39). -/
def State.dieOf (s : State) (c : CrewRef) : Nat :=
  match c with | .ctl d => d | .blk _ _ => s.dieOfCore (s.coreOf c)

/-- The world of a crew: of its launch, or of its serving context (R39, R292). -/
def State.worldOf (s : State) (c : CrewRef) : Bool :=
  match c with | .ctl d => s.worlds.ctx.toNat.testBit d | .blk _ _ => (s.recOf c).world

/-- The address space of a crew (R281). -/
def State.asidOf (s : State) (c : CrewRef) : Nat :=
  match c with
  | .ctl d => 32 + d
  | .blk _ _ => match s.launchOf c with | some l => l.asid | none => 0

/-- The world of an address space (R284). -/
def State.spaceWorld (s : State) (q : Nat) : Bool :=
  if q < 32 then (s.queue q).world else s.worlds.ctx.toNat.testBit (q - 32)

/-- A privileged stream: in a handler, or the control crew (R286). -/
def State.privileged (s : State) (c : CrewRef) : Bool :=
  c.isCtl || (match s.crew? c with | some k => k.h | none => false)

/-- The crews of a block, by index. -/
def State.crewsOf (s : State) (b : Nat) : List Nat :=
  s.crews.filterMap (fun p => match p.1 with | .blk b' k => if b' = b then some k else none | .ctl _ => none)

/-- The blocks resident on a core. -/
def State.blocksOn (s : State) (k : Nat) : List (Nat × Block) := s.blocks.filter (fun p => p.2.core == k)

/-- The blocks that are saved together: the resident blocks of the cluster (R322). -/
def State.saveGroup (s : State) (b : Nat) : List Nat :=
  match s.block? b with
  | none => []
  | some k => (s.blocks.filter (fun p => p.2.cluster == k.cluster)).map (·.1)

/-- The crews resident on a core. -/
def State.crewsOn (s : State) (k : Nat) : List (CrewRef × Crew) :=
  s.crews.filter (fun p => match p.1 with | .blk _ _ => s.coreOf p.1 == k | .ctl _ => false)

/-- Register groups that are not held by a crew of the core (R80). -/
def State.freeGroups (s : State) (k : Nat) : Nat := 1024 - ((s.crewsOn k).map (fun p => p.2.groups)).sum

/-- The chunks a block holds (R96). -/
def State.scrchOf (s : State) (b : Nat) : Nat :=
  match s.block? b with
  | some k => (match s.launch? k.unit with | some l => l.lr.scrch | none => 0)
  | none => 0

/-- The ordinal of a unit's live job: walks at most three parents up (R108). -/
def State.ancestor (s : State) : Nat → Nat → Level → Option CUnit
  | 0, _, _ => none
  | n + 1, u, lv =>
    match s.unit? u with
    | none => none
    | some x => if x.level = lv then some x else (match x.parent with | some p => s.ancestor n p lv | none => none)

/-- The identifier of the enclosing unit of a level: sr.graph, sr.phase and sr.job (R39). -/
def State.idAbove (s : State) (c : CrewRef) (lv : Level) : W32 :=
  match s.crew? c with
  | none => 0
  | some k => match s.ancestor 4 k.unit lv with | some u => u.id | none => 0

/-- The run slots a crew acts on: the handler run slot while H = 1, else the two run slots (R313). -/
def Crew.slots (k : Crew) : List Run := if k.h then (match k.hrun with | some r => [r] | none => []) else k.runs

/-- The executing run of the slots the crew acts on. -/
def Crew.runNow (k : Crew) : Option Run := k.slots.find? (fun r => r.state == .executing)

/-- Replaces the executing run. -/
def Crew.setRunNow (k : Crew) (r : Run) : Crew :=
  if k.h then { k with hrun := some r }
  else { k with runs := k.runs.map (fun x => if x.state = .executing then r else x) }

/-- Slice i of a run. -/
def Run.slice (r : Run) (i : Nat) : Slice := listGet default r.slices i
def Run.setSlice (r : Run) (i : Nat) (x : Slice) : Run := { r with slices := listSet r.slices i x }

/-- The slices that share the gang of slice i (R74). -/
def Run.gangOf (r : Run) (i : Nat) : List Nat :=
  let g := (r.slice i).gang
  (List.range 8).filter (fun j => (r.slice j).live && (r.slice j).gang == g)

/-- A fresh name. -/
def State.fresh (s : State) : Nat × State := (s.nextUid, { s with nextUid := s.nextUid + 1 })

/-- Draws a free choice. -/
def State.draw (s : State) : Nat × State := (Config.freeChoice s.draws, { s with draws := s.draws + 1 })

end Sys2Proof.Machine
end

