-- ==== Sys2Proof/Machine/Phys.lean ====
section
/-!
DEFINITION. Physical memory (R26 to R28, R290, R291, R300): which bytes are backed, worlds, poison (R256), the device register
window (R23, R24, R128, R137), the writes that a Glazier unit watches (R158), and the error log (R327).
-/

namespace Sys2Proof.Machine

/-! ### Backing and worlds -/

/-- The device register window (R27). -/
def devBase : Nat := 0x040000000000

/-- Whether a physical byte lies in a backed part (R27, R28, R300): memory of a peer, while its endpoint is open (R307) on a port of the
non-secure world, in which every access to that memory is made (R279, R291, R308; log entry 94). -/
def State.backed (s : State) (pa : Nat) : Bool :=
  if pa < 0x100000000 then s.coreUp (pa / 0x03000000)
  else if 0x010000000000 ≤ pa ∧ pa < 0x01C000000000 then
    let k := (pa - 0x010000000000) / 0x001000000000
    decide ((pa - 0x010000000000) % 0x001000000000 < 64000000000) && !s.shuttered (5 + k) && !s.shuttered (1 + k / 6)
  else if devBase ≤ pa ∧ pa < 0x050000000000 then
    let o := pa - devBase
    decide (o < 0x1000) || (decide (0x100000 ≤ o) && decide (o < 0x108000)) || (decide (0x200000 ≤ o) && decide (o < 0x300000))
  else if 0x100000000000 ≤ pa ∧ pa < 0x140000000000 then
    let f := (pa - 0x100000000000) / 0x020000000000
    decide ((pa - 0x100000000000) % 0x020000000000 < 0x018000000000) && !s.shuttered (3 + f) && !s.shuttered (1 + f)
  else s.hostMap.any (fun r => decide (r.1 ≤ pa) && decide (pa < r.2)) &&
    s.peers.maps.all (fun m => !(decide (m.lo ≤ pa) && decide (pa < m.hi)) ||
      (!s.worlds.port.toNat.testBit m.port && s.peers.eps.any (fun e => e.port == m.port && e.ep == m.ep)))

/-- Every byte of a range is backed. -/
def State.backedRange (s : State) (pa n : Nat) : Bool := (List.range n).all (fun i => s.backed (pa + i))

/-- The tier number of a physical address: 0 tile memory, 1 HBM4E, 2 far tier, 3 register window, host or peer (R283). -/
def tierOf (pa : Nat) : Nat :=
  if pa < 0x100000000 then 0
  else if 0x010000000000 ≤ pa ∧ pa < 0x01C000000000 then 1
  else if 0x100000000000 ≤ pa ∧ pa < 0x140000000000 then 2
  else 3

/-- The chiplet that holds a physical address (R14), for the error log. -/
def State.chipletOf (s : State) (pa : Nat) : Nat :=
  if pa < 0x100000000 then 1 + s.dieOfCore (pa / 0x03000000)
  else if 0x010000000000 ≤ pa ∧ pa < 0x01C000000000 then 5 + (pa - 0x010000000000) / 0x001000000000
  else if 0x100000000000 ≤ pa ∧ pa < 0x140000000000 then 3 + (pa - 0x100000000000) / 0x020000000000
  else 0

/-- The 16 MiB granule of an address (R290). -/
def granule (pa : Nat) : Nat := pa / 0x1000000

/-- Whether the world map covers an address (R290): tile memory, HBM4E, and 98,304 granules of each F-die. -/
def mapped (pa : Nat) : Bool :=
  tierOf pa == 0 || tierOf pa == 1 || (tierOf pa == 2 && decide ((pa - 0x100000000000) % 0x020000000000 < 0x018000000000))

/-! ### Routes (R29, R30, R300, R301) -/

/-- The key of a slot of a link end. -/
def slotKey (l : List (Option Nat)) (i : Nat) : Option Nat := listGet none l i

/-- A direction that holds a key. -/
def Link.isKeyed (x : Link) : Bool := (slotKey x.txKeys x.slot).isSome

/-- A direction that may carry data: it holds a key, which encrypts no more than 2^32 flits (R301). -/
def Link.carries (x : Link) : Bool := x.isKeyed && decide (x.sent - x.keyed < 2 ^ 32)

/-- The C-die, counted from 1, through which a chiplet is reached; 0 for the H-die (R30). -/
def homeDie (i : Nat) : Nat := if i ≤ 2 then i else if i ≤ 4 then i - 2 else if i < 11 then 1 else 2

/-- The links between a die (0 the H-die, 1 and 2 the C-dies) and a chiplet (R29, R30): the bridge, a C–F link or a C–H link; the
interfaces of the stacks are no links. -/
def linkPath (a i : Nat) : List Nat :=
  let h := homeDie i
  (if a = h then [] else if a = 0 then [2 + h] else if h = 0 then [2 + a] else [0]) ++
  (if i = 3 then [1] else if i = 4 then [2] else [])

/-- A direction of a Vexlink (R301): link l has the directions 2 l and 2 l + 1. -/
def State.linkDir (s : State) (k : Nat) : Link := listGet .reset s.links k

/-- Both directions of every link between a die and a chiplet may carry data. -/
def State.wayOpen (s : State) (a i : Nat) : Bool :=
  (linkPath a i).all (fun l => (s.linkDir (2 * l)).carries && (s.linkDir (2 * l + 1)).carries)

/-- The links between a die and an address may carry data. -/
def State.pathOpen (s : State) (a pa : Nat) : Bool := s.wayOpen a (s.chipletOf pa)

/-- A page of a migration is quiesced (R252). -/
def Migration.quiet (m : Migration) : Bool :=
  match m.stage with | .pinned => false | .quiet => true | .remapped _ => true

/-- An access of a die (0 the H-die, 1 and 2 the C-dies) to n physical bytes stalls: a page that it touches is migrating (R252), or a
link on its way carries no data (R301). -/
def State.stalledPa (s : State) (die pa n : Nat) : Bool :=
  s.fore.migs.any (fun m => m.quiet &&
    ((decide (m.src < pa + n) && decide (pa < m.src + m.size)) || (decide (m.dst < pa + n) && decide (pa < m.dst + m.size)))) ||
  !s.pathOpen die pa

/-- The world check of one byte (R291): granules by the world map (a closed granule refuses both worlds), bell words by their
group, the identity page and the request table in both worlds, host and peer memory non-secure. -/
def State.worldOk (s : State) (secure : Bool) (pa : Nat) : Bool :=
  if mapped pa then
    !s.worlds.closed.contains (granule pa) && (s.worlds.secure.contains (granule pa) == secure)
  else if devBase + 0x100000 ≤ pa ∧ pa < devBase + 0x108000 then
    s.worlds.bell.toNat.testBit ((pa - devBase - 0x100000) / 2048) == secure
  else if devBase ≤ pa ∧ pa < 0x050000000000 then true
  else !secure

/-- The world check of a range. -/
def State.worldRange (s : State) (secure : Bool) (pa n : Nat) : Bool :=
  (List.range n).all (fun i => s.worldOk secure (pa + i))

/-- An address of the device register window. -/
def isDev (pa : Nat) : Bool := decide (devBase ≤ pa) && decide (pa < 0x050000000000)

/-- A physical range that a unit may reach for a world: backed memory of that world, outside the register window (R28, R291). Backing
and worlds do not change within 4,096 bytes. -/
def State.reaches (s : State) (sec : Bool) (pa n : Nat) : Bool :=
  let ok (a : Nat) : Bool := s.backed a && s.worldOk sec a && !isDev a
  (List.range ((n + 4095) / 4096)).all (fun i => ok (pa + 4096 * i)) && ok (pa + (n - 1))

/-! ### The identity page (R23, R24) -/

/-- The physical tile of the n-th enabled tile of a die. -/
def nthBit : Nat → Nat → Nat → Nat
  | 0, _, k => k
  | f + 1, x, k => if x % 2 = 1 then (if k = 0 then 0 else 1 + nthBit f (x / 2) (k - 1)) else 1 + nthBit f (x / 2) k

/-- The physical tile of a logical core (R21). -/
def State.tileOf (s : State) (k : Nat) : Nat :=
  if k < s.fuses.n0 then nthBit 36 s.fuses.en0.toNat k else nthBit 36 s.fuses.en1.toNat (k - s.fuses.n0)

/-- ID_MAPc.EN. -/
def State.idMap (s : State) (d : Nat) : Nat := listMask ((s.coresOfDie d).map s.tileOf)

/-- ID_TIERS.STACKS (R24, R300). -/
def State.stacks (s : State) : Nat :=
  listMask ((List.range 12).filter (fun k => !s.shuttered (5 + k) && !s.shuttered (1 + k / 6)))

/-- The mapped F-dies. -/
def State.farDies (s : State) : Nat := ((List.range 2).filter (fun f => !s.shuttered (3 + f) && !s.shuttered (1 + f))).length

/-- A register of the identity page by its index (R24). -/
def State.idReg (s : State) (i : Nat) : Nat :=
  let d0 := (s.coresOfDie 0).length
  let d1 := (s.coresOfDie 1).length
  match i with
  | 0 => 0x09 * 2 ^ 24 + s.fuses.bin.toNat * 2 ^ 16 + s.fuses.step.toNat * 2 ^ 8 + 0x10
  | 1 => s.ident.gen.toNat * 2 ^ 48 + (d0 + d1) * 2 ^ 16 + d1 * 2 ^ 8 + d0
  | 2 => s.idMap 0
  | 3 => s.idMap 1
  | 4 => s.stacks * 2 ^ 48 + (1536 * s.farDies) * 2 ^ 32 + ((d0 + d1) * 48) * 2 ^ 16 + 64 * popN 12 s.stacks
  | 5 => s.ident.hclk.toNat * 2 ^ 32 + s.ident.c1clk.toNat * 2 ^ 16 + s.ident.c0clk.toNat
  | 6 => s.ident.epoch.toNat
  | 7 => s.ident.reason.toNat * 2 ^ 24 + b2n s.ident.repl * 2 ^ 17 + s.ident.shut.toNat
  | 8 => s.ident.stamp.toNat
  | _ => 0

/-- The words k, k + 1, … of a space of 64-bit words as one number, m of them. -/
def wordsFrom (w : Nat → Nat) : Nat → Nat → Nat
  | 0, _ => 0
  | m + 1, k => w k + 2 ^ 64 * wordsFrom w m (k + 1)

/-- n bytes at a byte offset of a space of 64-bit words. -/
def wordBytes (w : Nat → Nat) (off n : Nat) : Nat :=
  wordsFrom w ((off % 8 + n + 7) / 8) (off / 8) / 2 ^ (8 * (off % 8)) % 2 ^ (8 * n)

/-- A read as R23 states: full registers, or a naturally aligned half, and zeros for any narrower or misaligned read. A read of more
than one register takes each register that it covers whole. -/
def regRead (reg : Nat → Nat) (off n : Nat) : Nat :=
  if off % 8 = 0 ∧ 8 ≤ n then wordsFrom reg (n / 8) (off / 8)
  else if n = 4 ∧ off % 4 = 0 then (reg (off / 8) / 2 ^ (8 * (off % 8))) % 2 ^ 32
  else 0

/-! ### The device register window -/

/-- Who makes an access, as the device registers see it: its world, the context of a control crew, and whether it is an SST. -/
structure Who where
  secure : Bool
  ctl    : Option Nat
  sst    : Bool
  deriving DecidableEq, Repr, Inhabited

/-- Word w of record i of the request table (R138). -/
def State.req (s : State) (i w : Nat) : W64 := sparseGet 0 s.reqs (16 * i + w)

/-- Writes a word of a record. -/
def State.setReq (s : State) (i w : Nat) (v : W64) : State := { s with reqs := sparseSet 0 s.reqs (16 * i + w) v }

/-- The bits of word w of a record that are marked RW (R138). -/
def reqRw (w : Nat) : W64 :=
  match w with
  | 5 => 0xFFFFFFFFFFFFFFFF
  | 6 => 0xFFFFFFFFFFFFFFFF
  | 7 => 0xFFFFFFFFFFFFFFFF
  | 8 => 0x0000FFFF00000000
  | 11 => 0x00000000FFFFFFFF
  | 12 => 0xF00FFFFFFFFFFFFF
  | 14 => 0x000FFFFFFFFFFFFF
  | _ => 0

/-- A word of the request table as a world reads it: 0 of a record of the other world (R137, R291). -/
def State.reqSeen (s : State) (secure : Bool) (k : Nat) : Nat :=
  if (s.req (k / 16) 0).toNat.testBit 58 == secure then (sparseGet 0 s.reqs k).toNat else 0

/-- A read of n bytes of the device register window (R23, R128, R137). -/
def State.devRead (s : State) (w : Who) (off n : Nat) : Nat :=
  if off < 0x1000 then regRead s.idReg off n
  else if 0x100000 ≤ off ∧ off < 0x108000 then wordBytes (fun k => (sparseGet 0 s.bells k).toNat) (off - 0x100000) n
  else if 0x200000 ≤ off ∧ off < 0x300000 then wordBytes (s.reqSeen w.secure) (off - 0x200000) n
  else 0

/-- The mask of n bytes from byte b of a 64-bit word. -/
def byteMask (b n : Nat) : W64 := BitVec.ofNat 64 ((2 ^ (8 * n) - 1) * 2 ^ (8 * b))

/-- A 64-bit word with the bits of a mask replaced. -/
def maskMerge (old new mask : W64) : W64 := (old &&& ~~~mask) ||| (new &&& mask)

/-- Writes n bytes into a bell word that holds them (R128). -/
def State.bellWrite (s : State) (o n v : Nat) : State :=
  let old := sparseGet 0 s.bells (o / 8)
  let new := maskMerge old (BitVec.ofNat 64 (v * 2 ^ (8 * (o % 8)))) (byteMask (o % 8) n)
  { s with bells := sparseSet 0 s.bells (o / 8) new }

/-- Writes n bytes into the bell words that hold them, of which there are at most m. -/
def State.bellSpan : Nat → State → Nat → Nat → Nat → State
  | 0, s, _, _, _ => s
  | m + 1, s, o, n, v =>
    let k := 8 - o % 8
    if n ≤ k then s.bellWrite o n v
    else State.bellSpan m (s.bellWrite o k (v % 2 ^ (8 * k))) (o + k) (n - k) (v / 2 ^ (8 * k))

/-- A write of n bytes to the device register window: the identity page ignores it, bell words take it without posting, and a record
of the writer's world takes an SST.64 or SST.32 of the owning context's control crew to RW fields (R23, R128, R137, R291). -/
def State.devWrite (s : State) (w : Who) (off n v : Nat) : State :=
  if 0x100000 ≤ off ∧ off < 0x108000 then State.bellSpan (n / 8 + 2) s (off - 0x100000) n v
  else if 0x200000 ≤ off ∧ off < 0x300000 then
    let o := off - 0x200000
    let i := o / 128
    match w.ctl with
    | some c =>
      if w.sst ∧ (n = 8 ∨ n = 4) ∧ off % n = 0 ∧ sparseGet 0 s.fore.owner i = c + 1 ∧ (s.req i 0).toNat.testBit 58 = w.secure then
        let k := (o % 128) / 8
        s.setReq i k (maskMerge (s.req i k) (BitVec.ofNat 64 (v * 2 ^ (8 * (o % 8)))) (byteMask (o % 8) n &&& reqRw k))
      else s
    | none => s
  else s

/-! ### Bytes of memory -/

/-- The byte at a physical address of memory. -/
def State.byte (s : State) (pa : Nat) : Byte := sparseGet unlistedByte s.mem pa

/-- A read of n bytes at a physical address (R27). -/
def State.physRead (s : State) (w : Who) (pa n : Nat) : List Byte :=
  if isDev pa then bytesOf n (s.devRead w (pa - devBase) n) else sparseRead unlistedByte s.mem pa n

/-- The 8-byte granules that a range touches. -/
def granules8 (pa n : Nat) : List Nat := (List.range ((pa % 8 + n + 7) / 8)).map (fun i => pa / 8 + i)

/-- A read of the range meets an uncorrectable error (R256). -/
def State.poisonedRange (s : State) (pa n : Nat) : Bool :=
  !isDev pa && (granules8 pa n).any (fun g => s.poison.contains g)

/-- Whether a write of n bytes at pa covers every byte of granule g. -/
def coversGranule (pa n g : Nat) : Bool := decide (pa ≤ 8 * g) && decide (8 * g + 8 ≤ pa + n)

/-! ### The Glazier's watch (R158) -/

/-- Marks element e of a row as written, for a whole write of value v or for a partial one. -/
def GlazierRow.mark (r : GlazierRow) (e : Nat) (whole : Option W32) : GlazierRow :=
  if sparseGet false r.seen e then { r with dup := true }
  else
    let r := { r with seen := sparseSet false r.seen e true }
    match whole with
    | none => { r with part := true }
    | some v =>
      if (v.toNat / 2 ^ 23) % 256 = 255 then { r with nf := true }
      else { r with incl := sparseSet false r.incl e true, vals := sparseSet 0 r.vals e v }

/-- What a write of bytes at pa does to an armed row (R158). -/
def GlazierRow.watch (r : GlazierRow) (pa : Nat) (bs : List Byte) : GlazierRow :=
  let n := bs.length
  if pa + n ≤ r.row ∨ r.row + 4 * r.cnt ≤ pa then r
  else
    let first := (max pa r.row - r.row) / 4
    let last := (min (pa + n) (r.row + 4 * r.cnt) - r.row + 3) / 4
    (List.range (last - first)).foldl (fun r i =>
      let e := first + i
      let a := r.row + 4 * e
      r.mark e (if pa ≤ a ∧ a + 4 ≤ pa + n then some (BitVec.ofNat 32 (ofBytes ((bs.drop (a - pa)).take 4))) else none)) r

/-- Every armed row sees a write. -/
def State.watch (s : State) (pa : Nat) (bs : List Byte) : State :=
  if s.fore.rows.isEmpty then s
  else { s with fore := { s.fore with rows := s.fore.rows.map (fun r => r.watch pa bs) } }

/-! ### Serving contexts and their bound record (R134, R135) -/

/-- Word w of the bound record, and a field of it. -/
def SCtx.word (c : SCtx) (w : Nat) : Nat := (listGet 0 c.words w).toNat
def SCtx.field (c : SCtx) (w hi lo : Nat) : Nat := bitsN (c.word w) hi lo

def SCtx.job (c : SCtx) : W32 := BitVec.ofNat 32 (c.field 0 63 32)
def SCtx.tpp (c : SCtx) : Nat := c.field 0 31 16
def SCtx.log2pb (c : SCtx) : Nat := c.field 0 15 8
def SCtx.pb (c : SCtx) : Nat := 2 ^ c.log2pb
def SCtx.desc (c : SCtx) : Nat := c.field 1 51 0
def SCtx.npg (c : SCtx) : Nat := c.field 2 24 0
/-- FB and FN of a tier. -/
def SCtx.fb (c : SCtx) (t : Nat) : Nat := c.field (3 + 2 * t) 51 0
def SCtx.fn (c : SCtx) (t : Nat) : Nat := c.field (4 + 2 * t) 63 32
def SCtx.intake (c : SCtx) : Nat := c.field 10 51 0
def SCtx.log2in (c : SCtx) : Nat := c.field 11 16 12
def SCtx.ibell (c : SCtx) : Nat := c.field 11 11 0
def SCtx.tmpl (c : SCtx) : Nat := c.field 12 51 0
def SCtx.plan (c : SCtx) : Nat := c.field 13 51 0
def SCtx.input (c : SCtx) : Nat := c.field 14 51 0
def SCtx.budget (c : SCtx) : Nat := c.field 15 63 48
def SCtx.chunk (c : SCtx) : Nat := c.field 15 47 32

/-- The frame bitmap of a tier: its address in memory (R135). -/
def SCtx.bitmapAt (c : SCtx) (t : Nat) : Nat :=
  c.field 9 51 0 + 8 * ((List.range t).map (fun i => ceilDiv (c.fn i) 64)).sum

/-- The ranges of memory that software must not change while a context is bound: its record, descriptors and bitmaps (R135). -/
def SCtx.bases (c : SCtx) : List (Nat × Nat) :=
  match c.bound with
  | none => []
  | some a => [(a, 128), (c.desc, 32 * c.npg), (c.bitmapAt 0, 8 * ((List.range 3).map (fun i => ceilDiv (c.fn i) 64)).sum)]

/-- The old value of a byte that has been changed. -/
def SCtx.old? (c : SCtx) (a : Nat) : Option Byte := (c.stale.find? (fun p => p.1 == a)).map (·.2)

/-- A write of n bytes over memory m: the old values of the bytes of the context's ranges are kept, each the first one. -/
def SCtx.changed (c : SCtx) (m : List Host.Cell) (pa n : Nat) : SCtx :=
  let hit (a : Nat) : Bool := c.bases.any (fun r => decide (r.1 ≤ a) && decide (a < r.1 + r.2)) && (c.old? a).isNone
  { c with stale := c.stale ++ (((List.range n).map (fun i => pa + i)).filter hit).map (fun a => (a, sparseGet unlistedByte m a)) }

/-- Every bound context sees a write over memory m. -/
def State.changed (s : State) (m : List Host.Cell) (pa n : Nat) : State :=
  if s.fore.ctxs.all (fun c => c.bound.isNone) then s
  else { s with fore := { s.fore with ctxs := s.fore.ctxs.map (fun c => c.changed m pa n) } }

/-! ### The error log (R327) -/

/-- A write that a unit of the H-die makes as non-secure must wait: a page that it touches migrates (R252), or no link leads there. -/
def State.unitStalls (s : State) (pa n : Nat) : Bool := s.reaches false pa n && s.stalledPa 0 pa n

/-- The place of the next entry of the error log ring. -/
def State.logPlace (s : State) : Nat := s.mbox.elBase.toNat + 32 * (s.mbox.elTail.toNat % 2 ^ s.mbox.elLog2.toNat)

/-- An entry reaches the error log ring. Where the ring lies outside what the device may reach as non-secure, the bytes are discarded
(log entry 91). -/
def State.logWrite (s : State) (bs : List Byte) : State :=
  { s with
    mem := if s.reaches false s.logPlace 32 then sparseWrite unlistedByte s.mem s.logPlace bs else s.mem
    mbox := { s.mbox with elTail := s.mbox.elTail + 1 } }

/-- An entry is appended to the ring; where the write must wait, or another entry waits already, it waits behind it (R252, R301). -/
def State.logEntry (s : State) (bs : List Byte) : State :=
  if !s.mbox.elWait.isEmpty || s.unitStalls s.logPlace 32 then { s with mbox := { s.mbox with elWait := s.mbox.elWait ++ [bs] } }
  else s.logWrite bs

/-- Appends an entry to the error log ring while it is enabled: cause, chiplet, code address and address. -/
def State.log (s : State) (cause chiplet code addr : Nat) : State :=
  if s.mbox.elEn then
    s.logEntry (bytesOf 8 (cause + chiplet * 256) ++ bytesOf 8 code ++ bytesOf 8 addr ++ bytesOf 8 s.ident.stamp.toNat)
  else s

/-- The entries that wait are written, in their order, as far as they can be. -/
def State.flushLog (s : State) : State :=
  if s.mbox.elWait.isEmpty then s else s.mbox.elWait.foldl State.logEntry { s with mbox := { s.mbox with elWait := [] } }

/-! ### Writes -/

/-- Writes the bytes that poison does not discard: a granule that is poisoned takes a write only when the write covers it. -/
def writeBytes (m : List Host.Cell) (skip : Nat → Bool) : Nat → List Byte → List Host.Cell
  | _, [] => m
  | pa, b :: t => writeBytes (if skip (pa / 8) then m else sparseSet unlistedByte m pa b) skip (pa + 1) t

/-- A write of bytes to memory (R256): a poisoned granule that the write covers is cleaned; a narrower write to one is discarded
and logged. Armed Glazier rows see it (R158), and bound serving contexts (R135). -/
def State.memWrite (s : State) (pa : Nat) (bs : List Byte) : State :=
  let n := bs.length
  let skip (g : Nat) : Bool := s.poison.contains g && !coversGranule pa n g
  let s1 : State :=
    { s with mem := writeBytes s.mem skip pa bs, poison := s.poison.filter (fun g => !coversGranule pa n g) }
  let s2 := if (granules8 pa n).any skip then s1.log 0x35 (s.chipletOf pa) 0 pa else s1
  (s2.watch pa bs).changed s.mem pa n

/-- A write that a unit of the package makes for a world: one outside what the unit may reach is discarded (R291, R294; log entry
91). -/
def State.unitWrite (s : State) (sec : Bool) (pa : Nat) (bs : List Byte) : State :=
  if s.reaches sec pa bs.length then s.memWrite pa bs else s

/-- A write of bytes at a physical address (R27). -/
def State.physWrite (s : State) (w : Who) (pa : Nat) (bs : List Byte) : State :=
  if isDev pa then s.devWrite w (pa - devBase) bs.length (ofBytes bs) else s.memWrite pa bs

/-- The 64-bit word at a physical address of memory. -/
def State.word64 (s : State) (pa : Nat) : W64 := BitVec.ofNat 64 (ofBytes (s.physRead ⟨false, none, false⟩ pa 8))

/-- The 32-bit word at a physical address of memory. -/
def State.word32 (s : State) (pa : Nat) : W32 := BitVec.ofNat 32 (ofBytes (s.physRead ⟨false, none, false⟩ pa 4))

/-- Writes a 64-bit word. -/
def State.putWord64 (s : State) (pa : Nat) (v : W64) : State := s.memWrite pa (bytesOf 8 v.toNat)

/-- Posts a bell word's value (R129): it waits for the ring in the queue of the H-die. -/
def State.post (s : State) (i : Nat) : State :=
  { s with notify := { s.notify with waiting := s.notify.waiting ++ [(i, sparseGet 0 s.bells i)] } }

/-- Whether a bell store stalls: the queue of 256 waiting posts is full (R129). -/
def State.postFull (s : State) : Bool := decide (256 ≤ s.notify.waiting.length)

/-- Writes a bell word and posts it (R125, R132, R139), whatever the world of its group (log entry 115); while the queue of waiting posts
is full, the store stalls behind those that stalled before it (R129). -/
def State.notePost (s : State) (i : Nat) (v : W64) : State :=
  if s.postFull then { s with notify := { s.notify with stalled := s.notify.stalled ++ [(i, v)] } }
  else ({ s with bells := sparseSet 0 s.bells i v }).post i

/-- An entry of the queue of waiting posts has become free: the oldest stalled store is made. -/
def State.noteStalled (s : State) : State :=
  match s.notify.stalled with
  | [] => s
  | (i, v) :: t => ({ s with notify := { s.notify with stalled := t } }).notePost i v

/-- The canonical form of memory: addresses strictly rising, and no entry that reads as an unlisted address does. -/
def Memory.wf (m : List Host.Cell) : Bool := sparseWf unlistedByte m

end Sys2Proof.Machine
end

