-- ==== Sys2Proof/Machine/Translate.lean ====
section
/-!
DEFINITION. Virtual addresses: the windows of R236 and R237, the page-table walk and the leaf checks of R282 to R287, the
engines that cache translations (R288), and reads and writes at the locations that an access names.
-/

namespace Sys2Proof.Machine

/-! ### Cause codes (R311) -/

def cILLINS : Nat := 0x01
def cILLFMT : Nat := 0x02
def cBADTGT : Nat := 0x03
def cOVLMISS : Nat := 0x04
def cOVLBAD : Nat := 0x05
def cPRIVINS : Nat := 0x06
def cREGRNG : Nat := 0x07
def cRUNOVF : Nat := 0x10
def cNORUN : Nat := 0x11
def cJOINMIS : Nat := 0x12
def cMSKOVF : Nat := 0x13
def cREGLIM : Nat := 0x14
def cCLAIMDL : Nat := 0x15
def cBARIDX : Nat := 0x16
def cBARDUP : Nat := 0x17
def cBARMIX : Nat := 0x18
def cATTSEQ : Nat := 0x19
def cDETMIN : Nat := 0x1A
def cREORDSH : Nat := 0x1B
def cXPMIX : Nat := 0x1C
def cWIDRNG : Nat := 0x1D
def cCANPERM : Nat := 0x1E
def cNOGRANT : Nat := 0x20
def cNOCTX : Nat := 0x21
def cMXARG : Nat := 0x22
def cWMISS : Nat := 0x23
def cWIMG : Nat := 0x24
def cGANGMIS : Nat := 0x25
def cGANGTO : Nat := 0x26
def cVAHOLE : Nat := 0x30
def cSPBOUND : Nat := 0x31
def cCLRANK : Nat := 0x32
def cATALIGN : Nat := 0x33
def cPAHOLE : Nat := 0x34
def cMEMERR : Nat := 0x35
def cNOPAGE : Nat := 0x38
def cPTEBAD : Nat := 0x39
def cWALKERR : Nat := 0x3A
def cPERMP : Nat := 0x3B
def cPERMR : Nat := 0x3C
def cPERMW : Nat := 0x3D
def cPERMA : Nat := 0x3E
def cPERMX : Nat := 0x3F
def cWORLDF : Nat := 0x40
def cCHKOWN : Nat := 0x48
def cCHKIDLE : Nat := 0x49
def cCHKFAIL : Nat := 0x4A
def cTSRBAD : Nat := 0x4B
def cTCARG : Nat := 0x4C
def cPGNONE : Nat := 0x4D
def cSRVBIND : Nat := 0x50
def cSRVBUSY : Nat := 0x51
def cSRVCFG : Nat := 0x52
def cSRVARG : Nat := 0x53
def cRQIDX : Nat := 0x54
def cRQSTATE : Nat := 0x55
def cPGIDX : Nat := 0x56
def cPGREFOV : Nat := 0x57
def cSWTRAP : Nat := 0x60
def cBRKPT : Nat := 0x61
def cLANETRAP : Nat := 0x62
def cCANCEL : Nat := 0x80
def cBADLREC : Nat := 0x81
def cLDEPNF : Nat := 0x82
def cDEPCAN : Nat := 0x83
def cSPMERR : Nat := 0x84
def cSAVEERR : Nat := 0x85
def cDIELOST : Nat := 0x86
def cDBLFLT : Nat := 0x87
def cBADPKT : Nat := 0x88
def cPKTADDR : Nat := 0x89
def cDUPID : Nat := 0x8A
def cNOUNIT : Nat := 0x8B
def cPREDTO : Nat := 0x8C
def cMBSTATE : Nat := 0x8D
def cIMGBAD : Nat := 0x8E
def cXPORTERR : Nat := 0x90

/-- The cause codes that R311 lists. -/
def listedCauses : List Nat :=
  [1, 2, 3, 4, 5, 6, 7, 0x10, 0x11, 0x12, 0x13, 0x14, 0x15, 0x16, 0x17, 0x18, 0x19, 0x1A, 0x1B, 0x1C, 0x1D, 0x1E,
   0x20, 0x21, 0x22, 0x23, 0x24, 0x25, 0x26] ++
  [0x30, 0x31, 0x32, 0x33, 0x34, 0x35, 0x38, 0x39, 0x3A, 0x3B, 0x3C, 0x3D, 0x3E, 0x3F, 0x40,
   0x48, 0x49, 0x4A, 0x4B, 0x4C, 0x4D, 0x50, 0x51, 0x52, 0x53, 0x54, 0x55, 0x56, 0x57] ++
  [0x60, 0x61, 0x62, 0x80, 0x81, 0x82, 0x83, 0x84, 0x85, 0x86, 0x87, 0x88, 0x89, 0x8A, 0x8B, 0x8C, 0x8D, 0x8E, 0x90]

/-! ### Windows (R236, R237) -/

/-- What a virtual address names before translation. -/
inductive Win
  | flat
  | spad (block : Nat) (off : Nat)
  | ended (cluster : Nat) (rank : Nat) (off : Nat)
  deriving DecidableEq, Repr

/-- The block of a rank in a cluster, if it is still resident. -/
def State.blockOfRank (s : State) (cluster rank : Nat) : Option Nat :=
  (s.blocks.find? (fun p => p.2.cluster == cluster &&
    (match s.launch? p.2.unit with | some l => p.2.index % l.lr.csize == rank | none => false))).map (·.1)

/-- bits [63:54] are all equal (R236). -/
def canonical (va : Nat) : Bool := decide (va < 2 ^ 54) || decide (2 ^ 64 - 2 ^ 54 ≤ va)

/-- The window of a virtual address for a crew, or VAHOLE, CLRANK or SPBOUND (R236, R237). -/
def State.window (s : State) (c : CrewRef) (va : Nat) : Except Nat Win :=
  if !canonical va then .error cVAHOLE
  else if 0xFFFFFFFFF0000000 ≤ va ∧ va < 0xFFFFFFFFF0100000 then
    match c with
    | .ctl _ => .error cVAHOLE
    | .blk b _ =>
      let off := va - 0xFFFFFFFFF0000000
      if 512 * s.scrchOf b ≤ off then .error cSPBOUND else .ok (.spad b off)
  else if 0xFFFFFFFFE0000000 ≤ va ∧ va < 0xFFFFFFFFE2000000 then
    match c with
    | .ctl _ => .error cVAHOLE
    | .blk b _ =>
      let o := va - 0xFFFFFFFFE0000000
      let off := o % 0x100000
      let rank := (o / 0x100000) % 16
      if (s.recOf c).csize ≤ rank then .error cCLRANK
      else if 512 * s.scrchOf b ≤ off then .error cSPBOUND
      else match s.block? b with
        | none => .error cCLRANK
        | some k =>
          if (s.recOf c).csize = 1 then .ok (.spad b off)
          else match s.blockOfRank k.cluster rank with
            | some b' => .ok (.spad b' off)
            | none => .ok (.ended k.cluster rank off)
  else if 0xFFFFFFFFE2000000 ≤ va then .error cVAHOLE
  else .ok .flat

/-! ### Page tables (R282 to R285) -/

/-- The index of a virtual address at a level. -/
def vaIndex (va level : Nat) : Nat :=
  if level = 2 then bitsN va 54 42 else if level = 1 then bitsN va 41 29 else bitsN va 28 16

/-- The number of offset bits of a leaf at a level. -/
def leafBits (level : Nat) : Nat := if level = 2 then 42 else if level = 1 then 29 else 16

/-- V, LEAF and FRAME of an entry (R283). -/
def pteV (e : Nat) : Bool := bitN e 0
def pteLeaf (e : Nat) : Bool := bitN e 1
def pteFrame (e : Nat) : Nat := bitsN e 51 16 * 2 ^ 16

/-- A valid entry is ill-formed (R284). -/
def pteBad (spaceSecure : Bool) (level e : Nat) : Bool :=
  bitsN e 63 52 != 0 || bitsN e 15 10 != 0 ||
  (if pteLeaf e then
    pteFrame e % 2 ^ leafBits level != 0 || bitsN e 9 8 != tierOf (pteFrame e) || (!bitN e 7 && !spaceSecure)
  else
    level == 0 || bitsN e 9 2 != 0 || decide (2 ≤ tierOf (pteFrame e)))

/-- What a walk comes to: a leaf and its level, or an entry that it cannot read yet (R252, R301). -/
inductive Walked
  | leaf (e level : Nat)
  | stalls (pa : Nat)
  deriving DecidableEq, Repr

/-- The walk of a die's engine from a node at a level (R285): the leaf and its level, or NOPAGE, PTEBAD or WALKERR. It stalls at an
entry that its die cannot reach now (R252, R301). -/
def State.walk (s : State) (die : Nat) (spaceSecure : Bool) (va : Nat) : Nat → Nat → Except Nat Walked
  | 0, _ => .error cPTEBAD
  | n + 1, node =>
    let pa := node + 8 * vaIndex va n
    if !s.worldOk spaceSecure pa || !s.backed pa then .error cWALKERR
    else if s.stalledPa die pa 8 then .ok (.stalls pa)
    else if s.poisonedRange pa 8 then .error cWALKERR
    else
      let e := (s.word64 pa).toNat
      if !pteV e then .error cNOPAGE
      else if pteBad spaceSecure n e then .error cPTEBAD
      else if pteLeaf e then .ok (.leaf e n)
      else s.walk die spaceSecure va n (pteFrame e)

/-- Checks 4 to 8 on a leaf (R285). -/
def leafCheck (priv : Bool) (kind : AccKind) (e : Nat) : Option Nat :=
  if bitN e 6 && !priv then some cPERMP
  else if (kind == .read || kind == .atomic) && !bitN e 2 then some cPERMR
  else if (kind == .write || kind == .atomic) && !bitN e 3 then some cPERMW
  else if kind == .atomic && !bitN e 5 then some cPERMA
  else if kind == .execute && !bitN e 4 then some cPERMX
  else none

/-- An engine's cached translations and adopted generations (R288), and the die (0 the H-die, 1 and 2 the C-dies) that it is in. -/
structure Engine where
  tlb  : List TlbEntry
  gens : Sparse (BitVec 16)
  cap  : Nat
  die  : Nat
  deriving DecidableEq, Repr

/-- The generation of an address space that an engine has adopted. -/
def Engine.gen (e : Engine) (q : Nat) : BitVec 16 := sparseGet 0 e.gens q

/-- A cached entry that hits (R288). -/
def Engine.find (e : Engine) (asid va : Nat) : Option TlbEntry :=
  e.tlb.find? (fun t => t.asid == asid && t.gen == e.gen asid && t.page == va / 2 ^ leafBits t.level)

/-- Drops the entries that hit for an address. -/
def Engine.forget (e : Engine) (asid va : Nat) : Engine :=
  { e with tlb := e.tlb.filter (fun t => !(t.asid == asid && t.gen == e.gen asid && t.page == va / 2 ^ leafBits t.level)) }

/-- Keeps a translation; dead entries go first, then the oldest, when space is needed (R288, log entry 10). -/
def Engine.keep (e : Engine) (t : TlbEntry) : Engine :=
  if e.tlb.length < e.cap then { e with tlb := e.tlb ++ [t] }
  else
    let alive := e.tlb.filter (fun x => x.gen == e.gen x.asid)
    { e with tlb := (if alive.length < e.cap then alive else alive.drop 1) ++ [t] }

/-- A translated range of bytes: its physical address, its length and whether the access is secure. -/
structure Phys where
  pa     : Nat
  n      : Nat
  secure : Bool
  deriving DecidableEq, Repr

/-- The world check of the n bytes of one page: bell words change their world every 2,048 bytes, and nothing else does within a page
(R290, R291). -/
def State.worldSpan (s : State) (secure : Bool) (pa n : Nat) : Bool :=
  (List.range ((n + 2047) / 2048)).all (fun i => s.worldOk secure (pa + 2048 * i)) && s.worldOk secure (pa + (n - 1))

/-- The walk of an address space from its root, for an engine (R285). -/
def State.walkSpace (s : State) (e : Engine) (asid va : Nat) : Except Nat Walked :=
  if (s.space asid).en then s.walk e.die (s.spaceWorld asid) va 3 ((s.space asid).root.toNat * 2 ^ 16) else .error cNOPAGE

/-- The physical bytes that a leaf gives an access of n bytes, and the world of the access (R283, R285). -/
def leafPhys (world : Bool) (va n leaf lv : Nat) : Phys := ⟨pteFrame leaf + va % 2 ^ leafBits lv, n, world && !bitN leaf 7⟩

/-- Checks 4 to 9 of R285 on a leaf. -/
def State.leafFault (s : State) (priv world : Bool) (kind : AccKind) (va n leaf lv : Nat) : Option Nat :=
  match leafCheck priv kind leaf with
  | some c => some c
  | none =>
    let p := leafPhys world va n leaf lv
    if s.worldSpan p.secure p.pa n then none else some cWORLDF

/-- A leaf that the engine keeps serves an access: it passes every check, and its bytes are backed. Any other access walks, so that none
meets a result that faulted before (R287). -/
def State.leafKept (s : State) (e : Engine) (asid : Nat) (priv world : Bool) (kind : AccKind) (va n : Nat) : Option Phys :=
  match e.find asid va with
  | none => none
  | some t =>
    let p := leafPhys world va n t.leaf.toNat t.level
    if (s.leafFault priv world kind va n t.leaf.toNat t.level).isNone && s.backedRange p.pa n then some p else none

/-- What a translation comes to: physical bytes, or a table entry that the walk cannot read now, at which the access stalls (R252,
R301). -/
inductive Reached
  | bytes (p : Phys)
  | table (pa : Nat)
  deriving DecidableEq, Repr

/-- translate(va, kind) of R64 for n bytes of one page: checks 1 to 9 of R285. An engine keeps no result that faulted, and drops the
leaf that it kept for an address for which it has walked (R287). -/
def State.translate (s : State) (e : Engine) (asid : Nat) (priv world : Bool) (kind : AccKind) (va n : Nat) :
    Except Nat Reached × Engine :=
  match s.leafKept e asid priv world kind va n with
  | some p => (.ok (.bytes p), e)
  | none =>
    match s.walkSpace e asid va with
    | .error c => (.error c, e)
    | .ok (.stalls pa) => (.ok (.table pa), e)
    | .ok (.leaf leaf lv) =>
      match s.leafFault priv world kind va n leaf lv with
      | some c => (.error c, e)
      | none =>
        (.ok (.bytes (leafPhys world va n leaf lv)),
         (e.forget asid va).keep ⟨asid, e.gen asid, va / 2 ^ leafBits lv, lv, BitVec.ofNat 64 leaf⟩)

/-! ### Locations -/

/-- A run of bytes that an access reaches: scratchpad bytes of a block or of an ended member of a cluster, or physical bytes; or the
table entry at which its translation stalls. -/
inductive Loc
  | spad (block off n : Nat)
  | ended (cluster rank off n : Nat)
  | phys (p : Phys)
  | table (pa : Nat)
  deriving DecidableEq, Repr

def Loc.len : Loc → Nat | .spad _ _ n => n | .ended _ _ _ n => n | .phys p => p.n | .table _ => 0

/-- The checks of an access are not all decided yet: a walk of it stalls (R255). -/
def undecided (ls : List Loc) : Bool :=
  ls.any (fun l => match l with | .table _ => true | .spad _ _ _ => false | .ended _ _ _ _ => false | .phys _ => false)

/-- The die at which a crew's accesses begin. -/
def State.seat (s : State) (c : CrewRef) : Nat := 1 + s.dieOf c

/-- The die that holds a block's scratchpad, and the one that holds that of an ended member of a cluster, counted from 1 (R105). -/
def State.spadDie (s : State) (b : Nat) : Nat := match s.block? b with | some k => 1 + s.dieOfCore k.core | none => 1
def State.endedDie (s : State) (cl r : Nat) : Nat :=
  1 + s.dieOfCore (match s.cluster? cl with | some k => (assocGet k.seats r).getD 0 | none => 0)

/-- The engine that translates lane and scalar accesses of a crew (R288). -/
def State.engine (s : State) (c : CrewRef) : Engine :=
  match c with
  | .ctl d => ⟨(s.ctl d).tlb, (s.ctl d).gens, 2048, s.seat c⟩
  | .blk _ _ => let k := s.core (s.coreOf c); ⟨k.tlb, k.gens, 2048, s.seat c⟩

/-- Stores an engine's cached translations back. -/
def State.putEngine (s : State) (c : CrewRef) (e : Engine) : State :=
  match c with
  | .ctl d => s.putCtl d { s.ctl d with tlb := e.tlb }
  | .blk _ _ => s.putCore (s.coreOf c) { s.core (s.coreOf c) with tlb := e.tlb }

/-- The parts of an access of n bytes at va that lie in one 64 KiB page each: one part, or two. -/
def pageParts (va n : Nat) : List (Nat × Nat) :=
  let first := 0x10000 - va % 0x10000
  if n ≤ first then [(va, n)] else [(va, first), ((va + first) % 2 ^ 64, n - first)]

/-- Check 1 of R255 on every part. -/
def State.windows (s : State) (c : CrewRef) : List (Nat × Nat) → Except Nat (List (Win × Nat × Nat))
  | [] => .ok []
  | (va, n) :: t =>
    match s.window c va, s.window c ((va + n - 1) % 2 ^ 64), s.windows c t with
    | .error e, _, _ => .error e
    | .ok _, .error e, _ => .error e
    | .ok _, .ok _, .error e => .error e
    | .ok w, .ok _, .ok ws => .ok ((w, va, n) :: ws)

/-- Check 3 of R255 on one part. -/
def State.translatePart (s : State) (asid : Nat) (priv world : Bool) (kind : AccKind) (e : Engine) (x : Win × Nat × Nat) :
    Except Nat Loc × Engine :=
  match x.1 with
  | .spad b o => (.ok (.spad b o x.2.2), e)
  | .ended cl r o => (.ok (.ended cl r o x.2.2), e)
  | .flat =>
    match s.translate e asid priv world kind x.2.1 x.2.2 with
    | (.error c, e1) => (.error c, e1)
    | (.ok (.bytes p), e1) => (.ok (.phys p), e1)
    | (.ok (.table pa), e1) => (.ok (.table pa), e1)

/-- Check 3 of R255 on every part: the cause of the first part that fails, once every part is decided. -/
def State.translateParts (s : State) (asid : Nat) (priv world : Bool) (kind : AccKind) :
    Engine → List (Win × Nat × Nat) → Except Nat (List Loc) × Engine
  | e, [] => (.ok [], e)
  | e, x :: t =>
    let a := s.translatePart asid priv world kind e x
    let b := s.translateParts asid priv world kind a.2 t
    match a.1, b.1 with
    | .ok l, .ok ls => (.ok (l :: ls), b.2)
    | .error c, .ok ls => if undecided ls then (.ok ls, b.2) else (.error c, b.2)
    | .ok l, .error c => if undecided [l] then (.ok [l], b.2) else (.error c, b.2)
    | .error c, .error _ => (.error c, b.2)

/-- Check 4 of R255. -/
def State.backedLocs (s : State) (ls : List Loc) : Bool :=
  ls.all (fun l => match l with | .phys p => s.backedRange p.pa p.n | .spad _ _ _ => true | .ended _ _ _ _ => true | .table _ => true)

/-- The checks of R255 on one access: the locations, or the cause of the first check that fails; while a walk of it stalls, the table
entry is among the locations. -/
def State.checkAccess (s : State) (c : CrewRef) (e : Engine) (priv : Bool) (kind : AccKind) (va n : Nat) :
    Except Nat (List Loc) × Engine :=
  match s.windows c (pageParts va n) with
  | .error x => (.error x, e)
  | .ok ws =>
    if kind == .atomic && va % n != 0 then (.error cATALIGN, e)
    else
      match s.translateParts (s.asidOf c) priv (s.worldOf c) kind e ws with
      | (.error x, e) => (.error x, e)
      | (.ok ls, e) => if undecided ls || s.backedLocs ls then (.ok ls, e) else (.error cPAHOLE, e)

/-! ### Reading and writing locations -/

/-- The device registers' view of a crew's access. -/
def whoOf (c : CrewRef) (sst secure : Bool) : Who :=
  ⟨secure, match c with | .ctl d => some d | .blk _ _ => none, sst⟩

/-- The scratchpad of an ended member (R66). -/
def Cluster.endedSpad (k : Cluster) (rank : Nat) : Sparse Byte := (assocGet k.ended rank).getD []

/-- Reads the bytes of a location. -/
def State.readLoc (s : State) (c : CrewRef) (l : Loc) : List Byte :=
  match l with
  | .spad b o n => match s.block? b with | some k => sparseRead 0 k.spad o n | none => List.replicate n 0
  | .ended cl r o n => match s.cluster? cl with | some k => sparseRead 0 (k.endedSpad r) o n | none => List.replicate n 0
  | .phys p => s.physRead (whoOf c false p.secure) p.pa p.n
  | .table _ => []

/-- Writes the bytes of a location. -/
def State.writeLoc (s : State) (c : CrewRef) (sst : Bool) (l : Loc) (bs : List Byte) : State :=
  match l with
  | .spad b o _ => s.modBlock b (fun k => { k with spad := sparseWrite 0 k.spad o bs })
  | .ended cl r o _ => s.modCluster cl (fun k => { k with ended := assocPut k.ended r (sparseWrite 0 (k.endedSpad r) o bs) })
  | .phys p => s.physWrite (whoOf c sst p.secure) p.pa bs
  | .table _ => s

/-- Reads the bytes of an access. -/
def State.readLocs (s : State) (c : CrewRef) (ls : List Loc) : List Byte := (ls.map (s.readLoc c)).flatten

/-- Writes the bytes of an access, part by part. -/
def State.writeLocs (s : State) (c : CrewRef) (sst : Bool) : List Loc → List Byte → State
  | [], _ => s
  | l :: t, bs => (s.writeLoc c sst l (bs.take l.len)).writeLocs c sst t (bs.drop l.len)

/-- A read of the access meets an uncorrectable error (R256). -/
def State.poisonedLocs (s : State) (ls : List Loc) : Bool :=
  ls.any (fun l => match l with | .phys p => s.poisonedRange p.pa p.n | .spad _ _ _ => false | .ended _ _ _ _ => false | .table _ => false)

/-- An access of a die stalls (R252, R301): at a physical range, at a table entry, or on the way to the die of a scratchpad. -/
def State.stalledLocs (s : State) (die : Nat) (ls : List Loc) : Bool :=
  ls.any (fun l => match l with
    | .phys p => s.stalledPa die p.pa p.n
    | .spad b _ _ => !s.wayOpen die (s.spadDie b)
    | .ended cl r _ _ => !s.wayOpen die (s.endedDie cl r)
    | .table _ => true)

/-- The bell words that an access writes, by their first bytes (R128): a misaligned store that runs into a second word posts the first
alone (log entry 83). -/
def bellsOf (ls : List Loc) : List Nat :=
  ls.filterMap (fun l => match l with
    | .phys p => if devBase + 0x100000 ≤ p.pa ∧ p.pa < devBase + 0x108000 then some ((p.pa - devBase - 0x100000) / 8) else none
    | .spad _ _ _ => none
    | .ended _ _ _ _ => none
    | .table _ => none)

end Sys2Proof.Machine
end

