-- ==== Sys2Proof/Machine/Barriers.lean ====
section
/-!
DEFINITION. Barrier units (R84 to R87): completion of a phase, arrival, attachment and departure, and the local combining of a
block for the launch barriers.
-/

namespace Sys2Proof.Machine

/-- The identity of an operator (R87). -/
def barIdentity : BarOp → W32
  | .and => 0xFFFFFFFF
  | .none => 0
  | .or => 0
  | .sum => 0
  | .popc => 0

/-- Combining a value into an accumulator (R87). -/
def barCombine (op : BarOp) (acc v : W32) : W32 :=
  match op with
  | .none => acc
  | .and => acc &&& v
  | .or => acc ||| v
  | .sum => acc + v
  | .popc => acc + BitVec.ofNat 32 (popN 32 v.toNat)

/-- A barrier at its allocation (R84, R105). -/
def Barrier.start (members : Nat) : Barrier := ⟨members, 0, [], 0, 0, .none, 0, 0⟩

/-- Completion of a phase (R86). -/
def Barrier.complete (b : Barrier) : Barrier :=
  { b with
    result := b.acc, phase := b.phase + 1, arrivals := 0, arrived := [], op := .none, acc := 0,
    members := b.members - b.deferred, deferred := 0 }

/-- A phase completes when arrivals becomes equal to membership and is at least 1 (R86). -/
def Barrier.settle (b : Barrier) : Barrier := if 1 ≤ b.arrivals ∧ b.arrivals = b.members then b.complete else b

/-- Joining two accumulated values of an operator: a block's combined value already holds the population counts of its crews (R84,
R87). -/
def barMerge (op : BarOp) (acc v : W32) : W32 := match op with | .popc => acc + v | _ => barCombine op acc v

/-- An arrival with a value that f joins to the accumulator, before the phase may complete (R87). -/
def Barrier.joinBy (f : BarOp → W32 → W32 → W32) (b : Barrier) (me : Nat) (op : BarOp) (v : W32) : Barrier :=
  let b1 : Barrier := if op ≠ .none ∧ b.op = .none then { b with op := op, acc := barIdentity op } else b
  let b2 : Barrier := if op ≠ .none then { b1 with acc := f op b1.acc v } else b1
  { b2 with arrived := b2.arrived ++ [me], arrivals := b2.arrivals + 1 }

/-- A crew's arrival, before the phase may complete. -/
def Barrier.join (b : Barrier) (me : Nat) (op : BarOp) (v : W32) : Barrier := b.joinBy barCombine me op v

/-- A crew's arrival (R87). -/
def Barrier.arrive (b : Barrier) (me : Nat) (op : BarOp) (v : W32) : Barrier := (b.join me op v).settle

/-- A block's arrival at a launch barrier, with the combined value of its crews (R84, R87). -/
def Barrier.arriveBlock (b : Barrier) (me : Nat) (op : BarOp) (v : W32) : Barrier := (b.joinBy barMerge me op v).settle

/-- A departure (R92): deferred for a member that has arrived in the phase. Its arrival still counts, and its bit is cleared, since
a crew that growth starts may take its index (R90, log entry 74). -/
def Barrier.depart (b : Barrier) (me : Nat) : Barrier :=
  if b.arrived.contains me then { b with deferred := b.deferred + 1, arrived := b.arrived.filter (fun j => j != me) }
  else { b with members := b.members - 1 }.settle

/-- An attachment (R91). -/
def Barrier.attach (b : Barrier) : Barrier := { b with members := b.members + 1 }

/-- The member number of a crew at a cluster barrier: 16 × rank + index; at a block barrier the rank is taken as 0 (R322). -/
def memberNo (rank k : Nat) : Nat := 16 * rank + k

/-- The rank of a block within its cluster (R99). -/
def State.rankOf (s : State) (k : Block) : Nat :=
  match s.launch? k.unit with | some l => (if l.lr.csize = 0 then 0 else k.index % l.lr.csize) | none => 0

/-- Clears the combining units of launch barrier i in every block of the launch, resident or saved, when its phase completes. -/
def State.clearCombine (s : State) (u i : Nat) : State :=
  let clr (b : Block) : Block := { b with combine := listSet b.combine i ⟨[], .none, 0⟩ }
  { s with
    blocks := s.blocks.map (fun p => if p.2.unit = u then (p.1, clr p.2) else p)
    launches := s.launches.map (fun l =>
      if l.uid = u then { l with saved := l.saved.map (fun v => { v with block := clr v.block }) } else l) }

/-- Replaces launch barrier i, and clears the combining units when a phase of it has completed. -/
def State.setLaunchBar (s : State) (u i : Nat) (old new : Barrier) : State :=
  let s1 := s.modLaunch u (fun l => { l with bars := listSet l.bars i new })
  if new.phase = old.phase then s1 else s1.clearCombine u i

/-- The block arrives at launch barrier i once every current crew of it has arrived there (R84, R87). The combined values of
blocks that used different operators have no stated result: a free value (log entry 22). A crew that attaches after its block has
arrived in a phase sets its own bit and gets a token, and its value joins no result, since the block has arrived already: the manual
does not say what becomes of it (log entry 78). -/
def State.settleCombine (s : State) (b i : Nat) : State :=
  match s.block? b with
  | none => s
  | some k =>
    let cb := listGet ⟨[], .none, 0⟩ k.combine i
    match s.launch? k.unit with
    | none => s
    | some l =>
      let lb := listGet (Barrier.start 0) l.bars i
      if cb.arrived.length = k.members ∧ 1 ≤ cb.arrived.length ∧ !lb.arrived.contains k.index then
        if cb.op ≠ .none ∧ lb.op ≠ .none ∧ cb.op ≠ lb.op then
          let (v, s1) := s.draw
          s1.setLaunchBar k.unit i lb (({ lb with acc := BitVec.ofNat 32 v }).arrive k.index .none 0)
        else s.setLaunchBar k.unit i lb (lb.arriveBlock k.index cb.op cb.acc)
      else s

/-- Applies settleCombine to every launch barrier of a block. -/
def State.settleCombines (s : State) (b : Nat) : State :=
  match s.block? b with
  | none => s
  | some k => (List.range k.combine.length).foldl (fun s i => s.settleCombine b i) s

/-- A crew departs the barriers of its block and cluster, and the combining count of its block (R92). A crew that never
attached belongs to none (R91). -/
def State.departBarriers (s : State) (b k : Nat) : State :=
  match s.block? b with
  | none => s
  | some bl =>
    let me := memberNo (s.rankOf bl) k
    let s1 := s.modBlock b (fun x =>
      { x with
        bars := x.bars.map (fun y => y.depart (memberNo 0 k))
        combine := x.combine.map (fun y => { y with arrived := y.arrived.filter (fun j => j != k) })
        members := x.members - 1 })
    let s2 := s1.modCluster bl.cluster (fun x => { x with bars := x.bars.map (fun y => y.depart me) })
    s2.settleCombines b

/-- A block that ends departs its launch barriers (R84). -/
def State.departLaunchBars (s : State) (u index : Nat) : State :=
  match s.launch? u with
  | none => s
  | some l => (List.range l.bars.length).foldl (fun s i =>
      match s.launch? u with
      | none => s
      | some l =>
        let lb := listGet (Barrier.start 0) l.bars i
        s.setLaunchBar u i lb (lb.depart index)) s

end Sys2Proof.Machine
end

