-- ==== Sys2Proof/Machine/Units.lean ====
section
/-!
DEFINITION. Completion counters (R108, R109), stopping and cancel (R111 to R113), and the end of crews, blocks and clusters
(R66, R84, R92, R100, R101, R213).
-/

namespace Sys2Proof.Machine

/-- The STATE code of a counter word (R109). -/
def UState.code : UState → Nat
  | .pending => 1 | .running => 2 | .done => 3 | .error => 4 | .cancelling => 5 | .cancelled => 6

/-- The counter word of a unit (R109). -/
def CUnit.word (u : CUnit) : W64 := BitVec.ofNat 64 ((u.out % 2 ^ 32) * 2 ^ 32 + (u.cause % 256) * 2 ^ 16 + u.state.code)

/-- A unit that has neither completed nor been cancelled. -/
def CUnit.unfinished (u : CUnit) : Bool := u.state == .pending || u.state == .running || u.state == .cancelling

/-- A unit that may still take children. -/
def CUnit.live (u : CUnit) : Bool := u.state == .pending || u.state == .running

/-- Every child has completed and no further child can be added (R108). -/
def CUnit.whole (u : CUnit) : Bool := u.out == 0 && (u.level != .job || u.closed)

/-- Posts a unit's counter word to the bell word that its packet named (R125). -/
def State.noteUnit (s : State) (u : CUnit) : State :=
  match u.note with | some b => s.notePost b u.word | none => s

/-- The descendants of a unit: the units whose parent is in the list, level by level. -/
def State.below (s : State) : Nat → List Nat → List Nat
  | 0, _ => []
  | n + 1, us =>
    let kids := (s.units.filter (fun x => match x.parent with | some p => us.contains p | none => false)).map (·.uid)
    if kids.isEmpty then [] else kids ++ s.below n kids

/-- Drops the counters and launches below a unit that has completed (R108, Retention; R100 returns their bitmaps). -/
def State.dropBelow (s : State) (u : Nat) : State :=
  let gone := s.below 4 [u]
  if gone.isEmpty then s
  else
    { s with units := s.units.filter (fun x => !gone.contains x.uid)
             launches := s.launches.filter (fun x => !gone.contains x.uid) }

/-- A unit leaves its pending state when its first child starts, and its parent with it (R109). -/
def State.startUnit : Nat → State → Nat → State
  | 0, s, _ => s
  | n + 1, s, u =>
    match s.unit? u with
    | none => s
    | some x =>
      if x.state = .pending then
        let s1 := s.modUnit u (fun x => { x with state := .running })
        match x.parent with | some p => State.startUnit n s1 p | none => s1
      else s

/-- The launch that a launch depends on (R100): that of the same graph, submitted earlier, with TRACK = 1 and LID = PLID; of several the
last (log entry 100). -/
def State.producer (s : State) (l : Launch) : Option Launch :=
  let g := (s.unit? l.uid).bind (·.parent)
  (s.launches.filter (fun x => x.lr.lid == l.lr.plid && x.lr.track && decide (x.uid < l.uid) &&
    ((s.unit? x.uid).bind (·.parent) == g))).getLast?

/-- Stops a launch's work (R111): its unplaced blocks are dropped, its crews stop at their next boundary, its claims, shrink
requests and arrivals at a latch are withdrawn, and its save areas return. Its tile instructions take no further step. -/
def State.stopWork (s : State) (u : Nat) : State :=
  let mine (c : CrewRef) : Bool := match s.blockOf c with | some b => b.unit == u | none => false
  let saved := match s.launch? u with | some l => l.saved | none => []
  let areas := saved.map (·.area) ++
    (s.blocks.filter (fun p => p.2.unit == u && p.2.saving && !saved.any (fun v => v.bid == p.1))).map (fun p => p.2.area)
  let world := match s.launch? u with | some l => l.lr.world | none => false
  let gone (b : Nat) : Bool := match s.block? b with | some x => x.unit == u | none => false
  { s with
    crews := s.crews.map (fun p => if mine p.1 then (p.1, { p.2 with stopping := true }) else p)
    blocks := s.blocks.map (fun p => if p.2.unit = u then (p.1, { p.2 with shrink := false, saving := false }) else p)
    cores := s.cores.map (fun k =>
      { k with
        claims := k.claims.filter (fun c => !mine c.crew)
        shrink := match k.shrink with | some h => (if gone h.block then none else some h) | none => none
        mos := k.mos.map (fun e => if mine e.crew && e.joint.isNone then { e with arrived := none } else e) })
    launches := s.launches.map (fun l => if l.uid = u then { l with saved := [], chosen := [] } else l)
    saves := if world then { s.saves with free1 := s.saves.free1 ++ areas } else { s.saves with free0 := s.saves.free0 ++ areas } }

/-- Puts a unit into STATE 5 with a cause and stops its work; one that leaves its pending state starts its parent (R109). -/
def State.cancelOne (s : State) (cause : Nat) (u : Nat) : State :=
  match s.unit? u with
  | none => s
  | some x =>
    if x.live then
      let s0 := if x.state = .pending then (match x.parent with | some p => State.startUnit 4 s p | none => s) else s
      let s1 := s0.modUnit u (fun x => { x with state := .cancelling, cause := cause })
      if x.level = .lch then s1.stopWork u else s1
    else s

/-- Cancels a unit and each of its descendants (R110, R111). -/
def State.cancelUnit (s : State) (cause : Nat) (u : Nat) : State :=
  (u :: s.below 4 [u]).foldl (fun s x => s.cancelOne cause x) s

/-- Stops a launch that is to complete with error (R98, R314, R317, R324): STATE 4 follows when its work has stopped. -/
def State.failLaunch (s : State) (cause : Nat) (u : Nat) : State :=
  match s.unit? u, s.launch? u with
  | some x, some l =>
    if x.live ∧ l.stop = none then (s.modLaunch u (fun l => { l with stop := some cause })).stopWork u else s
  | _, _ => s

/-- A launch that completed with error or was cancelled cancels its consumers with DEPCAN (R113). -/
def State.failConsumers (s : State) (u : Nat) : State :=
  let consumers := s.launches.filter (fun l =>
    l.lr.map != 0 && (match s.producer l with | some p => p.uid == u | none => false))
  consumers.foldl (fun s l => s.cancelOne cDEPCAN l.uid) s

/-- A child of a unit has completed, with error or not; the unit completes with its last child, and then its parent's count
falls (R108). A cancelling unit only counts. -/
def State.childDone : Nat → State → Nat → Option Nat → State
  | 0, s, _, _ => s
  | n + 1, s, u, err =>
    match s.unit? u with
    | none => s
    | some x =>
      let x1 : CUnit := { x with out := x.out - 1, failed := (match x.failed with | some c => some c | none => err) }
      if x1.live ∧ x1.whole then
        let x2 : CUnit := match x1.failed with
          | some c => { x1 with state := .error, cause := c }
          | none => { x1 with state := .done }
        let s1 := ((s.modUnit u (fun _ => x2)).dropBelow u).noteUnit x2
        let s2 := if x2.level = .lch ∧ x2.failed ≠ none then s1.failConsumers u else s1
        match x2.parent with
        | some p => State.childDone n s2 p x2.failed
        | none => s2
      else
        let s1 := s.modUnit u (fun _ => x1)
        if x1.state = .pending then State.startUnit n s1 u else s1

/-- A unit that has stopped reaches STATE 6, or STATE 4 for a launch stopped with an error, and its parent's count falls
(R111). A parent that is not itself cancelled completes with the child's cause as an error (R108). A unit that ends cancelled ends the
retention of its children's counters as a completed one does (log entry 79), and posts its NOTE (log entry 82). -/
def State.finishUnit (s : State) (u : Nat) (st : UState) (cause : Nat) : State :=
  match s.unit? u with
  | none => s
  | some x =>
    let x1 : CUnit := { x with state := st, cause := cause }
    let s1 := ((s.modUnit u (fun _ => x1)).dropBelow u).noteUnit x1
    let s2 := if x1.level = .lch then s1.failConsumers u else s1
    match x1.parent with
    | some p => State.childDone 4 s2 p (some cause)
    | none => s2

/-! ### The end of crews, blocks and clusters -/

/-- Releases a context that a crew holds (R213). -/
def State.releaseCtx (s : State) (c : CrewRef) : State :=
  let free (x : Ctx) : Ctx := if x.holder = some c then { x with holder := none } else x
  { s with cores := s.cores.map (fun k => { k with ctxs := k.ctxs.map free }) }

/-- Removes a resident block: its chunks, slots and barriers return, and its scratchpad is kept while its cluster lasts (R66). -/
def State.removeBlock (s : State) (b : Nat) : State :=
  match s.block? b with
  | none => s
  | some k =>
    let rank := s.rankOf k
    let s1 : State := { s with blocks := assocDel s.blocks b }
    let s2 := s1.modCluster k.cluster (fun c => { c with
      ended := assocPut c.ended rank k.spad, seats := assocPut c.seats rank k.core })
    let s3 : State := { s2 with cores := s2.cores.map (fun c =>
      { c with shrink := match c.shrink with | some h => (if h.block = b then none else some h) | none => none }) }
    if s3.blocks.any (fun p => p.2.cluster == k.cluster) ||
       s3.launches.any (fun l => l.saved.any (fun v => v.block.cluster == k.cluster)) then s3
    else { s3 with clusters := assocDel s3.clusters k.cluster }

/-- A block ends with its last crew (R66, R84, R100, R101, R108): it departs its launch barriers, sets its completion bit, and
counts toward its launch. -/
def State.endBlock (s : State) (b : Nat) : State :=
  match s.block? b with
  | none => s
  | some k =>
    let s1 := s.departLaunchBars k.unit k.index
    let s2 := s1.modLaunch k.unit (fun l =>
      { l with blocks := sparseSet .waiting l.blocks k.index .ended
               bitmap := l.bitmap.map (fun m => sparseSet false m k.index true) })
    State.childDone 4 (s2.removeBlock b) k.unit none

/-- The crew's slot, groups and context return; the block ends with its last crew (R66, R92). -/
def State.dropMember (s : State) (c : CrewRef) : State :=
  let s1 := (s.releaseCtx c).dropCrew c
  match c with
  | .ctl _ => s1
  | .blk b _ => if (s1.crewsOf b).isEmpty then s1.endBlock b else s1

/-- A participant that departs breaks a REORD that is gathering, when it has not issued (R93). -/
def State.breakGather (s : State) (b k : Nat) : State :=
  s.modBlock b (fun x =>
    { x with gather := x.gather.map (fun g =>
        if g.members.contains k && !(g.issued.any (fun a => a.crew == k)) then { g with broken := true } else g) })

/-- The end of a crew by HALT or DETACH (R66, R92): it departs its barriers, then its slot, groups and context return. -/
def State.endCrew (s : State) (c : CrewRef) : State :=
  match c, s.crew? c with
  | .blk b k, some x =>
    let s1 := s.breakGather b k
    let s2 := if x.growth then s1 else s1.departBarriers b k
    let s3 := if x.leave = .detach then
        let s' := s2.modBlock b (fun y => { y with departing := y.departing - 1, shrink := false })
        { s' with cores := s'.cores.map (fun k =>
          { k with shrink := match k.shrink with | some h => (if h.block = b then none else some h) | none => none }) }
      else s2
    s3.dropMember c
  | _, _ => s

end Sys2Proof.Machine
end

