-- ==== Sys2Proof/Machine/Flags.lean ====
section
/-!
DEFINITION. The sticky flags of a crew (R176, R187): raising them, and the flag of a reserved code that is read (R177).
-/

namespace Sys2Proof.Machine

/-- sticky of R64: sets flags of the crew; a flag once set stays set (R176). -/
def Crew.sticky (k : Crew) (f : Flags) : Crew := { k with flags := k.flags ||| f }

/-- A write of FLAGS replaces all six (R187, R315). -/
def Crew.setFlags (k : Crew) (v : W64) : Crew := { k with flags := BitVec.ofNat 6 v.toNat }

/-- RSVD when a reserved code has been read (R177). -/
def rsvdIf (b : Bool) : Flags := if b then flagRSVD else 0

/-- NV when an operation is invalid. -/
def nvIf (b : Bool) : Flags := if b then flagNV else 0

/-- The union of the flags of several roundings. -/
def flagsOf (l : List Flags) : Flags := l.foldl (fun a b => a ||| b) 0

/-- Sets sticky flags of a crew, if it exists. -/
def State.sticky (s : State) (c : CrewRef) (f : Flags) : State := s.modCrew c (fun k => k.sticky f)

end Sys2Proof.Machine
end

