-- ==== Sys2Proof/Machine/Operands.lean ====
section
/-!
DEFINITION. The operand forms: scalar register codes and special registers (R38, R39), the supervisor bank (R313), condition
registers, vector registers, pairs and predicates, run constants and immediates (R42 to R44), format slots (R174).
-/

namespace Sys2Proof.Machine

/-! ### Scalar registers -/

/-- The block of a crew, and zero values for the control crew. -/
def State.blockD (s : State) (c : CrewRef) : Block := (s.blockOf c).getD default

/-- sr.runs of the slots that the crew acts on (R39, R69, R313). -/
def Crew.runsWord (k : Crew) : Nat :=
  b2n (k.slots.any (fun r => r.state == .executing)) + 2 * b2n (k.slots.any (fun r => r.state == .queued))

/-- The special registers (R39) that describe the crew's block and launch; they read 0 in the control crew. -/
def State.specialOf (s : State) (c : CrewRef) (k : Crew) (code : Nat) : Nat :=
  let b := s.blockD c
  let l := s.recOf c
  match code with
  | 97 => c.index
  | 98 => s.rankOf b
  | 99 => b.index
  | 100 => l.lid.toNat
  | 104 => b2n b.shrink
  | 105 => k.grant.toNat
  | 106 => k.groups
  | 107 => b.members
  | 108 => b.index % l.gx
  | 109 => b.index / l.gx % l.gy
  | 110 => b.index / l.gx / l.gy
  | 111 => l.gx
  | 112 => l.gy
  | 113 => l.gz
  | 114 => b.index / l.csize
  | 115 => l.csize
  | 116 => (s.idAbove c .gph).toNat
  | 117 => (s.idAbove c .phs).toNat
  | 118 => (s.idAbove c .job).toNat
  | 122 => k.runsWord
  | 123 => l.prio
  | _ => 0

/-- A special register (R39). -/
def State.special (s : State) (c : CrewRef) (k : Crew) (code : Nat) : W64 :=
  BitVec.ofNat 64 (match code with
    | 101 => s.coreOf c
    | 102 => s.dieOf c
    | 103 => s.cclk (s.dieOf c)
    | 119 => k.flags.toNat
    | 120 => b2n (s.worldOf c)
    | 121 => k.pc.toNat
    | _ => if c.isCtl then 0 else s.specialOf c k code)

/-- s[i] for i below 96: while H = 1, codes 80 to 95 name the supervisor bank (R313). -/
def Crew.sreg (k : Crew) (i : Nat) : W64 :=
  if k.h && decide (80 ≤ i) then sparseGet 0 k.bank (i - 80) else sparseGet 0 k.s i

/-- Writes s[i], in the bank for codes 80 to 95 when inH is set. -/
def Crew.putSreg (k : Crew) (inH : Bool) (i : Nat) (v : W64) : Crew :=
  if inH && decide (80 ≤ i) then { k with bank := sparseSet 0 k.bank (i - 80) v } else { k with s := sparseSet 0 k.s i v }

/-- sread of R64. -/
def State.sread (s : State) (c : CrewRef) (k : Crew) (code : BitVec 7) : W64 :=
  if code.toNat < 96 then k.sreg code.toNat else s.special c k code.toNat

/-- swrite of R64: code 96 discards the value. -/
def Crew.swrite (k : Crew) (code : BitVec 7) (v : W64) : Crew :=
  if code.toNat < 96 then k.putSreg k.h code.toNat v else k

/-- qread of R64. -/
def Crew.qread (k : Crew) (i : BitVec 3) : Bool := k.q.toNat.testBit i.toNat

/-- qwrite of R64. -/
def Crew.qwrite (k : Crew) (i : BitVec 3) (b : Bool) : Crew :=
  { k with q := if b then k.q ||| BitVec.twoPow 8 i.toNat else k.q &&& ~~~ BitVec.twoPow 8 i.toNat }

/-! ### Vector registers and predicates -/

/-- vread of R64. -/
def Crew.vread (k : Crew) (l n : Nat) : W32 := sparseGet 0 k.v (32 * n + l)

/-- vwrite of R64. -/
def Crew.vwrite (k : Crew) (l n : Nat) (v : W32) : Crew := { k with v := sparseSet 0 k.v (32 * n + l) v }

/-- vread64 of R64. -/
def Crew.vread64 (k : Crew) (l n : Nat) : W64 := (k.vread l (n + 1)).append (k.vread l n)

/-- vwrite64 of R64. -/
def Crew.vwrite64 (k : Crew) (l n : Nat) (v : W64) : Crew :=
  (k.vwrite l n (v.setWidth 32)).vwrite l (n + 1) ((v >>> 32).setWidth 32)

/-- The 32 bits of a predicate. -/
def Crew.pmask (k : Crew) (i : Nat) : W32 := sparseGet 0 k.p i

/-- pread of R64. -/
def Crew.pread (k : Crew) (l i : Nat) : Bool := (k.pmask i).toNat.testBit l

/-- Replaces the bits of a predicate in the lanes of a mask. -/
def Crew.pput (k : Crew) (i : Nat) (mask bits : W32) : Crew :=
  { k with p := sparseSet 0 k.p i ((k.pmask i &&& ~~~ mask) ||| (bits &&& mask)) }

/-- pwrite of R64. -/
def Crew.pwrite (k : Crew) (l i : Nat) (b : Bool) : Crew :=
  k.pput i (BitVec.twoPow 32 l) (if b then 0xFFFFFFFF else 0)

/-- The lanes that pass a guard, as a mask (R42). -/
def Crew.guardMask (k : Crew) (g : Guard) : W32 :=
  if g.en then (if g.neg then ~~~ k.pmask g.p.toNat else k.pmask g.p.toNat) else 0xFFFFFFFF

/-! ### Operands of lane instructions (R43, R44) -/

/-- A run constant. -/
def Run.const (r : Run) (i : BitVec 5) : W64 := sparseGet 0 r.consts i.toNat

/-- opa(l) as a 32-bit operand. -/
def srcA32 (k : Crew) (r : Run) (a : SrcA) (l : Nat) : W32 :=
  match a with | .reg v => k.vread l v.toNat | .const i => (r.const i).setWidth 32

/-- opa(l) as a 64-bit operand. -/
def srcA64 (k : Crew) (r : Run) (a : SrcA) (l : Nat) : W64 :=
  match a with | .reg v => k.vread64 l v.toNat | .const i => r.const i

/-- opb(l) as a 32-bit operand. -/
def srcB32 (k : Crew) (b : SrcB) (l : Nat) : W32 :=
  match b with | .reg v => k.vread l v.toNat | .imm w => w

/-- opb(l) as a 64-bit operand: an immediate is sign-extended for a signed type and zero-extended for an unsigned one (R193). -/
def srcB64 (k : Crew) (signed : Bool) (b : SrcB) (l : Nat) : W64 :=
  match b with
  | .reg v => k.vread64 l v.toNat
  | .imm w => if signed then w.signExtend 64 else w.setWidth 64

end Sys2Proof.Machine

namespace Sys2Proof

/-- The vector registers that a first source names; a pair names two (R70). -/
def SrcA.named (pair : Bool) : SrcA → List Nat
  | .reg v => if pair then [v.toNat, v.toNat + 1] else [v.toNat]
  | .const _ => []

/-- The vector registers that a second source names. -/
def SrcB.named (pair : Bool) : SrcB → List Nat
  | .reg v => if pair then [v.toNat, v.toNat + 1] else [v.toNat]
  | .imm _ => []

end Sys2Proof

namespace Sys2Proof.Machine

/-- The vector registers that a register field names. -/
def vNamed (pair : Bool) (v : BitVec 9) : List Nat := if pair then [v.toNat, v.toNat + 1] else [v.toNat]

/-! ### Immediates (R40) -/

/-- imm10, sign-extended to 64 bits. -/
def imm10S (i : BitVec 10) : W64 := i.signExtend 64

/-- imm17, sign-extended to 64 bits. -/
def imm17S (i : BitVec 17) : W64 := i.signExtend 64

/-- A code address with n added to its offset modulo 2^16; the overlay stays (code_addr of R64). -/
def codeAdd (pc : CodeAddr) (n : Int) : CodeAddr :=
  BitVec.ofNat 24 (pc.toNat / 65536 * 65536 + wrapN 16 ((pc.toNat % 65536 : Nat) + n))

/-- A lane offset within the overlay of a code address. -/
def codeIn (pc : CodeAddr) (off : Nat) : CodeAddr := BitVec.ofNat 24 (pc.toNat / 65536 * 65536 + off % 65536)

end Sys2Proof.Machine
end

