-- ==== Sys2Proof/Machine/Ops.lean ====
section
/-!
DEFINITION. The shared operations of every meaning: instruction stores and fetch (R52 to R57, R313), targets (R53, R54),
issuing and the switch marker (R46, R47), taking a trap (R312 to R315), the return from one (R319), the start of a crew
(R105, R314), and the start and end of runs (R69 to R71, R79).
-/

namespace Sys2Proof

/-- The tile instructions, which the MOS queue takes (R114). -/
def Instr.isTile : Instr → Bool
  | .tld _ | .tst _ | .tgath _ | .tscat _ | .tred _ | .ovload _ | .wloadImg _ | .wloadTile _ | .mma _ | .mxpop _ | .mdist _
  | .msmax _ | .mnorm _ | .mmerge _ | .mdrain _ | .mzeroAcq _ | .mzeroClr _ | .mzeroRel _ => true
  | _ => false

/-- Instructions that may stall before they have an effect, for a page that migrates, a link, a full queue of posts or a full MOS queue
(R114, R129, R252, R301), and that are no waiting instructions (R65): memory, tile and serving instructions. A stalled one has been
fetched, and completes whatever becomes of its overlay (R56). -/
def Instr.stalls (i : Instr) : Bool :=
  i.isTile || match i with
  | .sldU8 _ | .sldU16 _ | .sldU32 _ | .sld64 _ | .sldI8 _ | .sldI16 _ | .sldI32 _ | .sst8 _ | .sst16 _ | .sst32 _ | .sst64 _ => true
  | .satomAdd32 _ | .satomAnd32 _ | .satomOr32 _ | .satomXor32 _ | .satomMin32 _ | .satomMax32 _ | .satomMinu32 _ | .satomMaxu32 _
  | .satomAdd64 _ | .satomAnd64 _ | .satomOr64 _ | .satomXor64 _ | .satomMin64 _ | .satomMax64 _ | .satomMinu64 _ | .satomMaxu64 _
  | .satomXchg32 _ | .satomCas32 _ | .satomFadd32 _ | .satomIncw32 _ | .satomBfadd32 _
  | .satomXchg64 _ | .satomCas64 _ | .satomIncw64 _ | .satomBfadd64 _ => true
  | .sqadmit _ | .sqnext _ | .sqret _ | .pgalloc _ | .pgref _ | .pgdrop _ | .pgfork _ | .pgmove _ | .pgsend _
  | .sieveArm _ | .sieveRead _ | .sieveDisarm _ | .sampleDraw _ | .sampleVfy _ => true
  | .ld _ | .st _ | .atom _ => true
  | _ => false

end Sys2Proof

namespace Sys2Proof.Machine

/-- What a meaning answers. -/
abbrev Out := Host.Outcome State Fault Refusal

/-! ### Instruction stores (R20, R52 to R57, R313) -/

/-- The tag under which a crew's overlay must be held (R57). -/
def State.ovTag (s : State) (c : CrewRef) (ov : Nat) : OvTag :=
  ⟨ov, match c with | .ctl d => (s.ctl d).table | .blk _ _ => (s.recOf c).ovtab, s.asidOf c, s.worldOf c⟩

/-- The overlay slots that a crew fetches from. -/
def State.slotsOf (s : State) (c : CrewRef) : List OvSlot :=
  match c with | .ctl d => (s.ctl d).slots | .blk _ _ => (s.core (s.coreOf c)).slots

/-- Replaces the overlay slots of a crew's store. -/
def State.putSlots (s : State) (c : CrewRef) (l : List OvSlot) : State :=
  match c with
  | .ctl d => s.putCtl d { s.ctl d with slots := l }
  | .blk _ _ => s.putCore (s.coreOf c) { s.core (s.coreOf c) with slots := l }

/-- The image of an overlay that is resident for the crew: the supervisor image in a handler of an ordinary crew, whatever the
overlay field (R313), else a slot under the crew's own tag (R57). -/
def State.image? (s : State) (c : CrewRef) (k : Crew) (ov : Nat) : Option (Sparse Byte) :=
  if k.h && !c.isCtl then
    (if s.sup.valid && !s.sup.lost.contains (s.coreOf c) then some s.sup.image else none)
  else ((s.slotsOf c).find? (fun x => x.resident && x.tag == some (s.ovTag c ov))).map (·.image)

/-- An n-byte field of an image at a byte offset. -/
def imageField (m : Sparse Byte) (off n : Nat) : Nat := ofBytes (sparseRead 0 m off n)

/-- SCOFF, SCLEN, LNOFF and LNLEN of an image's header (R55). -/
def imageSc (m : Sparse Byte) : Nat × Nat := (imageField m 8 2, imageField m 10 2)
def imageLn (m : Sparse Byte) : Nat × Nat := (imageField m 12 2, imageField m 14 2)

/-- A byte offset is an instruction position of a section that starts at `o`, is `len` bytes long and holds words of n bytes. -/
def inSection (sec : Nat × Nat) (n off : Nat) : Bool :=
  decide (sec.1 ≤ off) && decide (off + n ≤ sec.1 + sec.2) && (off - sec.1) % n == 0

/-- Fetch of a scalar word (R52 checks 1 and 2). -/
def State.fetchScalar (s : State) (c : CrewRef) (k : Crew) : Except Nat W32 :=
  match s.image? c k (k.pc.toNat / 65536) with
  | none => .error cOVLMISS
  | some m =>
    let off := k.pc.toNat % 65536
    if inSection (imageSc m) 4 off then .ok (BitVec.ofNat 32 (imageField m off 4)) else .error cBADTGT

/-- Fetch of a lane word (R52 checks 1 and 2). -/
def State.fetchLane (s : State) (c : CrewRef) (k : Crew) (pc : CodeAddr) : Except Nat (W32 × W32 × W32) :=
  match s.image? c k (pc.toNat / 65536) with
  | none => .error cOVLMISS
  | some m =>
    let off := pc.toNat % 65536
    if inSection (imageLn m) 12 off then
      .ok (BitVec.ofNat 32 (imageField m off 4), BitVec.ofNat 32 (imageField m (off + 4) 4),
           BitVec.ofNat 32 (imageField m (off + 8) 4))
    else .error cBADTGT

/-- A valid scalar target (R53): the section test is deferred while the overlay is not resident. -/
def State.scalarTarget (s : State) (c : CrewRef) (k : Crew) (t : W64) : Bool :=
  decide (t.toNat < 2 ^ 24) && t.toNat % 4 == 0 &&
  (match s.image? c k (t.toNat / 65536) with
   | none => true
   | some m => inSection (imageSc m) 4 (t.toNat % 65536))

/-- A valid lane target (R53); without its section's start a lane target must be a multiple of 4. -/
def State.laneTarget (s : State) (c : CrewRef) (k : Crew) (t : W64) : Bool :=
  decide (t.toNat < 2 ^ 24) &&
  (match s.image? c k (t.toNat / 65536) with
   | none => t.toNat % 4 == 0
   | some m => inSection (imageLn m) 12 (t.toNat % 65536))

/-! ### Issuing and the switch marker (R46, R47) -/

/-- The outstanding destinations of the scalar stream; in a handler, those that issued in it. -/
def Crew.scalarOut (k : Crew) : List Pending := k.out.filter (fun e => e.owner == .scalar && (!k.h || e.inH))

/-- Slice i has an outstanding destination. -/
def Crew.sliceOut (k : Crew) (i : Nat) : Bool := k.out.any (fun e => e.owner == .slice i)

/-- The MEMERRs that the scalar stream may take now: one met before the handler waits until the handler has ended. -/
def Crew.scalarErr (k : Crew) : List MemErr := k.memerr.filter (fun e => !k.h || e.inH)

/-- The runs of a crew: those of its run slots, and its handler's. -/
def Crew.allRuns (k : Crew) : List Run := k.runs ++ k.hrun.toList

/-- Some stream of the crew has a MEMERR that it has not taken (R256). -/
def Crew.anyErr (k : Crew) : Bool :=
  !k.memerr.isEmpty || k.allRuns.any (fun r => r.slices.any (fun x => x.live && !x.memerr.isEmpty))

/-- The switch marker of the last scalar instruction, of the handler or outside it. -/
def Crew.parked (k : Crew) : Bool := if k.h then k.parkH else k.park

/-- A scalar instruction has issued: the stream parks when it was marked (R47). -/
def Crew.issued (k : Crew) (sw : Bool) : Crew :=
  if k.h then { k with parkH := sw, wait := false } else { k with park := sw, wait := false }

/-- The next scalar instruction. -/
def Crew.next (k : Crew) (sw : Bool) : Crew := { k.issued sw with pc := codeAdd k.pc 4 }

/-- The scalar thread is blocked in a waiting instruction (R65): not merely stalled in one that has had no effect yet. -/
def Crew.blocked (k : Crew) : Bool :=
  k.wait && !(match k.word with
    | some (_, w) => (match decodeScalar w with | some i => i.stalls | none => false)
    | none => false)

/-- A slice is blocked in a waiting instruction (R65). -/
def Slice.blocked (x : Slice) : Bool :=
  x.wait && !(match x.word with
    | some (_, a, b, d) => (match decodeLane a b d with | some i => i.stalls | none => false)
    | none => false)

/-- A scalar transfer of control. -/
def Crew.jump (k : Crew) (sw : Bool) (t : CodeAddr) : Crew := { k.issued sw with pc := t }

/-- A scalar instruction that waits: it has had no effect and is issued again (R65). -/
def State.waitScalar (s : State) (c : CrewRef) : State := s.modCrew c (fun k => { k with wait := true })

/-- Outstanding destinations of the scalar stream of crew k that are written with a delay (R46); the limit of R36 on memory requests counts
nothing here (log entry 98). -/
def Crew.pend (k : Crew) (dest : Dest) (val : Option Nat) (flags : Flags) (tag : Nat) : Crew :=
  { k with out := k.out ++ [⟨.scalar, k.h, dest, val, flags, tag⟩] }

/-- A variable-latency scalar result for code rd; code 96 discards it. -/
def Crew.pendS (k : Crew) (rd : BitVec 7) (v : W64) (flags : Flags) : Crew :=
  if rd.toNat < 96 then k.pend (.sreg rd.toNat) (some v.toNat) flags 0
  else { k with out := if flags = 0 then k.out else k.out ++ [⟨.scalar, k.h, .sreg 96, some v.toNat, flags, 0⟩] }

/-- A variable-latency result of a lane, one 32-bit register. -/
def Crew.pendV (k : Crew) (l n : Nat) (v : W32) (flags : Flags) : Crew :=
  { k with out := k.out ++ [⟨.slice (l / 4), k.h, .vreg (32 * n + l), some v.toNat, flags, 0⟩] }

/-! ### The start of a crew (R105, R314) -/

/-- A crew at its start (R105, R216, R313). -/
def Crew.start (unit : Nat) (pc : CodeAddr) (groups : Nat) (growth : Bool) (now : Nat) : Crew where
  unit := unit
  pc := pc
  s := []
  q := 0
  bank := []
  v := []
  p := []
  groups := groups
  flags := 0
  h := false
  tr := .zero
  ftstat := 0
  ftReq := none
  grant := 0
  gangw := 0
  ctx := none
  runs := []
  hrun := none
  out := []
  shown := []
  park := false
  parkH := false
  wait := false
  word := none
  blk := false
  unread := false
  memerr := []
  deferred := []
  trapping := none
  growth := growth
  leave := .no
  stopping := false
  age := now
  sinceS := now
  sinceL := now
  boostS := false
  boostL := false

/-- The control crew of a die stops, and its tile loads and a phase that it was forming are dropped (R314); the firmware starts it again
when it next runs (State.firmwareWork). -/
def State.stopCtl (s : State) (d : Nat) : State :=
  let slots := (s.ctl d).slots.map (fun o => if o.loading.isSome then OvSlot.empty else o)
  let s1 := s.putCtl d { s.ctl d with load := [], slots := slots }
  { s1.dropCrew (.ctl d) with fore := { s1.fore with
      ftq := s1.fore.ftq.filter (fun x => x != .ctl d)
      ctxs := listSet s1.fore.ctxs d { listGet .reset s1.fore.ctxs d with forming := none } } }

/-- The control crew of a die starts at its entry with every register zero (R280, R314). -/
def State.startCtl (s : State) (d : Nat) : State :=
  s.putCrew (.ctl d) (Crew.start 0 (s.ctl d).entry 0 false (s.cclk d))

/-! ### Taking a trap (R312 to R315) -/

/-- TVEC: the handler's entry (R313, R315). -/
def State.handlerEntry (s : State) (c : CrewRef) : CodeAddr :=
  match c with | .ctl d => (s.ctl d).tvec.setWidth 24 | .blk _ _ => s.sup.tvec.setWidth 24

/-- The trap registers of a trap (R315). -/
def trapRegs (cause num slices : Nat) (lane : Bool) (tpc tspc ipc : CodeAddr) (fmask trep : W32) (addr : W64) (st : Nat) :
    TrapRegs :=
  ⟨BitVec.ofNat 64 (cause + b2n lane * 2 ^ 8 + slices * 2 ^ 16 + num * 2 ^ 32), tpc, fmask, addr,
   BitVec.ofNat 64 (ipc.toNat + st * 2 ^ 32), trep, tspc⟩

/-- The MOS queue that holds a crew's tile instructions. -/
def State.mosOf (s : State) (c : CrewRef) : List MosEntry :=
  match c with | .ctl d => (s.ctl d).load | .blk _ _ => (s.core (s.coreOf c)).mos

/-- Replaces that queue. -/
def State.putMos (s : State) (c : CrewRef) (l : List MosEntry) : State :=
  match c with
  | .ctl d => s.putCtl d { s.ctl d with load := l }
  | .blk _ _ => s.putCore (s.coreOf c) { s.core (s.coreOf c) with mos := l }

/-- The queue that takes a crew's tile instructions has 64 entries (R114). -/
def State.mosFull (s : State) (c : CrewRef) : Bool := decide (64 ≤ (s.mosOf c).length)

/-- Two byte ranges share a byte. -/
def rangesMeet (a b : Nat × Nat) : Bool := decide (a.1 < b.2) && decide (b.1 < a.2)

/-- An entry that reads images of the weight buffer. -/
def MosEntry.isReader (e : MosEntry) : Bool := match e.instr with | .mma _ => true | .mxpop _ => true | _ => false

/-- An entry that writes the weight buffer. -/
def MosEntry.isWriter (e : MosEntry) : Bool := match e.instr with | .wloadImg _ => true | .wloadTile _ => true | _ => false

/-- A later entry touches the range of the weight buffer of an earlier one, and one of the two writes it (R218, R222). -/
def MosEntry.wbClash (a b : MosEntry) : Bool :=
  ((a.isWriter && (b.isReader || b.isWriter)) || (a.isReader && b.isWriter)) &&
  (match a.wb, b.wb with | some x, some y => rangesMeet x y | _, _ => false)

/-- Two tile instructions of one crew, the earlier first, touch the same context or overlap in scratchpad or in the weight buffer
(R218). -/
def MosEntry.clash (a b : MosEntry) : Bool :=
  (a.ctx.isSome && a.ctx == b.ctx) || a.sp.any (fun x => b.sp.any (rangesMeet x)) || a.wbClash b

/-- The place that the MOS gives a tile instruction among the readers and writers of the weight buffer (R222): by acceptance, but for a
handler's WLOAD, which may reload the image of a product of its crew that a fault holds, and takes the place just before the first such
product (R226, log entry 28). -/
def State.placeOf (s : State) (c : CrewRef) (load : Bool) : Nat :=
  let held := (s.mosOf c).filter (fun h => h.isReader && h.held && !h.inH && h.crew == c)
  if load then held.foldl (fun m h => min m (h.order - 1)) (2 * s.nextUid) else 2 * s.nextUid

/-- An earlier tile instruction of the crew that a handler's WLOAD passes: a product whose image it may reload, and what has not begun
behind that product. -/
def MosEntry.passes (e x : MosEntry) : Bool :=
  x.crew == e.crew && decide (x.uid < e.uid) && decide (e.order < x.order) && (x.held || !x.started)

/-- Walks a crew's tile instructions in issue order: those that are held, and those that cannot start their first step before a
held one goes on, because they depend on it (R218) or follow one that does (R114); true when the wanted one is among them. -/
def behindHeld (want : Nat) : List MosEntry → Bool → List MosEntry → Bool
  | _, _, [] => false
  | helds, late, e :: t =>
    if e.held then e.uid == want || behindHeld want (e :: helds) late t
    else if !e.started && (late || helds.any (fun h => h.clash e)) then e.uid == want || behindHeld want helds true t
    else behindHeld want helds late t

/-- A destination that cannot be written before ERET: its tile instruction is held by a fault, or waits behind one that is
(R352, log entry 23). -/
def State.stuck (s : State) (c : CrewRef) (e : Pending) : Bool :=
  e.val == none && behindHeld e.tag [] false ((s.mosOf c).filter (fun m => m.crew == c))

/-- Step 4 of R312: H := 1, and the scalar thread starts at TVEC. -/
def State.enterHandler (s : State) (c : CrewRef) (tr : TrapRegs) : State :=
  s.modCrew c (fun k =>
    { k with tr := tr, h := true, pc := s.handlerEntry c, trapping := none, parkH := false, wait := false })

/-- Enters the handler once every outstanding destination has been written (R48, R312 step 1). -/
def State.enterIfReady (s : State) (c : CrewRef) : State :=
  match s.crew? c with
  | none => s
  | some k =>
    match k.trapping with
    | none => s
    | some tr => if k.out.all (s.stuck c) then s.enterHandler c tr else s

/-- Withdraws a crew's claims. -/
def State.dropClaims (s : State) (c : CrewRef) : State :=
  match c with
  | .ctl _ => s
  | .blk _ _ =>
    let k := s.core (s.coreOf c)
    s.putCore (s.coreOf c) { k with claims := k.claims.filter (fun x => x.crew != c) }

/-- Withdraws a crew's REORD from a gathering (R312 step 1); a gathering that no crew has issued ends. -/
def Block.dropReord (b : Block) (j : Nat) : Block :=
  { b with gather := match b.gather with
      | none => none
      | some g =>
        let i := g.issued.filter (fun a => a.crew != j)
        if i.isEmpty then none else some { g with issued := i } }

/-- Withdraws a crew's first-touch request that the page unit has not served: its MTSR is issued again (R312 step 1, R316). -/
def State.dropTouch (s : State) (c : CrewRef) : State :=
  { s with fore := { s.fore with ftq := s.fore.ftq.filter (fun x => x != c) } }

/-- Step 1 of R312: every stream stops; a stream blocked in a waiting instruction will reissue it (R65). -/
def State.stopStreams (s : State) (c : CrewRef) : State :=
  match s.crew? c with
  | none => s
  | some k =>
    let s1 := (s.dropClaims c).dropTouch c
    let s2 : State := match c with
      | .ctl _ => s1
      | .blk b j => s1.modBlock b (fun x =>
          let y : Block := x.dropReord j
          if k.leave = .detach then { y with departing := y.departing - 1 } else y)
    s2.modCrew c (fun k =>
      { k with
        wait := false
        ftReq := none
        leave := .no
        runs := k.runs.map (fun r => { r with slices := r.slices.map (fun x => { x with wait := false }) }) })

/-- A trap raised while H = 1 (R314); the code address of the nested cause is that of the instruction that met it, as FINFO.IPC
would name it (R315). -/
def State.doubleFault (s : State) (c : CrewRef) (tr : TrapRegs) : State :=
  let s1 := s.log (tr.tcause.toNat % 256) (1 + s.dieOf c) (tr.finfo.toNat % 2 ^ 24) tr.faddr.toNat
  match c with
  | .ctl d => s1.stopCtl d
  | .blk _ _ =>
    match s1.crew? c with
    | some k => s1.failLaunch cDBLFLT k.unit
    | none => s1

/-- Taking a trap (R312): the one operation by which every trap is taken. The trapping instruction has had the effect that its
entry gives for a trap. A crew that is already taking one keeps that one. -/
def State.takeTrap (s : State) (c : CrewRef) (tr : TrapRegs) : State :=
  match s.crew? c with
  | none => s
  | some k =>
    if k.h then s.doubleFault c tr
    else
      match k.trapping with
      | some _ => s
      | none =>
        ((s.stopStreams c).modCrew c (fun x => { x with trapping := some tr, blk := k.blocked, unread := false })).enterIfReady c

/-- A precise trap of the scalar thread at its instruction (R315). -/
def State.trapAt (s : State) (c : CrewRef) (cause : Nat) (addr : W64) : State :=
  match s.crew? c with
  | none => s
  | some k => s.takeTrap c (trapRegs cause 0 0 false k.pc k.pc k.pc 0 0 addr 0)

/-- A precise trap of the scalar thread without an address. -/
def State.trap (s : State) (c : CrewRef) (cause : Nat) : State := s.trapAt c cause 0

/-- SWTRAP, BRKPT and DETMIN of the scalar thread: TPC and TSPC name the next word (R315), and the thread parks before it where the
instruction was marked (R47). -/
def State.trapNext (s : State) (c : CrewRef) (cause num : Nat) (sw : Bool) : State :=
  match s.crew? c with
  | none => s
  | some k =>
    (s.putCrew c (k.issued sw)).takeTrap c (trapRegs cause num 0 false (codeAdd k.pc 4) (codeAdd k.pc 4) k.pc 0 0 0 0)

/-! ### Scalar issue -/

/-- The crew whose scalar thread has the turn; no crew has it only when exec is applied outside a step. -/
def onScalar (s : State) (f : CrewRef → Crew → State) : Out :=
  match s.turn with
  | .scalar c =>
    match s.crew? c with
    | some k => .next (f c k)
    | none => .fault .noIssuer
  | .idle => .fault .noIssuer
  | .gang _ _ => .fault .noIssuer
  | .event _ => .fault .noIssuer
  | .frontEnd _ => .fault .noIssuer

/-- A scalar instruction other than ATTACH: a growth crew that has not attached takes ATTSEQ outside a handler (R91). -/
def scalarIns (s : State) (f : CrewRef → Crew → State) : Out :=
  onScalar s (fun c k => if k.growth && !k.h then s.trap c cATTSEQ else f c k)

/-- A scalar instruction that the control crew does not have: ILLINS (R67, R215). -/
def blockIns (s : State) (f : CrewRef → Crew → State) : Out :=
  scalarIns s (fun c k => if c.isCtl then s.trap c cILLINS else f c k)

/-- A blocking scalar instruction takes a pending MEMERR first (R256): it waits for that. -/
def State.afterErr (s : State) (c : CrewRef) (k : Crew) (next : State) : State :=
  if k.scalarErr.isEmpty then next else s.waitScalar c

/-! ### Lane issue -/

/-- A gang's turn: the crew, its executing run, the slices of the gang, the lanes that the mask stacks enable (and a replay
names, R319), every lane of the slices, the code address, and whether the guard counts: a replay does not read it again. -/
structure LaneTurn where
  c    : CrewRef
  k    : Crew
  r    : Run
  gang : List Nat
  cur  : W32
  all  : W32
  pc   : CodeAddr
  guarded : Bool
  deriving DecidableEq, Repr

/-- The lanes of some slices that cur enables. -/
def Run.curMask (r : Run) (gang : List Nat) : Nat := gang.foldl (fun m j => m ||| ((r.slice j).cur.toNat <<< (4 * j))) 0

/-- Every lane of some slices. -/
def sliceLanes (gang : List Nat) : Nat := gang.foldl (fun m j => m ||| (0xF <<< (4 * j))) 0

/-- The slice mask of a gang. -/
def LaneTurn.slices (t : LaneTurn) : Nat := listMask t.gang

/-- Slice i of a run, when it takes part and has not left. -/
def Run.laneTurn (c : CrewRef) (k : Crew) (r : Run) (i : Nat) : LaneTurn :=
  let gang := r.gangOf i
  let cur := BitVec.ofNat 32 (r.curMask gang)
  let rep := assocGet r.replay (r.slice i).gang
  ⟨c, k, r, gang,
   match rep with | some m => cur &&& m.1 | none => cur,
   BitVec.ofNat 32 (sliceLanes gang), (r.slice i).pc, match rep with | some m => m.2 | none => true⟩

/-- The lanes of a turn that an instruction with this guard executes in (R42, R319). -/
def LaneTurn.lanes (t : LaneTurn) (g : Guard) : W32 := if t.guarded then t.cur &&& t.k.guardMask g else t.cur

/-- The gang that has the turn. -/
def onGang (s : State) (f : LaneTurn → State) : Out :=
  match s.turn with
  | .gang c i =>
    match s.crew? c with
    | none => .fault .noIssuer
    | some k =>
      match k.runNow with
      | none => .fault .noIssuer
      | some r => if (r.slice i).live then .next (f (r.laneTurn c k i)) else .fault .noIssuer
  | .idle => .fault .noIssuer
  | .scalar _ => .fault .noIssuer
  | .event _ => .fault .noIssuer
  | .frontEnd _ => .fault .noIssuer

/-- A precise trap of a gang (R315): the faulter mask, the lanes to re-execute, and the address of the lowest faulting lane. -/
def State.laneTrap (s : State) (t : LaneTurn) (cause : Nat) (fmask trep : W32) (addr : W64) : State :=
  s.takeTrap t.c (trapRegs cause 0 t.slices true t.pc t.k.pc t.pc fmask trep addr 0)

/-- A lane instruction with its guard: the vector registers it names lie below the run's group limit, else REGRNG (R70), with the enabled
lanes as the faulter mask (log entry 113). -/
def laneIns (s : State) (g : Guard) (regs : List Nat) (f : LaneTurn → W32 → State) : Out :=
  onGang s (fun t =>
    let en := t.lanes g
    if regs.any (fun n => decide (8 * t.r.groups ≤ n)) then s.laneTrap t cREGRNG en en 0 else f t en)

/-- The lanes of a mask, in ascending order. -/
def lanesOf (m : W32) : List Nat := maskList 32 m.toNat

/-- Changes each slice of the gang in the crew's executing run; a replay of the gang is over (R319). -/
def LaneTurn.upd (t : LaneTurn) (k : Crew) (f : Nat → Slice → Slice) : Crew :=
  match k.runNow with
  | none => k
  | some r =>
    let g := (t.r.slice (t.gang.headD 0)).gang
    k.setRunNow { r with
      slices := (List.range 8).map (fun j => if t.gang.contains j then f j (r.slice j) else r.slice j)
      replay := assocDel r.replay g }

/-- The gang goes on to the next lane word, parking when the instruction was marked (R47). -/
def LaneTurn.next (t : LaneTurn) (sw : Bool) (k : Crew) : Crew :=
  t.upd k (fun _ x => { x with pc := codeAdd x.pc 12, park := sw, wait := false })

/-- A lane instruction that waits, without effect. -/
def LaneTurn.hold (t : LaneTurn) (k : Crew) : Crew :=
  match k.runNow with
  | none => k
  | some r => k.setRunNow { r with
      slices := (List.range 8).map (fun j => if t.gang.contains j then { r.slice j with wait := true } else r.slice j) }

/-- An instruction that is fixed-latency in the crew's lanes: it changes the crew and goes on. -/
def laneFix (s : State) (sw : Bool) (g : Guard) (regs : List Nat) (f : LaneTurn → W32 → Crew) : Out :=
  laneIns s g regs (fun t en => s.putCrew t.c (t.next sw (f t en)))

/-! ### Runs (R69 to R72, R79) -/

/-- A slice when its run starts: its four lanes enabled, an empty stack, one gang (R71); in a handler run the lanes of the
faulter mask, and a slice without one takes no part (R313). -/
def Slice.begin (pc : CodeAddr) (part : Bool) (cur : BitVec 4) (gang : Nat) : Slice :=
  ⟨part, pc, cur, [], gang, false, false, false, [], [none, none, none, none], none, 0⟩

/-- A run begins to execute. -/
def Run.begin (r : Run) (lanes : BitVec 32) (all : Bool) : Run :=
  let cur (j : Nat) : BitVec 4 := if all then 0xF else (lanes >>> (4 * j)).setWidth 4
  let part (j : Nat) : Bool := r.mask.toNat.testBit j && (cur j != 0)
  let g := ((List.range 8).find? part).getD 0
  let r1 : Run := { r with slices := (List.range 8).map (fun j => Slice.begin r.start (part j) (cur j) g), state := .executing }
  if (List.range 8).any part then r1 else { r1 with state := .ended }

/-- The result slots when a run ends: the partials of the slices, in ascending slice order (R211, R185), are combined by the
XPUT meaning; here the run only changes state, and a queued run starts in the same step (R69). -/
def startQueued : List Run → List Run
  | [] => []
  | r :: t => if r.state = .queued then r.begin 0 true :: t else r :: startQueued t

/-- Every slice of a run has left it. -/
def Run.isOver (r : Run) : Bool := r.slices.all (fun x => !x.live)

/-! ### Leaving a handler (R319) -/

/-- The weight buffer's size. -/
def wbufSize : Nat := 2097152

/-- An entry is the load of an image at an offset. -/
def MosEntry.loadsAt (e : MosEntry) (off : Nat) : Bool :=
  e.isWriter && (match e.wb with | some w => w.1 == off | none => false)

/-- An entry is a WLOAD.img whose header has not been read: its size is not known yet. -/
def MosEntry.unsized (e : MosEntry) : Bool := (match e.instr with | .wloadImg _ => true | _ => false) && e.tsr.isEmpty

/-- The range of the weight buffer that an entry may touch: of a load whose header has not been read, all from its offset on. -/
def MosEntry.span (e : MosEntry) : Option (Nat × Nat) :=
  if e.unsized then e.wb.map (fun w => (w.1, max wbufSize (w.1 + 64))) else e.wb

/-- The range of the weight buffer that a reader at an offset touches (R222): that of the image which the last load before it places
there, else of the image that lies there (Core.narrow). -/
def State.readerRange (s : State) (c : CrewRef) (off : Nat) : Nat × Nat :=
  let q := s.core (s.coreOf c)
  let last (m : Option MosEntry) (e : MosEntry) : Option MosEntry :=
    match m with | some x => if e.order < x.order then some x else some e | none => some e
  match (q.mos.filter (fun e => e.loadsAt off)).foldl last none with
  | some e => e.span.getD (off, off + 64)
  | none =>
    match q.images.find? (fun i => i.off == off) with
    | some i => (off, off + i.size)
    | none => (off, off + 64)

/-- Releases the tile instructions of a crew whose faults have been taken (R273, R352). The next step of a reader of the weight buffer
waits for fills as a first step does (R222, R226). -/
def State.releaseHeld (s : State) (c : CrewRef) : State :=
  match s.crew? c with
  | none => s
  | some k =>
    s.putMos c ((s.mosOf c).map (fun m =>
      if m.crew = c && m.held && !(k.deferred.any (fun d => d.entry == m.uid)) then
        { m with held := false, started := m.started && !m.isReader }
      else m))

/-- The return from a handler (R319), once its run slot is empty or ended: H := 0, the run slots unfreeze, the scalar thread
resumes at TSPC, parked when ERET was marked (R47), and a trapped gang at TPC with the lanes of TREP to re-execute. -/
def State.leaveHandler (s : State) (c : CrewRef) (sw : Bool) : State :=
  (s.modCrew c (fun k =>
    let k0 : Crew :=
      { k with h := false, hrun := none, pc := k.tr.tspc, park := k.park || sw, wait := false, blk := false, unread := false }
    if k.tr.tcause.toNat.testBit 8 then
      let sl := k.tr.tcause.toNat / 65536 % 256
      match k0.runNow with
      | none => k0
      | some r =>
        let lead := ((List.range 8).find? (fun j => sl.testBit j && (r.slice j).live)).getD 0
        k0.setRunNow { r with
          slices := (List.range 8).map (fun j =>
            let x := r.slice j
            if sl.testBit j && x.live then { x with pc := k.tr.tpc } else x)
          replay := if k.tr.trep = 0 then assocDel r.replay (r.slice lead).gang
            else assocPut r.replay (r.slice lead).gang (k.tr.trep, k.unread) }
    else k0)).releaseHeld c

/-- The return from an exception, whole: ILLINS with H = 0, or for a scalar trap with TPC different from TSPC; else it waits
for the handler run (R319). -/
def State.eret (s : State) (c : CrewRef) (k : Crew) (sw : Bool) : State :=
  if !k.h then s.trap c cILLINS
  else if !k.tr.tcause.toNat.testBit 8 && k.tr.tpc != k.tr.tspc then s.trap c cILLINS
  else match k.hrun with
    | some r => if r.state = .ended then s.leaveHandler c sw else s.waitScalar c
    | none => s.leaveHandler c sw

end Sys2Proof.Machine
end

