-- ==== Sys2Proof/Machine/Control.lean ====
section
/-!
DEFINITION. Scalar control transfer (R68), lane runs (R69 to R73), traps and returns (R318, R319), the end of a crew (R66,
R321), system registers (R315 to R317, R320).
-/

namespace Sys2Proof.Machine

/-! ### Scalar control transfer (R68) -/

/-- A transfer to t, or BADTGT with nothing changed; k is the crew with the registers that the transfer writes. -/
def State.goTo (s : State) (c : CrewRef) (old new : Crew) (sw : Bool) (t : W64) : State :=
  if s.scalarTarget c old t then s.putCrew c (new.jump sw (t.setWidth 24)) else s.trap c cBADTGT

/-- A branch target in words from the instruction, in the current overlay (R40, R54, R68). -/
def relTarget (pc : CodeAddr) (words : Int) : W64 := (codeAdd pc (4 * words)).setWidth 64

/-- The link: the code address of the next word (R54). -/
def linkOf (pc : CodeAddr) : W64 := (codeAdd pc 4).setWidth 64

/-- B (R68). -/
def execB (o : OpB) (s : State) : Out := scalarIns s (fun c k => s.goTo c k k o.sw (relTarget k.pc o.off.toInt))

/-- BQ (R68). -/
def execBq (o : OpBQ) (s : State) : Out :=
  scalarIns s (fun c k =>
    if k.qread o.q then s.goTo c k k o.sw (relTarget k.pc o.off.toInt) else s.putCrew c (k.next o.sw))

/-- BQ.n (R68). -/
def execBqN (o : OpBQ) (s : State) : Out :=
  scalarIns s (fun c k =>
    if k.qread o.q then s.putCrew c (k.next o.sw) else s.goTo c k k o.sw (relTarget k.pc o.off.toInt))

/-- CALL (R68): the link goes into s95. -/
def execCall (o : OpB) (s : State) : Out :=
  scalarIns s (fun c k => s.goTo c k (k.swrite 95 (linkOf k.pc)) o.sw (relTarget k.pc o.off.toInt))

/-- CALL reg (R68): the target is read before the link is written. -/
def execCallReg (o : OpA) (s : State) : Out :=
  scalarIns s (fun c k => s.goTo c k (k.swrite 95 (linkOf k.pc)) o.sw (s.sread c k o.ra))

/-- RET (R68). -/
def execRet (o : OpZ) (s : State) : Out := scalarIns s (fun c k => s.goTo c k k o.sw (s.sread c k 95))

/-- JR (R68). -/
def execJr (o : OpA) (s : State) : Out := scalarIns s (fun c k => s.goTo c k k o.sw (s.sread c k o.ra))

/-- LOOP (R68). -/
def execLoop (o : OpDL) (s : State) : Out :=
  scalarIns s (fun c k =>
    let v := s.sread c k o.rd - 1
    if v = 0 then s.putCrew c ((k.swrite o.rd 0).next o.sw)
    else s.goTo c k (k.swrite o.rd v) o.sw (relTarget k.pc o.imm.toInt))

/-- NOP (R321). -/
def execNop (o : OpZ) (s : State) : Out := scalarIns s (fun c k => s.putCrew c (k.next o.sw))

/-! ### Runs (R69 to R73) -/

/-- A run as LRUN captures it (R70). -/
def Crew.newRun (k : Crew) (mask : BitVec 8) (start : CodeAddr) : Run where
  consts := k.s.filter (fun p => decide (p.1 < 32))
  mask := mask
  groups := k.groups
  start := start
  x := [0, 0, 0, 0]
  ops := [none, none, none, none]
  state := .queued
  slices := []
  replay := []
  issues := 0

/-- Puts a run into a slot: it executes at once when no run does, else it is queued (R69, R72); a handler run goes to the
handler run slot, with the lanes of the faulter mask (R313). -/
def Crew.addRun (k : Crew) (r : Run) : Crew :=
  if k.h then { k with hrun := some (r.begin k.tr.fmask false) }
  else if k.runs.any (fun x => x.state == .executing) then { k with runs := k.runs ++ [r] }
  else { k with runs := k.runs ++ [r.begin 0 true] }

/-- The run slots the crew acts on are full: two, or the handler's one (R69, R313). -/
def Crew.slotsFull (k : Crew) : Bool := if k.h then k.hrun.isSome else decide (2 ≤ k.runs.length)

/-- LRUN after its operands are formed (R72). -/
def State.lrun (s : State) (c : CrewRef) (k : Crew) (sw : Bool) (m t : W64) : State :=
  if m = 0 ∨ 256 ≤ m.toNat then s.trap c cILLINS
  else if !s.laneTarget c k t then s.trap c cBADTGT
  else if k.slotsFull then s.trap c cRUNOVF
  else s.putCrew c ((k.addRun (k.newRun (m.setWidth 8) (t.setWidth 24))).next sw)

/-- LRUN with a label (R72). -/
def execLrun (o : OpLR) (s : State) : Out :=
  blockIns s (fun c k => s.lrun c k o.sw (o.mask.setWidth 64) ((codeIn k.pc o.off.toNat).setWidth 64))

/-- LRUN with registers (R72). -/
def execLrunReg (o : OpAB) (s : State) : Out :=
  blockIns s (fun c k => s.lrun c k o.sw (s.sread c k o.rb) (s.sread c k o.ra))

/-- The four results of a joined run (R73). -/
def Crew.joinRun (k : Crew) (rd : BitVec 7) (r : Run) : Crew :=
  let w (k : Crew) (i : Nat) : Crew := k.swrite (rd + BitVec.ofNat 7 i) ((listGet 0 r.x i).setWidth 64)
  let k1 := w (w (w (w k 0) 1) 2) 3
  if k1.h then { k1 with hrun := none } else { k1 with runs := k1.runs.drop 1 }

/-- LJOIN (R73). -/
def execLjoin (o : OpD) (s : State) : Out :=
  blockIns s (fun c k => s.afterErr c k (
    match k.slots with
    | [] => s.trap c cNORUN
    | r :: _ => if r.state = .ended then s.putCrew c ((k.joinRun o.rd r).next o.sw) else s.waitScalar c))

/-! ### Traps, returns and the end of a crew -/

/-- TRAP (R318): SWTRAP with NUM, resuming after the instruction. -/
def execTrap (o : OpN) (s : State) : Out := scalarIns s (fun c _ => s.trapNext c cSWTRAP o.num.toNat o.sw)

/-- BRK (R318): BRKPT with NUM, resuming after the instruction. -/
def execBrk (o : OpN) (s : State) : Out := scalarIns s (fun c _ => s.trapNext c cBRKPT o.num.toNat o.sw)

/-- ERET (R319). -/
def execEret (o : OpZ) (s : State) : Out := scalarIns s (fun c k => s.eret c k o.sw)

/-- The instructions of a crew that its MOS queue holds because of a fault are discarded (R352); a discarded copy leaves its
chunks failed (log entry 26). -/
def State.dropHeld (s : State) (c : CrewRef) : State :=
  let gone := (s.mosOf c).filter (fun m => m.crew == c && m.held)
  let lost (u : Nat) : Bool := gone.any (fun m => m.uid == u)
  let s1 := s.putMos c ((s.mosOf c).filter (fun m => !(m.crew == c && m.held)))
  let s2 := s1.putSlots c ((s1.slotsOf c).map (fun o => match o.loading with | some u => (if lost u then .empty else o) | none => o))
  let q := s2.core (s2.coreOf c)
  let s3 : State := match c with
    | .ctl _ => s2
    | .blk _ _ => s2.putCore (s2.coreOf c) { q with filling := q.filling.filter (fun f => !lost f.2.2) }
  gone.foldl (fun s m => m.chunks.foldl (fun s x =>
    s.modBlock x.1 (fun b =>
      if sparseGet .idle b.chunks x.2 = .engaged m.uid then { b with chunks := sparseSet .idle b.chunks x.2 (.failed m.ipc m.step m.addr) } else b)) s) s3

/-- Every run of the slots that HALT waits for has ended: the crew's runs, or in a handler its handler run (R66). -/
def Crew.runsOver (k : Crew) : Bool := k.slots.all (fun r => r.state == .ended)

/-- The messages of a crew pass to and from the barrier units of a level that its launch declares (R29, R84, R105, R301): those of its block
sit in its core, those of its cluster and its launch on a die (log entry 119). -/
def State.barWay (s : State) (c : CrewRef) (lev : Nat) : Bool :=
  let b := s.blockD c
  match lev with
  | 0 => true
  | 1 => (match s.cluster? b.cluster with | some x => x.bars.isEmpty || s.wayOpen (s.seat c) (1 + x.die) | none => true)
  | _ => (match s.launch? b.unit with | some l => l.bars.isEmpty || s.wayOpen (s.seat c) (1 + l.die) | none => true)

/-- A crew that leaves: it waits for its destinations, its runs, its tile instructions and the way to its barriers, and then ends (R66,
R92, R213). -/
def State.leaveCrew (s : State) (c : CrewRef) (how : Leave) (ended : Bool) : State :=
  let s1 := s.modCrew c (fun k => { k with leave := how })
  match s1.crew? c with
  | none => s1
  | some k =>
    if ended && s.barWay c 1 && s.barWay c 2 && k.scalarOut.isEmpty && (s1.mosOf c).all (fun m => m.crew != c) then s1.endCrew c
    else s1.waitScalar c

/-- HALT (R66, R321): in a handler it discards the frozen runs and the held tile instructions; the control crew restarts. -/
def execHalt (_ : OpZ) (s : State) : Out :=
  scalarIns s (fun c k =>
    match c with
    | .ctl d => s.stopCtl d
    | .blk _ _ => s.afterErr c k ((if k.h then s.dropHeld c else s).leaveCrew c .halt k.runsOver))

/-! ### System registers (R315 to R317, R320) -/

/-- The system registers (R315). -/
inductive SysReg
  | tcause | tpc | fmask | faddr | finfo | trep | tspc | flags | mode | ftmap | ftstat | lfail | tvec
  deriving DecidableEq, Repr

/-- The register map. -/
def sysReg? (n : Nat) : Option SysReg :=
  match n with
  | 0 => some .tcause | 1 => some .tpc | 2 => some .fmask | 3 => some .faddr | 4 => some .finfo | 5 => some .trep
  | 6 => some .tspc | 8 => some .flags | 9 => some .mode | 10 => some .ftmap | 11 => some .ftstat | 12 => some .lfail
  | 13 => some .tvec
  | _ => none

/-- Registers marked P. -/
def SysReg.priv : SysReg → Bool
  | .flags | .mode | .tvec => false
  | _ => true

/-- Registers marked RO. -/
def SysReg.ro : SysReg → Bool
  | .tcause | .fmask | .faddr | .finfo | .mode | .ftstat | .tvec => true
  | .tpc | .trep | .tspc | .flags | .ftmap | .lfail => false

/-- The value that MFSR reads; a write-only register reads 0 (R7). -/
def State.sysRead (s : State) (c : CrewRef) (k : Crew) (r : SysReg) : W64 :=
  match r with
  | .tcause => k.tr.tcause
  | .tpc => k.tr.tpc.setWidth 64
  | .fmask => k.tr.fmask.setWidth 64
  | .faddr => k.tr.faddr
  | .finfo => k.tr.finfo
  | .trep => k.tr.trep.setWidth 64
  | .tspc => k.tr.tspc.setWidth 64
  | .flags => k.flags.setWidth 64
  | .mode => s.mbox.mode.setWidth 64
  | .ftmap => 0
  | .ftstat => k.ftstat.setWidth 64
  | .lfail => 0
  | .tvec => (match c with | .ctl d => (s.ctl d).tvec | .blk _ _ => s.sup.tvec).setWidth 64

/-- A write of LFAIL (R317): a nonzero cause fails the crew's launch; the control crew stops and is restarted. A value that is
neither listed nor a software cause is written as SWTRAP, and goes to the error log. -/
def State.lfail (s : State) (c : CrewRef) (v : W64) : State :=
  let w := v.toNat % 256
  let listed := listedCauses.contains w || decide (0xC0 ≤ w)
  let cause := if listed then w else cSWTRAP
  if w = 0 then s
  else match c with
    | .ctl d => (s.log cause (1 + d) 0 (if listed then 0 else w)).stopCtl d
    | .blk _ _ =>
      match s.crew? c with
      | none => s
      | some k => (if listed then s else s.log cause (1 + s.dieOf c) 0 w).failLaunch cause k.unit

/-- LFAIL_WRITE (R317): what MTSR to LFAIL does to the crew's launch. -/
def execLfailWrite (c : CrewRef) (v : W64) (s : State) : Out := .next (s.lfail c v)

/-- A write of FTMAP (R316, R320): the request joins the page unit's queue, and the scalar thread blocks until FTSTAT is set. -/
def State.ftmapWrite (s : State) (c : CrewRef) (k : Crew) (sw : Bool) (v : W64) : State :=
  match k.ftReq with
  | some _ => s.waitScalar c
  | none =>
    let s1 := s.putCrew c { k with ftReq := some (v, sw), wait := true }
    { s1 with fore := { s1.fore with ftq := s1.fore.ftq ++ [c] } }

/-- MTSR to a register that a write reaches (R315 to R317, R320). -/
def State.sysWrite (s : State) (c : CrewRef) (k : Crew) (sw : Bool) (r : SysReg) (v : W64) : State :=
  match r with
  | .tpc => s.putCrew c ({ k with tr := { k.tr with tpc := v.setWidth 24 } }.next sw)
  | .trep => s.putCrew c ({ k with tr := { k.tr with trep := v.setWidth 32 } }.next sw)
  | .tspc => s.putCrew c ({ k with tr := { k.tr with tspc := v.setWidth 24 } }.next sw)
  | .flags => s.putCrew c ((k.setFlags v).next sw)
  | .ftmap => s.afterErr c k (s.ftmapWrite c k sw v)
  | .lfail => (s.putCrew c (k.next sw)).lfail c v
  | .tcause => s
  | .fmask => s
  | .faddr => s
  | .finfo => s
  | .mode => s
  | .ftstat => s
  | .tvec => s

/-- MFSR (R315, R320). -/
def execMfsr (o : OpDN) (s : State) : Out :=
  scalarIns s (fun c k =>
    match sysReg? o.num.toNat with
    | none => s.trap c cILLINS
    | some r =>
      if r.priv && !s.privileged c then s.trap c cPRIVINS
      else s.putCrew c ((k.swrite o.rd (s.sysRead c k r)).next o.sw))

/-- MTSR (R315, R320): the privilege check comes before that of a read-only register. -/
def execMtsr (o : OpNA) (s : State) : Out :=
  scalarIns s (fun c k =>
    match sysReg? o.num.toNat with
    | none => s.trap c cILLINS
    | some r =>
      if r.priv && !s.privileged c then s.trap c cPRIVINS
      else if r.ro then s.trap c cILLINS
      else s.sysWrite c k o.sw r (s.sread c k o.ra))

end Sys2Proof.Machine
end

