-- ==== Sys2Proof/Machine/Links.lean ====
section
/-!
DEFINITION. Vexlinks and their keys (R29, R301 to R304): two key slots at each end of each direction, sequence numbers, the
replay buffer and key switches. Link l has the directions 2 l (from its first end) and 2 l + 1; links 0 to 4 are the C–C bridge,
C-die 0 with F-die 0, C-die 1 with F-die 1, C-die 0 with the H-die and C-die 1 with the H-die. Direction 10 + 2 k + d is direction
d of the k-th open endpoint of a peer (R307).
-/

namespace Sys2Proof.Machine

/-- The chiplets at the ends of a link. -/
def linkEnds (l : Nat) : Nat × Nat := listGet (0, 0) [(1, 2), (1, 3), (2, 4), (1, 0), (2, 0)] l

/-- The links that end at a chiplet. -/
def linksOf (i : Nat) : List Nat := (List.range 5).filter (fun l => (linkEnds l).1 == i || (linkEnds l).2 == i)

/-- The clock of a chiplet's die (R31); base dies count with their C-die. -/
def State.clockOf (s : State) (i : Nat) : Nat :=
  (if i = 0 then s.clk.h else if i = 1 then s.clk.c0 else if i = 2 then s.clk.c1 else if i = 3 then s.clk.f0
   else if i = 4 then s.clk.f1 else if i < 11 then s.clk.c0 else s.clk.c1).toNat

/-- A direction of a link (R301). -/
def State.dir (s : State) (k : Nat) : Link :=
  if k < 10 then s.linkDir k
  else match s.peers.eps[(k - 10) / 2]? with
    | some e => if k % 2 = 0 then e.tx else e.rx
    | none => .reset

/-- Replaces a direction. -/
def State.putDir (s : State) (k : Nat) (x : Link) : State :=
  if k < 10 then { s with links := listSet s.links k x }
  else match s.peers.eps[(k - 10) / 2]? with
    | some e =>
      let e1 := if k % 2 = 0 then { e with tx := x } else { e with rx := x }
      { s with peers := { s.peers with eps := listSet s.peers.eps ((k - 10) / 2) e1 } }
    | none => s

/-- A direction that has just been keyed (R301): one key in slot 0 at both ends, and sequence numbers from 0. -/
def Link.keyedWith (key : Nat) : Link := { Link.reset with txKeys := [some key, none], rxKeys := [some key, none] }

/-- Keys both directions of a link with keys of the Porter's random bit generator (R301). -/
def State.keyLink (s : State) (l : Nat) : State :=
  let a := s.draw
  let b := a.2.draw
  (b.2.putDir (2 * l) (.keyedWith a.1)).putDir (2 * l + 1) (.keyedWith b.1)

/-- Every link end of the shuttered chiplets erases its keys, empties its replay buffer and discards its flits (R304, R306 step 2). -/
def State.eraseLinks (s : State) (shut : List Nat) : State :=
  (List.range 10).foldl (fun s k =>
    let e := linkEnds (k / 2)
    if shut.contains e.1 || shut.contains e.2 then s.putDir k .reset else s) s

/-! ### Requests that a sender holds for a shuttered chiplet (R300) -/

/-- The direction in which the requests of a C-die to a scratchpad of the other, shuttered one are held; its memory is unmapped, so that no
access to that is held. -/
def State.lostWay (s : State) (die : Nat) (ls : List Loc) : Option Nat :=
  let far := 3 - die
  if (die = 1 ∨ die = 2) ∧ s.shuttered far ∧ ls.any (fun l => match l with
      | .spad b _ _ => s.spadDie b == far
      | .ended cl r _ _ => s.endedDie cl r == far
      | .phys _ => false
      | .table _ => false) then some (if die = 1 then 0 else 1) else none

/-- Since when a direction holds a request. -/
def Link.heldSince (x : Link) (w : Requester) : Option Nat := (x.held.find? (fun h => h.1 == w)).map (·.2)

/-- A direction holds a request from now on. -/
def Link.hold (x : Link) (w : Requester) (now : Nat) : Link :=
  if (x.heldSince w).isSome then x else { x with held := x.held ++ [(w, now)] }

/-- An access of a stream stalls (R252, R301). One to a scratchpad of a shuttered C-die is held, and after 2^20 aclk of its own die it
completes with a transport error, which giveUp says (R300; log entry 111). -/
def State.stallStream (s : State) (c : CrewRef) (slice : Option Nat) (pc : CodeAddr) (ls : List Loc) (giveUp : State → State) : State :=
  let w : Requester := .stream c slice pc
  let now := s.clockOf (s.seat c)
  match s.lostWay (s.seat c) ls with
  | none => s
  | some d =>
    match (s.dir d).heldSince w with
    | some t => if t + 2 ^ 20 ≤ now then giveUp (s.putDir d { s.dir d with held := (s.dir d).held.filter (fun h => h.1 != w) }) else s
    | none => s.putDir d ((s.dir d).hold w now)

/-- An access of the scalar stream stalls. -/
def State.stallScalar (s : State) (c : CrewRef) (pc : CodeAddr) (ls : List Loc) (va : W64) : State :=
  s.stallStream c none pc ls (fun u => u.trapAt c cXPORTERR va)

/-- A step of a tile instruction stalls (R252, R301); one that goes to a scratchpad of a shuttered C-die is held (R300). -/
def State.stallTile (s : State) (e : MosEntry) (ls : List Loc) : State :=
  match s.lostWay (s.seat e.crew) ls with
  | none => s
  | some d => s.putDir d ((s.dir d).hold (.tile e.uid) (s.clockOf (s.seat e.crew)))

/-- The transmitter's switch at flit N (R302): flits from N use the new slot, and the old key is erased at once. -/
def Link.turnOver (x : Link) : Link :=
  if x.switch = some x.sent ∧ (slotKey x.txKeys (1 - x.slot)).isSome then
    { x with slot := 1 - x.slot, txKeys := listSet x.txKeys x.slot none, keyed := x.sent }
  else x

/-- The transmitter sends its next flit, and keeps it in the replay buffer as it was sent (R301, R303); a key that has encrypted
2^32 flits encrypts no more. -/
def Link.sendOne (x : Link) : Link :=
  if x.carries then
    ({ x with sent := x.sent + 1, buffer := x.buffer ++ [(x.sent, x.slot)] } : Link).turnOver
  else x

/-- Sends up to n flits. -/
def Link.sendMany : Nat → Link → Link
  | 0, x => x
  | n + 1, x => Link.sendMany n x.sendOne

/-- The receiver erases the old key once it has accepted flit N − 1 and acknowledged it (R302 step 4). -/
def Link.settleRx (x : Link) : Link :=
  match x.switch with
  | some n =>
    if n ≤ x.acked ∧ (slotKey x.txKeys (1 - x.slot)).isNone then { x with rxKeys := listSet x.rxKeys (1 - x.slot) none } else x
  | none => x

/-- The receiver accepts a group of four flits and acknowledges it (R301, R303). -/
def Link.accept (x : Link) (seq : Nat) : Link :=
  ({ x with acked := seq + 4, buffer := x.buffer.filter (fun f => decide (seq + 4 ≤ f.1)) } : Link).settleRx

/-- KEY_SWITCH (R302): the Porter programs the idle slot at both ends, the transmitter announces the switch, and both ends report
the erasure of the old key. -/
def execKeySwitch (k : Nat) (st : KeyStep) (s : State) : Out :=
  .next (
    let x := s.dir k
    if !s.powered || !x.isKeyed then s
    else match st with
      | .program key =>
        if x.switch.isNone ∧ (slotKey x.txKeys (1 - x.slot)).isNone ∧ (slotKey x.rxKeys (1 - x.slot)).isNone then
          s.putDir k { x with txKeys := listSet x.txKeys (1 - x.slot) (some key), rxKeys := listSet x.rxKeys (1 - x.slot) (some key) }
        else s
      | .announce n =>
        if x.switch.isNone ∧ n % 4 = 0 ∧ x.sent ≤ n ∧ (slotKey x.txKeys (1 - x.slot)).isSome ∧
            (slotKey x.rxKeys (1 - x.slot)).isSome then
          s.putDir k (({ x with switch := some n } : Link).turnOver.settleRx)
        else s
      | .report =>
        match x.switch with
        | some n =>
          if n ≤ x.acked ∧ (slotKey x.txKeys (1 - x.slot)).isNone ∧ (slotKey x.rxKeys (1 - x.slot)).isNone then
            s.putDir k { x with switch := none }
          else s
        | none => s)

/-- FLIT_CRC_FAILURE (R303, R304): a flit that fails its CRC is sent again as it was first sent, from that flit onward, so only
its first sending changes the link. -/
def execFlitCrcFailure (k seq : Nat) (s : State) : Out :=
  .next (
    let x := s.dir k
    if s.powered ∧ x.isKeyed ∧ x.acked ≤ seq ∧ seq ≤ x.sent then s.putDir k (x.sendMany (seq + 1 - x.sent)) else s)

end Sys2Proof.Machine
end

