-- ==== Sys2Proof/Machine/Atomics.lean ====
section
/-!
DEFINITION. Scalar memory instructions (R255, R256, R259, R260), the atomic operations (R261, R262, R264) and the scalar
atomics (R263, R266).
-/

namespace Sys2Proof.Machine

/-! ### One access of a crew (R255) -/

/-- The checks of R255 on one access of n bytes, and the state with what its translation has cached. -/
def State.access (s : State) (c : CrewRef) (kind : AccKind) (va : W64) (n : Nat) : Except Nat (List Loc) × State :=
  let r := s.checkAccess c (s.engine c) (s.privileged c) kind va.toNat n
  (r.1, s.putEngine c r.2)

/-- The address that failed in an access that the checks of R255 refuse with cause e (R315): where an access spans two pages, the
first byte of the first part whose own checks give e, since an access is checked on both pages (log entry 75). -/
def State.failAddr (s : State) (c : CrewRef) (kind : AccKind) (va : W64) (n e : Nat) : W64 :=
  if e == cATALIGN then va
  else
    match (pageParts va.toNat n).find? (fun p =>
      match (s.access c kind (BitVec.ofNat 64 p.1) p.2).1 with | .error x => x == e | .ok _ => false) with
    | some p => BitVec.ofNat 64 p.1
    | none => va

/-- A store or atomic of scope .sy to bell words stalls while the queue of posts is full (R129). -/
def State.bellStall (s : State) (ls : List Loc) : Bool := s.postFull && !(bellsOf ls).isEmpty

/-- Posts the bell words that an access has written (R128). -/
def State.postBells (s : State) (ls : List Loc) : State := (bellsOf ls).foldl (fun s i => s.post i) s

/-! ### Scalar loads and stores (R259) -/

/-- The address of a scalar load or store: ra plus imm10 times the size (R40, R259). -/
def scalarAddr (base : W64) (imm : BitVec 10) (n : Nat) : W64 := base + BitVec.ofInt 64 (imm.toInt * n)

/-- SLD of n bytes (R256, R259): a read that meets an uncorrectable error defers MEMERR and leaves rd as it is. -/
def scalarLoad (n : Nat) (signed : Bool) (o : OpDAI) (s : State) : Out :=
  scalarIns s (fun c k =>
    let va := scalarAddr (s.sread c k o.ra) o.imm n
    match s.access c .read va n with
    | (.error e, _) => s.trapAt c e (s.failAddr c .read va n e)
    | (.ok ls, s1) =>
      if s.stalledLocs (s.seat c) ls then s.stallScalar c k.pc ls va
      else if s.poisonedLocs ls then
        let m : MemErr := ⟨k.h, k.pc, 0, va⟩
        s1.putCrew c ({ k with memerr := k.memerr ++ [m] }.next o.sw)
      else
        let v := ofBytes (s.readLocs c ls)
        s1.putCrew c ((k.pendS o.rd (if signed then sext64 (8 * n) v else BitVec.ofNat 64 v) 0).next o.sw))

/-- SST of n bytes (R259): the low bytes of the register that rd names. -/
def scalarStore (n : Nat) (o : OpDAI) (s : State) : Out :=
  scalarIns s (fun c k =>
    let va := scalarAddr (s.sread c k o.ra) o.imm n
    match s.access c .write va n with
    | (.error e, _) => s.trapAt c e (s.failAddr c .write va n e)
    | (.ok ls, s1) =>
      if s.stalledLocs (s.seat c) ls then s.stallScalar c k.pc ls va
      else (s1.putCrew c (k.next o.sw)).writeLocs c true ls (bytesOf n (s.sread c k o.rd).toNat))

/-- SFENCE (R260): it orders accesses that this model already performs in order (log entry 6). -/
def execSfence (o : OpS) (s : State) : Out := scalarIns s (fun c k => s.putCrew c (k.next o.sw))

/-! ### Atomic operations (R261, R264) -/

/-- The smaller or larger of two w-bit values as signed. -/
def pickS (w : Nat) (big : Bool) (a b : Nat) : Nat := if decide (sextI w a < sextI w b) != big then a else b

/-- The new value of an atomic operation on w-bit values, with flags of fadd (R261, R264). -/
def atomNew (op : AOp) (w old b c : Nat) : Nat × Flags :=
  match op with
  | .add => ((old + b) % 2 ^ w, 0)
  | .and => (old &&& b, 0)
  | .or => (old ||| b, 0)
  | .xor => (old ^^^ b, 0)
  | .min => (pickS w false old b, 0)
  | .max => (pickS w true old b, 0)
  | .minu => (Nat.min old b, 0)
  | .maxu => (Nat.max old b, 0)
  | .xchg => (b, 0)
  | .cas => (if old = b then c else old, 0)
  | .fadd => let r := addF32 old b; (r.code, r.flags)
  | .incw => (if b ≤ old then 0 else old + 1, 0)
  | .bfadd => (if old ≤ c then Nat.min (old + b) c else old, 0)

/-- A scalar atomic of n bytes (R263, R266): old goes to rd zero-extended; an uncorrectable read error traps at the atomic, and
nothing is written; one of scope .sy to a bell word posts it (R128). -/
def scalarAtomic (op : AOp) (n : Nat) (o : OpAt) (s : State) : Out :=
  scalarIns s (fun c k =>
    let va := s.sread c k o.ra
    match s.access c .atomic va n with
    | (.error e, _) => s.trapAt c e (s.failAddr c .atomic va n e)
    | (.ok ls, s1) =>
      if s.stalledLocs (s.seat c) ls then s.stallScalar c k.pc ls va
      else if o.sc = .sy ∧ s.bellStall ls then s
      else if s.poisonedLocs ls then s.trapAt c cMEMERR va
      else
        let old := ofBytes (s.readLocs c ls)
        let b := (s.sread c k o.rb).toNat % 2 ^ (8 * n)
        let d := if op.hasC then (s.sread c k (o.rb + 1)).toNat % 2 ^ (8 * n) else 0
        let r := atomNew op (8 * n) old b d
        let s2 := (s1.putCrew c ((k.pendS o.rd (BitVec.ofNat 64 old) r.2).next o.sw)).writeLocs c false ls (bytesOf n r.1)
        if o.sc = .sy then s2.postBells ls else s2)

/-- SLD.u8 (R259). -/
def execSldU8 (o : OpDAI) (s : State) : Out := scalarLoad 1 false o s

/-- SLD.u16 (R259). -/
def execSldU16 (o : OpDAI) (s : State) : Out := scalarLoad 2 false o s

/-- SLD.u32 (R259). -/
def execSldU32 (o : OpDAI) (s : State) : Out := scalarLoad 4 false o s

/-- SLD.64 (R259). -/
def execSld64 (o : OpDAI) (s : State) : Out := scalarLoad 8 false o s

/-- SLD.i8 (R259). -/
def execSldI8 (o : OpDAI) (s : State) : Out := scalarLoad 1 true o s

/-- SLD.i16 (R259). -/
def execSldI16 (o : OpDAI) (s : State) : Out := scalarLoad 2 true o s

/-- SLD.i32 (R259). -/
def execSldI32 (o : OpDAI) (s : State) : Out := scalarLoad 4 true o s

/-- SST.8 (R259). -/
def execSst8 (o : OpDAI) (s : State) : Out := scalarStore 1 o s

/-- SST.16 (R259). -/
def execSst16 (o : OpDAI) (s : State) : Out := scalarStore 2 o s

/-- SST.32 (R259). -/
def execSst32 (o : OpDAI) (s : State) : Out := scalarStore 4 o s

/-- SST.64 (R259). -/
def execSst64 (o : OpDAI) (s : State) : Out := scalarStore 8 o s

/-- SATOM.add.32 (R261, R266). -/
def execSatomAdd32 (o : OpAt) (s : State) : Out := scalarAtomic .add 4 o s

/-- SATOM.add.64 (R261, R266). -/
def execSatomAdd64 (o : OpAt) (s : State) : Out := scalarAtomic .add 8 o s

/-- SATOM.and.32 (R261, R266). -/
def execSatomAnd32 (o : OpAt) (s : State) : Out := scalarAtomic .and 4 o s

/-- SATOM.and.64 (R261, R266). -/
def execSatomAnd64 (o : OpAt) (s : State) : Out := scalarAtomic .and 8 o s

/-- SATOM.or.32 (R261, R266). -/
def execSatomOr32 (o : OpAt) (s : State) : Out := scalarAtomic .or 4 o s

/-- SATOM.or.64 (R261, R266). -/
def execSatomOr64 (o : OpAt) (s : State) : Out := scalarAtomic .or 8 o s

/-- SATOM.xor.32 (R261, R266). -/
def execSatomXor32 (o : OpAt) (s : State) : Out := scalarAtomic .xor 4 o s

/-- SATOM.xor.64 (R261, R266). -/
def execSatomXor64 (o : OpAt) (s : State) : Out := scalarAtomic .xor 8 o s

/-- SATOM.min.32 (R261, R266). -/
def execSatomMin32 (o : OpAt) (s : State) : Out := scalarAtomic .min 4 o s

/-- SATOM.min.64 (R261, R266). -/
def execSatomMin64 (o : OpAt) (s : State) : Out := scalarAtomic .min 8 o s

/-- SATOM.max.32 (R261, R266). -/
def execSatomMax32 (o : OpAt) (s : State) : Out := scalarAtomic .max 4 o s

/-- SATOM.max.64 (R261, R266). -/
def execSatomMax64 (o : OpAt) (s : State) : Out := scalarAtomic .max 8 o s

/-- SATOM.minu.32 (R261, R266). -/
def execSatomMinu32 (o : OpAt) (s : State) : Out := scalarAtomic .minu 4 o s

/-- SATOM.minu.64 (R261, R266). -/
def execSatomMinu64 (o : OpAt) (s : State) : Out := scalarAtomic .minu 8 o s

/-- SATOM.maxu.32 (R261, R266). -/
def execSatomMaxu32 (o : OpAt) (s : State) : Out := scalarAtomic .maxu 4 o s

/-- SATOM.maxu.64 (R261, R266). -/
def execSatomMaxu64 (o : OpAt) (s : State) : Out := scalarAtomic .maxu 8 o s

/-- SATOM.xchg.32 (R261, R266). -/
def execSatomXchg32 (o : OpAt) (s : State) : Out := scalarAtomic .xchg 4 o s

/-- SATOM.xchg.64 (R261, R266). -/
def execSatomXchg64 (o : OpAt) (s : State) : Out := scalarAtomic .xchg 8 o s

/-- SATOM.cas.32 (R261, R266). -/
def execSatomCas32 (o : OpAt) (s : State) : Out := scalarAtomic .cas 4 o s

/-- SATOM.cas.64 (R261, R266). -/
def execSatomCas64 (o : OpAt) (s : State) : Out := scalarAtomic .cas 8 o s

/-- SATOM.fadd.32 (R261, R266). -/
def execSatomFadd32 (o : OpAt) (s : State) : Out := scalarAtomic .fadd 4 o s

/-- SATOM.incw.32 (R261, R266). -/
def execSatomIncw32 (o : OpAt) (s : State) : Out := scalarAtomic .incw 4 o s

/-- SATOM.incw.64 (R261, R266). -/
def execSatomIncw64 (o : OpAt) (s : State) : Out := scalarAtomic .incw 8 o s

/-- SATOM.bfadd.32 (R261, R266). -/
def execSatomBfadd32 (o : OpAt) (s : State) : Out := scalarAtomic .bfadd 4 o s

/-- SATOM.bfadd.64 (R261, R266). -/
def execSatomBfadd64 (o : OpAt) (s : State) : Out := scalarAtomic .bfadd 8 o s

end Sys2Proof.Machine
end

