-- ==== Sys2Proof/Machine/Issue.lean ====
section
/-!
DEFINITION. Which streams are ready (R47, R65, R115), what a stream's next instruction is (R52), and the two steps that have
no decoded instruction: a failed fetch and an illegal word (R49, R51, R52).
-/

namespace Sys2Proof.Machine

/-- The crew's block is being saved (R115). -/
def State.savingCrew (s : State) (c : CrewRef) : Bool :=
  match s.blockOf c with | some b => b.saving | none => false

/-- Faults of tile instructions that the scalar thread must take at its next boundary: those of a handler's own instructions,
or outside a handler any (R273, R352, log entry 25). -/
def Crew.dueFaults (k : Crew) : List TileFault := k.deferred.filter (fun f => !k.h || f.inH)

/-- The crew may issue: it is not stopping, saved, or taking a trap, its die is not shuttered (R300), and a handler of it does not
wait for the supervisor image to be loaded again (R324). While its block is to be saved, its handler goes on as long as an outstanding
destination or a MEMERR waits for the handler's return (R48, R256, R352). -/
def State.mayIssue (s : State) (c : CrewRef) (k : Crew) : Bool :=
  !k.stopping && k.trapping.isNone && (!s.savingCrew c || (k.h && (k.out.any (s.stuck c) || k.anyErr))) && !s.shuttered (1 + s.dieOf c) &&
  !(k.h && !c.isCtl && s.sup.lost.contains (s.coreOf c))

/-- The scalar stream is ready (R47, R115, R256, R352). -/
def State.scalarReady (s : State) (c : CrewRef) (k : Crew) : Bool :=
  s.mayIssue c k && k.dueFaults.isEmpty &&
  !(k.parked && (!k.scalarOut.isEmpty || !k.scalarErr.isEmpty)) && !(k.blocked && !k.scalarErr.isEmpty)

/-- A slice of a gang lets it issue (R47, R78, R256). -/
def Crew.sliceReady (k : Crew) (r : Run) (j : Nat) : Bool :=
  let x := r.slice j
  !x.atRegang && !(x.park && (k.sliceOut j || !x.memerr.isEmpty)) && !(x.blocked && !x.memerr.isEmpty)

/-- The gang of slice i is ready. -/
def State.gangReady (s : State) (c : CrewRef) (k : Crew) (i : Nat) : Bool :=
  match k.runNow with
  | none => false
  | some r => s.mayIssue c k && (r.slice i).live && (r.gangOf i).all (k.sliceReady r)

/-- What a stream meets at its code address. -/
inductive Fetched
  | fails (cause : Nat)
  | illegal
  | instr (i : Instr)
  deriving DecidableEq, Repr

/-- The word that the scalar stream executes next: one that waits or has stalled has been fetched already, and
completes whatever has become of its overlay (R56); any other is fetched. -/
def State.wordScalar (s : State) (c : CrewRef) (k : Crew) : Except Nat W32 :=
  match k.word with
  | some (pc, w) => if k.wait && pc == k.pc then .ok w else s.fetchScalar c k
  | none => s.fetchScalar c k

/-- The words that a slice's gang executes next. -/
def State.wordLane (s : State) (c : CrewRef) (k : Crew) (x : Slice) : Except Nat (W32 × W32 × W32) :=
  match x.word with
  | some (pc, w) => if x.wait && pc == x.pc then .ok w else s.fetchLane c k x.pc
  | none => s.fetchLane c k x.pc

/-- The scalar stream's next instruction: residency, section bounds, opcode and fields (R52 checks 1 to 4). -/
def State.nextScalar (s : State) (c : CrewRef) (k : Crew) : Fetched :=
  match s.wordScalar c k with
  | .error e => .fails e
  | .ok w => match decodeScalar w with | some i => .instr i | none => .illegal

/-- The next instruction of a slice's gang. -/
def State.nextLane (s : State) (c : CrewRef) (k : Crew) (i : Nat) : Fetched :=
  match k.runNow with
  | none => .illegal
  | some r =>
    match s.wordLane c k (r.slice i) with
    | .error e => .fails e
    | .ok (w0, w1, w2) => match decodeLane w0 w1 w2 with | some x => .instr x | none => .illegal

/-! ### The issue arbiter (R115, R116) -/

/-- The scalar stream is ready in its pipe (R115): it may issue, is not blocked in a waiting instruction, and is not stopped by a full
MOS queue. -/
def State.readyS (s : State) (c : CrewRef) (k : Crew) : Bool :=
  s.scalarReady c k && !k.blocked &&
  !(s.mosFull c && (match s.nextScalar c k with | .instr i => i.isTile | .fails _ => false | .illegal => false))

/-- The gang of slice i is ready in the lane pipe. -/
def State.readyL (s : State) (c : CrewRef) (k : Crew) (i : Nat) : Bool :=
  s.gangReady c k i && (match k.runNow with | some r => (r.gangOf i).all (fun j => !(r.slice j).blocked) | none => false)

/-- Some gang of the crew is ready. -/
def State.anyL (s : State) (c : CrewRef) (k : Crew) : Bool := (List.range 8).any (s.readyL c k)

/-- A name of a crew's pipe, or of one of its gangs, for the free value that says whether its next instruction has been fetched. -/
def pipeKey (c : CrewRef) (n : Nat) : Nat := match c with | .ctl d => 2 * n + 32 * d | .blk b j => 2 * (n + 16 * (32 * (b + 1) + j))

/-- The class in which a crew is treated in a pipe: its launch's, or 0 once it has been ready there for 4,096 aclk without issuing
(R116). -/
def State.pipeClass (s : State) (c : CrewRef) (k : Crew) (lane : Bool) : Nat :=
  let since := if lane then k.sinceL else k.sinceS
  if (if lane then k.boostL else k.boostS) || decide (since + 4096 ≤ s.cclk (s.dieOf c)) then 0 else (s.recOf c).prio

/-- Crew p goes before crew c in a pipe: by class, then by issue age (R115). -/
def State.goesBefore (s : State) (lane : Bool) (p c : CrewRef × Crew) : Bool :=
  decide (s.pipeClass p.1 p.2 lane < s.pipeClass c.1 c.2 lane) ||
  (s.pipeClass p.1 p.2 lane == s.pipeClass c.1 c.2 lane && decide (p.2.age < c.2.age))

/-- A pipe of the core may choose the crew: fewer than four crews that are ready there go before it (R115). Whether another crew's next
instruction has been fetched is free (log entry 4). -/
def State.chosen (s : State) (c : CrewRef) (k : Crew) (lane : Bool) : Bool :=
  c.isCtl || decide (((s.crewsOn (s.coreOf c)).filter (fun p =>
    p.1 != c && s.goesBefore lane p (c, k) && Config.freeReady s.draws (pipeKey p.1 0) &&
    (if lane then s.anyL p.1 p.2 else s.readyS p.1 p.2))).length < 4)

/-- Of the crew's gangs that are ready, the one of slice i issued least recently (R115). -/
def State.gangTurn (s : State) (c : CrewRef) (k : Crew) (i : Nat) : Bool :=
  match k.runNow with
  | none => false
  | some r => !(List.range 8).any (fun j =>
      decide ((r.slice j).last < (r.slice i).last) && (r.slice j).live && Config.freeReady s.draws (pipeKey c (1 + j)) && s.readyL c k j)

/-- A gang that fails checks 1 to 4: the faulter mask is every lane of the issuing slices, and the lanes that the mask stack
enables are re-executed, under the guard of the word that is then fetched (R52, R56, R315, log entry 51). -/
def State.trapFetch (s : State) (t : LaneTurn) (cause : Nat) : State :=
  (s.laneTrap t cause t.all t.cur 0).modCrew t.c (fun k => { k with unread := true })

/-- INSTRUCTION_FETCH_FAULT (R52, R53, R56): OVLMISS or BADTGT of the stream that has the turn. -/
def execInstructionFetchFault (s : State) : Out :=
  match s.turn with
  | .scalar c =>
    onScalar s (fun _ k => match s.nextScalar c k with | .fails e => s.trap c e | .illegal => s | .instr _ => s)
  | .gang c i =>
    onGang s (fun t => match s.nextLane c t.k i with | .fails e => s.trapFetch t e | .illegal => s | .instr _ => s)
  | .idle => .fault .noIssuer
  | .event _ => .fault .noIssuer
  | .frontEnd _ => .fault .noIssuer

/-- ILLEGAL_INSTRUCTION (R49, R51, R52): ILLINS of the stream whose word decodes to no instruction. -/
def execIllegalInstruction (s : State) : Out :=
  match s.turn with
  | .scalar c =>
    onScalar s (fun _ k => match s.nextScalar c k with | .illegal => s.trap c cILLINS | .fails _ => s | .instr _ => s)
  | .gang c i =>
    onGang s (fun t => match s.nextLane c t.k i with | .illegal => s.trapFetch t cILLINS | .fails _ => s | .instr _ => s)
  | .idle => .fault .noIssuer
  | .event _ => .fault .noIssuer
  | .frontEnd _ => .fault .noIssuer

/-- An aclk of the die has passed for crews that are not ready: their waiting time counts from now (R116). -/
def State.ageCrews (s : State) : State :=
  { s with crews := s.crews.map (fun p =>
      let now := s.cclk (s.dieOf p.1)
      let k := p.2
      (p.1, { k with sinceS := if s.readyS p.1 k then k.sinceS else now, sinceL := if s.anyL p.1 k then k.sinceL else now })) }

/-- The word a scalar stream has just fetched is kept (R56). Until the instruction goes on or is told to wait, `wait` says whether it may
stall. -/
def Crew.noteWord (k : Crew) (w : Except Nat W32) : Crew :=
  { k with
    word := (match w with | .ok x => some (k.pc, x) | .error _ => none)
    wait := (match w with | .ok x => (match decodeScalar x with | some i => i.stalls | none => false) | .error _ => false) }

/-- The lane words just fetched are those of an instruction that may stall. -/
def laneStalls (w : Except Nat (W32 × W32 × W32)) : Bool :=
  match w with
  | .ok (a, b, d) => (match decodeLane a b d with | some i => i.stalls | none => false)
  | .error _ => false

/-- The words a gang has just fetched are kept in each of its slices (R56), with the place of this issue among the run's (R115). -/
def Run.noteWord (r : Run) (i : Nat) (w : Except Nat (W32 × W32 × W32)) : Run :=
  let gang := r.gangOf i
  { r with
    issues := r.issues + 1
    slices := (List.range r.slices.length).map (fun j =>
      let x := r.slice j
      if gang.contains j then
        { x with word := (match w with | .ok y => some (x.pc, y) | .error _ => none), wait := laneStalls w, last := r.issues + 1 }
      else x) }

/-- A stream has the turn: the word that it fetched is kept (R56), and where it issues, which it does not while it is blocked in a
waiting instruction or stopped by a full MOS queue, its waiting time starts again and the treatment as class 0 ends (R115, R116). A
lane of the firmware core has acted in its round (R123). -/
def State.noteIssue (s : State) (t : Turn) : State :=
  match t with
  | .scalar c => s.modCrew c (fun k =>
      let go := s.readyS c k
      { k.noteWord (s.wordScalar c k) with
        sinceS := if go then s.cclk (s.dieOf c) else k.sinceS
        boostS := k.boostS && !go })
  | .gang c i => s.modCrew c (fun k =>
      let go := s.readyL c k i
      let k1 := match k.runNow with | some r => k.setRunNow (r.noteWord i (s.wordLane c k (r.slice i))) | none => k
      { k1 with
        sinceL := if go then s.cclk (s.dieOf c) else k.sinceL
        boostL := k.boostL && !go })
  | .idle => s
  | .event _ => s
  | .frontEnd _ => { s with round := s.round.drop 1 }

/-- ISSUE_STARVATION (R116): a crew that has been ready in a pipe for 4,096 aclk is treated as class 0 there. -/
def execIssueStarvation (c : CrewRef) (lane : Bool) (s : State) : Out :=
  .next (s.modCrew c (fun k =>
    let now := s.cclk (s.dieOf c)
    if lane then
      if s.anyL c k && decide (k.sinceL + 4096 ≤ now) then { k with boostL := true } else k
    else if s.readyS c k && decide (k.sinceS + 4096 ≤ now) then { k with boostS := true } else k))

end Sys2Proof.Machine
end

