-- ==== Sys2Proof/Machine/Deliver.lean ====
section
/-!
DEFINITION. Results and faults that reach a crew after the instruction that caused them has issued: RESULT_DELIVERY (R46, R48,
R187), DEFERRED_MEMERR (R256), DEFERRED_TILE_FAULT (R352) and COPY_FAULT_TRAP (R273).
-/

namespace Sys2Proof

/-- The copies, among the tile instructions: those that R272 runs (R271, R278). -/
def Instr.isCopy : Instr → Bool
  | .tld _ | .tst _ | .tgath _ | .tscat _ | .tred _ | .ovload _ => true
  | _ => false

end Sys2Proof

namespace Sys2Proof.Machine

/-- Writes a value to an outstanding destination. -/
def Crew.putDest (k : Crew) (e : Pending) (v : Nat) : Crew :=
  match e.dest with
  | .sreg r => if r < 96 then k.putSreg e.inH r (BitVec.ofNat 64 v) else k
  | .vreg key => { k with v := sparseSet 0 k.v key (BitVec.ofNat 32 v) }
  | .pred p l => k.pwrite l p (v != 0)

/-- The value that a destination holds. -/
def Crew.destNow (k : Crew) (e : Pending) : Nat :=
  match e.dest with
  | .sreg r => (if e.inH && decide (80 ≤ r) then sparseGet 0 k.bank (r - 80) else sparseGet 0 k.s r).toNat
  | .vreg key => (sparseGet 0 k.v key).toNat
  | .pred p l => b2n (k.pread l p)

/-- Writes an outstanding destination and its flags (R46, R187). -/
def Crew.deliver (k : Crew) (e : Pending) (v : Nat) : Crew := (k.putDest e v).sticky e.flags

/-- Before the stream has parked, each read of an outstanding destination gives the value from before or the one to be delivered (R48):
the destination begins to show value v, or shows the value from before again, unless another instruction has written it meanwhile. -/
def Crew.show (k : Crew) (e : Pending) (v : Nat) : Crew :=
  match k.shown.find? (fun x => x.1 == e) with
  | none => { k.putDest e v with shown := k.shown ++ [(e, k.destNow e)] }
  | some x =>
    let k1 := if k.destNow e = v then k.putDest e x.2 else k
    { k1 with shown := k.shown.filter (fun y => y.1 != e) }

/-- The n-th outstanding destination is delivered: it is outstanding no more. -/
def Crew.settle (k : Crew) (n : Nat) (e : Pending) (v : Nat) : Crew :=
  { k with out := listDrop k.out n, shown := k.shown.filter (fun y => y.1 != e) }.deliver e v

/-- RESULT_DELIVERY (R46, R48): the k-th outstanding destination of a crew is written, once its value is there; the last one lets a
crew that is taking a trap enter its handler (R312). Until then the destination may show that value, and its own again, as a free choice
says (log entry 110). -/
def execResultDelivery (c : CrewRef) (n : Nat) (s : State) : Out :=
  .next (
    match s.crew? c with
    | none => s
    | some k =>
      match k.out[n]? with
      | none => s
      | some e =>
        match e.val with
        | none => s
        | some v =>
          let d := s.draw
          if d.1 % 2 = 0 then (d.2.putCrew c (k.settle n e v)).enterIfReady c else d.2.putCrew c (k.show e v))

/-- The trap registers of a fault that is taken at an instruction boundary (R315). -/
def boundaryRegs (k : Crew) (cause : Nat) (ipc : CodeAddr) (addr : W64) (st : Nat) : TrapRegs :=
  trapRegs cause 0 0 false k.pc k.pc ipc 0 0 addr st

/-- The scalar thread takes the oldest MEMERR that it may take, at a park, at a blocking instruction, or before a save
(R256, R322). -/
def State.scalarMemerr (s : State) (c : CrewRef) (k : Crew) : State :=
  match k.scalarErr with
  | [] => s
  | e :: _ =>
    if k.parked || k.blocked || s.savingCrew c then
      let k1 : Crew := { k with memerr := k.memerr.filter (fun x => k.h && !x.inH) ++ (k.scalarErr.drop 1) }
      (s.putCrew c k1).takeTrap c (boundaryRegs k cMEMERR e.ipc e.addr 0)
    else s

/-- Removes the MEMERRs of one load from a slice. -/
def Slice.clearErr (x : Slice) (ipc : CodeAddr) : Slice := { x with memerr := x.memerr.filter (fun e => e.ipc != ipc) }

/-- The MEMERRs of one load in the slices of a gang. -/
def LaneTurn.errsOf (t : LaneTurn) (ipc : CodeAddr) : List MemErr :=
  (t.gang.map (fun j => (t.r.slice j).memerr.filter (fun e => e.ipc == ipc))).flatten

/-- A gang takes the MEMERR of a load at a park, a blocking instruction, a LEND or a save: the next instruction not yet issued is the
boundary, and the lanes of that load in every slice of the gang are the faulter mask (R256, R315). -/
def State.gangMemerr (s : State) (t : LaneTurn) : State :=
  let due (j : Nat) : Bool := let x := t.r.slice j; (x.park || x.blocked || s.savingCrew t.c) && !x.memerr.isEmpty
  match (t.gang.filter due).filterMap (fun j => (t.r.slice j).memerr.head?) with
  | [] => s
  | e :: _ =>
    let es := t.errsOf e.ipc
    let mask := es.foldl (fun m x => m ||| x.mask) 0
    let k1 := t.k.setRunNow { t.r with
      slices := (List.range 8).map (fun j => if t.gang.contains j then (t.r.slice j).clearErr e.ipc else t.r.slice j) }
    (s.putCrew t.c k1).takeTrap t.c (trapRegs cMEMERR 0 t.slices true t.pc t.k.pc e.ipc mask 0 e.addr 0)

/-- DEFERRED_MEMERR (R256): a stream takes its pending MEMERR. -/
def execDeferredMemerr (c : CrewRef) (st : StreamId) (s : State) : Out :=
  .next (
    match s.crew? c with
    | none => s
    | some k =>
      if k.stopping || k.trapping.isSome then s
      else match st with
        | .scalar => s.scalarMemerr c k
        | .slice i =>
          match k.runNow with
          | none => s
          | some r => if (r.slice i).live then s.gangMemerr (r.laneTurn c k i) else s)

/-- The fault that a crew must take first among those that the MOS has found: the oldest in issue order (R352), with whether
its instruction is a copy. -/
def State.firstFault (s : State) (c : CrewRef) (k : Crew) : Option (TileFault × Bool) :=
  let due := k.deferred.filter (fun f => !k.h || f.inH)
  match due.foldl (fun m f => match m with | none => some f | some x => some (if f.entry < x.entry then f else x)) none with
  | none => none
  | some f => some (f, match (s.mosOf c).find? (fun m => m.uid == f.entry) with | some m => m.instr.isCopy | none => true)

/-- The scalar thread takes a fault that the MOS has found, at its instruction boundary or at once in a waiting instruction; the
tile instruction stays held until ERET (R273, R352). -/
def State.tileTrap (s : State) (c : CrewRef) (copy : Bool) : State :=
  match s.crew? c with
  | none => s
  | some k =>
    if k.stopping || k.trapping.isSome then s
    else match s.firstFault c k with
      | none => s
      | some (f, isCopy) =>
        if isCopy = copy then
          (s.putCrew c { k with deferred := k.deferred.filter (fun x => x.entry != f.entry) }).takeTrap c
            (boundaryRegs k f.cause f.ipc f.addr f.step)
        else s

/-- DEFERRED_TILE_FAULT (R352). -/
def execDeferredTileFault (c : CrewRef) (s : State) : Out := .next (s.tileTrap c false)

/-- COPY_FAULT_TRAP (R273). -/
def execCopyFaultTrap (c : CrewRef) (s : State) : Out := .next (s.tileTrap c true)

end Sys2Proof.Machine
end

