-- ==== Sys2Proof/Machine/Crews.lean ====
section
/-!
DEFINITION. Crew control: register groups and the claim queue (R80 to R83), barriers (R84 to R88), ATTACH and DETACH (R91,
R92), YIELD (R94), completion counters from a crew (R110).
-/

namespace Sys2Proof.Machine

/-! ### Register groups (R80 to R83) -/

/-- Takes n groups as groups g .. g + n - 1, zero-filled, and writes the new count to rd (R80, R81). -/
def Crew.takeGroups (k : Crew) (rd : BitVec 7) (n : Nat) : Crew :=
  let k1 : Crew := { k with
    v := sparseClear k.v (256 * k.groups) (256 * (k.groups + n))
    groups := k.groups + n }
  k1.swrite rd (BitVec.ofNat 64 k1.groups)

/-- Returns the top n groups to the pool (R81). -/
def Crew.dropGroups (k : Crew) (rd : BitVec 7) (n : Nat) : Crew :=
  let k1 : Crew := { k with
    v := sparseClear k.v (256 * (k.groups - n)) (256 * k.groups)
    groups := k.groups - n }
  k1.swrite rd (BitVec.ofNat 64 k1.groups)

/-- CLAIM (R81, R82): it is granted at once when no claim is queued and the groups are free, and queues otherwise. -/
def execClaim (o : OpDA) (s : State) : Out :=
  blockIns s (fun c k => s.afterErr c k (
    let n := (s.sread c k o.ra).toNat
    let q := s.core (s.coreOf c)
    if 64 < k.groups + n then s.trap c cREGLIM
    else if n = 0 then s.putCrew c ((k.takeGroups o.rd 0).next o.sw)
    else if q.claims.any (fun x => x.crew == c) then s.waitScalar c
    else if q.claims.isEmpty && decide (n ≤ s.freeGroups (s.coreOf c)) then s.putCrew c ((k.takeGroups o.rd n).next o.sw)
    else (s.putCore (s.coreOf c) { q with
      claims := q.claims ++ [⟨c, n, s.cclk (s.dieOf c), o.rd, o.sw⟩] }).waitScalar c))

/-- RELEASE (R81): it waits until every run of the crew that has not ended has a group limit of at most g - n. -/
def execRelease (o : OpDA) (s : State) : Out :=
  blockIns s (fun c k => s.afterErr c k (
    let n := (s.sread c k o.ra).toNat
    let runs := k.runs ++ (match k.hrun with | some r => [r] | none => [])
    if k.groups < n then s.trap c cREGLIM
    else if n = 0 || runs.all (fun r => r.state == .ended || decide (r.groups ≤ k.groups - n)) then
      s.putCrew c ((k.dropGroups o.rd n).next o.sw)
    else s.waitScalar c))

/-- CLAIM_GRANT (R82): the claim at the head of a core's queue is granted once its groups are free. -/
def execClaimGrant (core : Nat) (s : State) : Out :=
  .next (
    let q := s.core core
    match q.claims with
    | [] => s
    | x :: t =>
      match s.crew? x.crew with
      | none => s
      | some k =>
        if x.n ≤ s.freeGroups core then
          (s.putCore core { q with claims := t }).putCrew x.crew ((k.takeGroups x.rd x.n).next x.sw)
        else s)

/-- The crew waits in CLAIM. -/
def Core.claimed (q : Core) (c : CrewRef) : Bool := q.claims.any (fun x => x.crew == c)

/-- Condition D of a core (R83). -/
def State.claimDead (s : State) (core : Nat) : Bool :=
  let q := s.core core
  match q.claims with
  | [] => false
  | x :: _ =>
    decide (s.freeGroups core < x.n) &&
    (s.crewsOn core).all (fun p => (p.2.groups == 0 || q.claimed p.1) && p.2.leave == .no && !p.2.stopping) &&
    (s.blocksOn core).all (fun p => !p.2.saving)

/-- Records since when condition D holds without a break. -/
def State.watchClaims (s : State) : State :=
  let upd (i : Nat) (q : Core) : Core :=
    { q with deadSince := if s.claimDead i then some (q.deadSince.getD (s.cclk (s.dieOfCore i))) else none }
  { s with cores := (List.range s.cores.length).map (fun i => upd i (s.core i)) }

/-- CLAIM_DEADLOCK (R83): once D has held for 1,024 aclk, every crew blocked in CLAIM takes CLAIMDL at its CLAIM, and the queue
empties. -/
def execClaimDeadlock (core : Nat) (s : State) : Out :=
  .next (
    let q := s.core core
    match q.deadSince with
    | none => s
    | some t =>
      if s.claimDead core && decide (t + 1024 ≤ s.cclk (s.dieOfCore core)) then
        q.claims.foldl (fun s x => s.trap x.crew cCLAIMDL) (s.putCore core { q with claims := [], deadSince := none })
      else s)

/-! ### Barriers (R84 to R88) -/

/-- The level and index of a barrier selector, or none when it raises BARIDX (R85). -/
def selector? (l : LaunchRec) (w : Nat) : Option (Nat × Nat) :=
  let lev := w / 16
  let i := w % 16
  if (lev = 0 ∧ i < l.nbb) ∨ (lev = 1 ∧ i < l.ncb) ∨ (lev = 2 ∧ i < l.nlb) then some (lev, i) else none

/-- The barrier of a crew's block, cluster or launch that a selector names. -/
def State.barOf (s : State) (c : CrewRef) (lev i : Nat) : Barrier :=
  let b := s.blockD c
  let d := Barrier.start 0
  match lev with
  | 0 => listGet d b.bars i
  | 1 => (match s.cluster? b.cluster with | some x => listGet d x.bars i | none => d)
  | _ => (match s.launch? b.unit with | some x => listGet d x.bars i | none => d)

/-- The operator of a phase clashes with an arrival's (R87). -/
def opClash (now op : BarOp) : Bool := op != .none && now != .none && now != op

/-- An arrival in a block's combining unit (R87). -/
def Combine.join (x : Combine) (j : Nat) (op : BarOp) (v : W32) : Combine :=
  let x1 : Combine := if op ≠ .none ∧ x.op = .none then { x with op := op, acc := barIdentity op } else x
  { x1 with acc := barCombine op x1.acc v, arrived := x1.arrived ++ [j] }

/-- An arrival at a barrier that a selector names, with its traps (R87): the arriving member's bit and the operator are judged
at the unit, or for a launch barrier in the block's combining unit. A growth crew arrives in a handler before its ATTACH like any other
(log entry 112). -/
def State.arrive (s : State) (c : CrewRef) (b j lev i : Nat) (op : BarOp) (v : W32) (ok : State → State) : State :=
  let bl := s.blockD c
  if lev = 2 then
    let cb := listGet ⟨[], .none, 0⟩ bl.combine i
    if cb.arrived.contains j then s.trap c cBARDUP
    else if opClash cb.op op then s.trap c cBARMIX
    else ((ok s).modBlock b (fun x => { x with combine := listSet x.combine i (cb.join j op v) })).settleCombine b i
  else
    let me := if lev = 0 then memberNo 0 j else memberNo (s.rankOf bl) j
    let bar := s.barOf c lev i
    if bar.arrived.contains me then s.trap c cBARDUP
    else if opClash bar.op op then s.trap c cBARMIX
    else if lev = 0 then (ok s).modBlock b (fun x => { x with bars := listSet x.bars i (bar.arrive me op v) })
    else (ok s).modCluster bl.cluster (fun x => { x with bars := listSet x.bars i (bar.arrive me op v) })

/-- BARRIVE (R87); while its message cannot pass, it waits (R301). -/
def execBarrive (o : OpBar) (s : State) : Out :=
  blockIns s (fun c k =>
    match c with
    | .ctl _ => s
    | .blk b j =>
      let w := (s.sread c k o.ra).toNat
      match selector? (s.recOf c) w with
      | none => s.trap c cBARIDX
      | some (lev, i) =>
        if !s.barWay c lev then s else
        let token := BitVec.ofNat 64 (w * 2 ^ 16 + (s.barOf c lev i).phase.toNat)
        s.arrive c b j lev i o.op ((s.sread c k o.rb).setWidth 32) (fun s => s.putCrew c ((k.swrite o.rd token).next o.sw)))

/-- The barrier of a phase token and whether its phase is over (R88), or none when it raises BARIDX (R85). -/
def State.tokenDone (s : State) (c : CrewRef) (t : Nat) : Option (Barrier × Bool) :=
  if 2 ^ 22 ≤ t then none
  else match selector? (s.recOf c) (t / 2 ^ 16) with
    | none => none
    | some (lev, i) => let b := s.barOf c lev i; some (b, b.phase.toNat != t % 2 ^ 16)

/-- The level of a phase token. -/
def tokenLevel (t : Nat) : Nat := t / 2 ^ 16 / 16

/-- BWAIT (R88). -/
def execBwait (o : OpDA) (s : State) : Out :=
  blockIns s (fun c k => s.afterErr c k (
    match s.tokenDone c (s.sread c k o.ra).toNat with
    | none => s.trap c cBARIDX
    | some (b, done) =>
      if done && s.barWay c (tokenLevel (s.sread c k o.ra).toNat) then s.putCrew c ((k.swrite o.rd (b.result.setWidth 64)).next o.sw)
      else s.waitScalar c))

/-- BTEST (R88). -/
def execBtest (o : OpDA) (s : State) : Out :=
  blockIns s (fun c k =>
    match s.tokenDone c (s.sread c k o.ra).toNat with
    | none => s.trap c cBARIDX
    | some (_, done) =>
      if !s.barWay c (tokenLevel (s.sread c k o.ra).toNat) then s else s.putCrew c ((k.swrite o.rd (if done then 1 else 0)).next o.sw))

/-! ### ATTACH, DETACH and YIELD (R91, R92, R94) -/

/-- ATTACH (R91): a growth crew that has executed nothing joins every barrier of its block and cluster, once its message can pass. -/
def execAttach (o : OpD) (s : State) : Out :=
  onScalar s (fun c k =>
    match c with
    | .ctl _ => s.trap c cILLINS
    | .blk b _ =>
      s.afterErr c k (
        if !k.growth then s.trap c cATTSEQ
        else match s.block? b with
          | none => s
          | some x =>
            if x.gather.isSome || !s.barWay c 1 then s.waitScalar c
            else
              let s1 := s.putBlock b { x with bars := x.bars.map Barrier.attach, members := x.members + 1 }
              let s2 := s1.modCluster x.cluster (fun y => { y with bars := y.bars.map Barrier.attach })
              s2.putCrew c (({ k with growth := false }.swrite o.rd (BitVec.ofNat 64 (x.members + 1))).next o.sw)))

/-- DETACH (R92): its test once, then its waits, then the departure. -/
def execDetach (o : OpZ) (s : State) : Out :=
  blockIns s (fun c k =>
    match c with
    | .ctl _ => s
    | .blk b _ =>
      s.afterErr c k (
        let ended := (k.runs ++ k.hrun.toList).all (fun r => r.state == .ended)
        if k.leave = .detach then s.leaveCrew c .detach ended
        else match s.block? b with
          | none => s
          | some x =>
            if x.members < x.departing + 1 + (s.recOf c).minc then s.trapNext c cDETMIN 0 o.sw
            else (s.putBlock b { x with departing := x.departing + 1 }).leaveCrew c .detach ended))

/-- YIELD (R94): the crew becomes the youngest; no effect in the control crew (R67). -/
def execYield (o : OpZ) (s : State) : Out :=
  scalarIns s (fun c k => s.putCrew c ((if c.isCtl then k else { k with age := s.cclk (s.dieOf c) }).next o.sw))

/-! ### Completion counters (R110) -/

/-- The counter that an identifier names for a crew: the most recent visible unit of the level (R110). -/
def State.visibleUnit (s : State) (c : CrewRef) (k : Crew) (lev : Level) (id : W32) : Option CUnit :=
  let mine (u : CUnit) : Bool :=
    c.isCtl || (match s.ancestor 4 k.unit .job, s.ancestor 4 u.uid .job with | some a, some b => a.uid == b.uid | _, _ => false)
  let ok (u : CUnit) : Bool := u.level == lev && u.id == id && mine u && (s.worldOf c || !u.world)
  (s.units.filter ok).foldl (fun m u => match m with | some x => (if x.uid < u.uid then some u else some x) | none => some u) none

/-- WDONE (R110). -/
def execWdone (o : OpLev) (s : State) : Out :=
  scalarIns s (fun c k =>
    let id := s.sread c k o.ra
    if 2 ^ 32 ≤ id.toNat then s.trap c cWIDRNG
    else
      let w := match s.visibleUnit c k o.lev (id.setWidth 32) with | some u => u.word | none => 0
      s.putCrew c ((k.pendS o.rd w 0).next o.sw))

/-- WCANCEL (R110, R111). -/
def execWcancel (o : OpLev) (s : State) : Out :=
  scalarIns s (fun c k =>
    let id := s.sread c k o.ra
    if 2 ^ 32 ≤ id.toNat then s.trap c cWIDRNG
    else match s.visibleUnit c k o.lev (id.setWidth 32) with
      | none => s.trap c cCANPERM
      | some u => (s.putCrew c ((k.pendS o.rd u.word 0).next o.sw)).cancelUnit cCANCEL u.uid)

end Sys2Proof.Machine
end

