-- ==== Sys2Proof/Machine/Slots.lean ====
section
/-!
DEFINITION. Format slots (R168, R171, R173 to R175): the fields of a slot record, its validity, its format and its container.
-/

namespace Sys2Proof.Machine

/-- The fields of a format slot (R168); rsv holds the reserved bits. -/
structure Slot where
  kind  : Nat
  w     : Nat
  s     : Bool
  e     : Nat
  m     : Nat
  bias  : Int
  sp    : Nat
  sym   : Bool
  scm   : Nat
  blk   : Nat
  sslot : Nat
  orm   : Nat
  osat  : Bool
  rsv   : Nat
  deriving DecidableEq, Repr

/-- The fields of a 128-bit slot record. -/
def Slot.ofNat (x : Nat) : Slot where
  kind := bitsN x 3 0
  w := bitsN x 7 4
  s := bitN x 8
  e := bitsN x 12 9
  m := bitsN x 15 13
  bias := sextI 8 (bitsN x 23 16)
  sp := bitsN x 25 24
  sym := bitN x 26
  scm := bitsN x 29 28
  blk := bitsN x 31 30
  sslot := bitsN x 34 32
  orm := bitsN x 38 36
  osat := bitN x 39
  rsv := bitsN x 27 27 + bitsN x 35 35 + bitsN x 127 40

/-- A slot is well-formed but for the slot of its block scales (R174). -/
def Slot.okSelf (f : Slot) : Bool :=
  f.rsv == 0 && decide (f.kind ≤ 7) && decide (f.orm ≤ 3) &&
  (if f.kind = 0 then
    decide (2 ≤ f.w) && decide (f.w ≤ 8) && f.w == b2n f.s + f.e + f.m &&
    (if f.e = 0 then f.sp == 0 && (!f.sym || f.s) else !f.sym) &&
    (f.sp != 1 || (decide (2 ≤ f.e) && decide (1 ≤ f.m))) && (f.sp != 2 || decide (2 ≤ f.e + f.m)) && (f.sp != 3 || f.s)
  else f.w == 0 && !f.s && f.e == 0 && f.m == 0 && f.bias == 0 && f.sp == 0 && !f.sym) &&
  (f.scm == 3 || (f.blk == 0 && f.sslot == 0))

/-- The slot of a crew's launch (R96). -/
def State.slotAt (s : State) (c : CrewRef) (i : Nat) : Slot := Slot.ofNat (listGet 0 (s.recOf c).fmts i)

/-- A slot is well-formed (R174). -/
def State.slotOk (s : State) (c : CrewRef) (i : Nat) : Bool :=
  let f := s.slotAt c i
  f.okSelf &&
  (f.scm != 3 ||
    (let g := s.slotAt c f.sslot
     f.sslot != i && g.okSelf && g.scm == 0 && (g.kind == 1 || g.kind == 2 || g.kind == 3 || (g.kind == 0 && decide (1 ≤ g.e)))))

/-- The format of a slot (R169 to R173). -/
def Slot.fmt (f : Slot) : Fmt :=
  match f.kind with
  | 0 => if f.e = 0 then .fix f.w f.s f.bias f.sym else .flt f.e f.m f.bias f.s f.sp
  | 1 => fmtF32
  | 2 => fmtF16
  | 3 => fmtBF16
  | 4 => fmtI32
  | 5 => fmtI8
  | 6 => fmtI4
  | _ => .b1

/-- The container width in bits (R171, R173). -/
def Slot.cont (f : Slot) : Nat :=
  match f.kind with
  | 0 => if 5 ≤ f.w then 8 else if 3 ≤ f.w then 4 else 2
  | 1 => 32
  | 2 => 16
  | 3 => 16
  | 4 => 32
  | 5 => 8
  | 6 => 4
  | _ => 1

/-- The width of a format's codes in bits. -/
def fmtBits : Fmt → Nat
  | .flt e m _ s _ => e + m + b2n s
  | .fix w _ _ _ => w
  | .b1 => 1

/-- The block length of a block-scaled slot (R168). -/
def Slot.blkLen (f : Slot) : Nat := 16 * 2 ^ f.blk

/-- The rounding mode of drains into a slot (R168). -/
def Slot.rm (f : Slot) : Rm := if f.orm = 0 then .rn else if f.orm = 1 then .rz else if f.orm = 2 then .rdn else .rup

/-- Reads of reserved codes are recorded in normal service only (R178). -/
def State.recordsRsvd (s : State) : Bool := s.mbox.mode == 0

end Sys2Proof.Machine
end

