-- ==== Sys2Proof/Machine/Tiles.lean ====
section
/-!
DEFINITION. What the tile instructions share: elements in containers and scratchpad tiles (R171, R173, R217), scales (R179), the
layout of weight images (R219 to R221), acceptance into the MOS queue (R114), completion, holding by a deferred fault (R352), and
the accesses of the tile translation engine (R288).
-/

namespace Sys2Proof.Machine

/-! ### Containers and tiles (R171, R173, R217) -/

/-- The code of element i in containers of c bits that start at a byte (R171). -/
def codeAt (m : Sparse Byte) (base i c : Nat) : Nat :=
  if 8 ≤ c then ofBytes (sparseRead 0 m (base + i * (c / 8)) (c / 8))
  else ((sparseGet 0 m (base + i * c / 8)).toNat / 2 ^ (i * c % 8)) % 2 ^ c

/-- A row of n codes of c bits, packed into bytes (R171). -/
def packCodes (c : Nat) (codes : List Nat) : List Byte :=
  bytesOf (ceilDiv (codes.length * c) 8) (codes.foldr (fun x a => x % 2 ^ c + a * 2 ^ c) 0)

/-- RS of R217: the stride of a row of n elements of c bits. -/
def rowStride (n c : Nat) : Nat := 64 * ceilDiv (n * c) 512

/-- The value of an element of a slot's format, and whether its code is reserved (R177). -/
def Slot.value (f : Slot) (code : Nat) : Ex × Bool := f.fmt.value (code % 2 ^ fmtBits f.fmt)

/-- A scratchpad tile (R217): its offset, its rows and elements, its slot, and the slot of its block scales. -/
structure Tile where
  off  : Nat
  rows : Nat
  len  : Nat
  f    : Slot
  g    : Slot
  deriving DecidableEq, Repr

/-- The start of the scale area. -/
def Tile.scales (t : Tile) : Nat := t.off + t.rows * rowStride t.len t.f.cont

/-- The stride of a row of block scales. -/
def Tile.scaleStride (t : Tile) : Nat := rowStride (t.len / t.f.blkLen) t.g.cont

/-- The end of the extent. -/
def Tile.stop (t : Tile) : Nat :=
  if t.f.scm = 1 then t.scales + 4 * t.rows
  else if t.f.scm = 3 then t.scales + t.rows * t.scaleStride
  else t.scales

/-- The scratchpad extent. -/
def Tile.extent (t : Tile) : Nat × Nat := (t.off, t.stop)

/-- A binary32 word of a byte map. -/
def word32At (m : Sparse Byte) (off : Nat) : Nat := ofBytes (sparseRead 0 m off 4)

/-- The scaled value of element e of row r, and whether a reserved code was read (R177, R179). -/
def Tile.elem (t : Tile) (m : Sparse Byte) (r e : Nat) : Ex × Bool :=
  let x := t.f.value (codeAt m (t.off + r * rowStride t.len t.f.cont) e t.f.cont)
  if t.f.scm = 1 then (x.1.mul (val32 (word32At m (t.scales + 4 * r))), x.2)
  else if t.f.scm = 3 then
    let y := t.g.value (codeAt m (t.scales + r * t.scaleStride) (e / t.f.blkLen) t.g.cont)
    (x.1.mul y.1, x.2 || y.2)
  else x

/-! ### Weight images (R219 to R221) -/

/-- The shape of an image's decompressed operand: rows K, columns N, the layout, and the container width. -/
structure ImgShape where
  k : Nat
  n : Nat
  t : Bool
  c : Nat
  deriving DecidableEq, Repr

/-- CS or RB: the bytes of a column or row (R220). -/
def ImgShape.line (x : ImgShape) : Nat := if x.t then rowStride x.n x.c else rowStride x.k x.c

/-- NBLK (R220). -/
def ImgShape.nblk (x : ImgShape) : Nat := (if x.t then x.k else x.n) * x.line / 64

/-- The start of the codebooks and of the block data, from the image's start. -/
def ImgShape.books (x : ImgShape) : Nat := 64 + roundUp (ceilDiv x.nblk 4) 64
def ImgShape.data (x : ImgShape) : Nat := x.books + roundUp (ceilDiv x.nblk 64 * 32) 64

/-- The stored bytes of a block of a mode, or none when the mode is illegal for the width (R221). -/
def storedBytes (mode c : Nat) : Option Nat :=
  match mode with
  | 0 => some 64
  | 1 => some 0
  | 2 => if c = 8 then some 40 else if c = 16 then some 36 else if c = 4 then some 48 else none
  | _ => if c = 8 then some 32 else if c = 16 then some 16 else none

/-- The mode of block b of the image that starts at `at`. -/
def blockMode (m : Sparse Byte) (start b : Nat) : Nat := ((sparseGet 0 m (start + 64 + b / 4)).toNat / 4 ^ (b % 4)) % 4

/-- Where each block's stored bytes begin, in ascending order, and last the end of the block data. -/
def blockStarts (m : Sparse Byte) (start : Nat) (x : ImgShape) : List Nat :=
  ((List.range x.nblk).foldl (fun (a : List Nat × Nat) b =>
    let p := a.2 + (storedBytes (blockMode m start b) x.c).getD 0
    (p :: a.1, p)) ([start + x.data], start + x.data)).1.reverse

/-- Every mode code is legal for the width (R221). -/
def modesOk (m : Sparse Byte) (start : Nat) (x : ImgShape) : Bool :=
  (List.range x.nblk).all (fun b => (storedBytes (blockMode m start b) x.c).isSome)

/-- The bytes of an image's scale area: per-column or per-block scales (R220). -/
def scaleBytes (x : ImgShape) (f g : Slot) : Nat :=
  if f.scm = 2 then 4 * x.n
  else if f.scm = 3 then x.n * rowStride (x.k / f.blkLen) g.cont
  else 0

/-- SIZE as R220 computes it, from the end of the block data. -/
def imageSize (x : ImgShape) (f g : Slot) (dataEnd : Nat) : Nat := roundUp (roundUp dataEnd 64 + scaleBytes x f g) 64

/-- The code of element n of a stored block (R221). -/
def blockCode (m : Sparse Byte) (start : Nat) (x : ImgShape) (b pos n : Nat) : Nat :=
  match blockMode m start b with
  | 0 => codeAt m pos n x.c
  | 1 => 0
  | 2 =>
    let half := 512 / x.c / 2
    let idx (v : Nat) : Nat := codeAt m (pos + half * x.c / 8) v 2
    let g := n / 4
    if idx (2 * g + 1) = n % 4 then codeAt m pos (2 * g + 1) x.c
    else if idx (2 * g) = n % 4 then codeAt m pos (2 * g) x.c
    else 0
  | _ => codeAt m (start + x.books + 32 * (b / 64)) (codeAt m pos n 4) x.c

/-- The code of B(k, j) (R220). -/
def imageCode (m : Sparse Byte) (start : Nat) (x : ImgShape) (starts : List Nat) (k j : Nat) : Nat :=
  let e := 512 / x.c
  let p := if x.t then (k, j) else (j, k)
  let b := p.1 * (x.line / 64) + p.2 / e
  blockCode m start x b (listGet 0 starts b) (p.2 % e)

/-- The scaled value of B(k, j) and whether a reserved code was read (R177, R179, R220). -/
def imageElem (m : Sparse Byte) (start : Nat) (x : ImgShape) (starts : List Nat) (f g : Slot) (k j : Nat) : Ex × Bool :=
  let v := f.value (imageCode m start x starts k j)
  let area := start + roundUp (listGet 0 starts x.nblk - start) 64
  if f.scm = 2 then (v.1.mul (val32 (word32At m (area + 4 * j))), v.2)
  else if f.scm = 3 then
    let y := g.value (codeAt m (area + j * rowStride (x.k / f.blkLen) g.cont) (k / f.blkLen) g.cont)
    (v.1.mul y.1, v.2 || y.2)
  else v

/-! ### The MOS queue (R114, R218, R352) -/

/-- The shape of a grant word (R216). -/
def gM (g : W32) : Nat := g.toNat % 256 + 1
def gN (g : W32) : Nat := g.toNat / 256 % 256 + 1
def gK (g : W32) : Nat := (g.toNat / 65536 % 256 + 1) * 16

/-- A tile instruction as the MOS accepts it. -/
def State.newTile (s : State) (c : CrewRef) (k : Crew) (i : Instr) (vals : List W64) : MosEntry where
  uid := s.nextUid
  order := s.placeOf c (k.h && (match i with | .wloadImg _ => true | .wloadTile _ => true | _ => false))
  crew := c
  instr := i
  ipc := k.pc
  vals := vals
  grant := k.grant
  priv := s.privileged c
  inH := k.h
  started := false
  step := 0
  ctx := none
  sp := []
  wb := none
  tsr := []
  chunks := []
  done := []
  pins := []
  replay := 0
  met := none
  addr := 0
  part := none
  held := false
  slow := false
  gang := 0
  arrived := none
  joint := none
  fin := false

/-- Accepts a tile instruction (R114): the scalar thread goes on, with rd outstanding when the instruction has one; while the
queue is full the thread stops without an effect. -/
def State.accept (s : State) (c : CrewRef) (k : Crew) (sw : Bool) (rd : Option (BitVec 7)) (e : MosEntry) : State :=
  if s.mosFull c then s
  else
    let k1 : Crew := match rd with
      | some r => if r.toNat < 96 then k.pend (.sreg r.toNat) none 0 e.uid else k
      | none => k
    let s1 := (s.putCrew c (k1.next sw)).putMos c (s.mosOf c ++ [e])
    { s1 with nextUid := s.nextUid + 1 }

/-- Replaces an entry of a queue. -/
def State.setTile (s : State) (e : MosEntry) : State :=
  s.putMos e.crew ((s.mosOf e.crew).map (fun x => if x.uid = e.uid then e else x))

/-- Removes an entry. -/
def State.dropTile (s : State) (e : MosEntry) : State :=
  s.putMos e.crew ((s.mosOf e.crew).filter (fun x => x.uid != e.uid))

/-- A tile instruction has completed: it leaves the queue, and its result, if it has one, is ready for delivery (R46). -/
def State.finishTile (s : State) (e : MosEntry) (v : Nat) : State :=
  (s.dropTile e).modCrew e.crew (fun k =>
    { k with out := k.out.map (fun p => if p.tag = e.uid && p.val == none then { p with val := some v } else p) })

/-- A deferred fault holds a tile instruction at a step (R273, R352). A crew that is taking a trap no longer waits for a result
that the held instruction keeps back (R312, log entry 23). -/
def State.holdTile (s : State) (e : MosEntry) (cause : Nat) (addr : W64) (st : Nat) : State :=
  let f : TileFault := ⟨cause, addr, e.ipc, e.step, e.uid, e.inH⟩
  ((s.setTile { e with held := true, step := st, met := none, arrived := none, joint := none }).modCrew e.crew
    (fun k => { k with deferred := k.deferred ++ [f] })).enterIfReady e.crew

/-! ### Accesses of the tile translation engine (R272, R288) -/

/-- The tile translation engine of a crew's core, or the control tile's engine. -/
def State.tileEngine (s : State) (c : CrewRef) : Engine :=
  match c with
  | .ctl d => ⟨(s.ctl d).tte, (s.ctl d).gens, 512, s.seat c⟩
  | .blk _ _ => let k := s.core (s.coreOf c); ⟨k.tte, k.gens, 512, s.seat c⟩

/-- Stores its cached translations back. -/
def State.putTileEngine (s : State) (c : CrewRef) (e : Engine) : State :=
  match c with
  | .ctl d => s.putCtl d { s.ctl d with tte := e.tlb }
  | .blk _ _ => s.putCore (s.coreOf c) { s.core (s.coreOf c) with tte := e.tlb }

/-- The 64 KiB parts of a range of n bytes. -/
def pagesOf : Nat → Nat → Nat → List (Nat × Nat)
  | 0, _, _ => []
  | f + 1, va, n =>
    let first := 0x10000 - va % 0x10000
    if n ≤ first then [(va, n)] else (va, first) :: pagesOf f ((va + first) % 2 ^ 64) (n - first)

/-- A part of an engine's access: the window checks of R236 and R237, the translation, and the backing (R255, R288). -/
def State.engPart (s : State) (c : CrewRef) (e : Engine) (priv : Bool) (kind : AccKind) (va n : Nat) :
    Except (Nat × W64) (List Loc) × Engine :=
  let bad (x : Nat) : Except (Nat × W64) (List Loc) := .error (x, BitVec.ofNat 64 va)
  match s.windows c [(va, n)] with
  | .error x => (bad x, e)
  | .ok ws =>
    match s.translateParts (s.asidOf c) priv (s.worldOf c) kind e ws with
    | (.error x, e) => (bad x, e)
    | (.ok ls, e) => (if s.backedLocs ls then .ok ls else bad cPAHOLE, e)

/-- An engine's access over its pages: the locations before the first fault, and that fault with its address. -/
def State.engParts (s : State) (c : CrewRef) (priv : Bool) (kind : AccKind) :
    List (Nat × Nat) → Engine → (List Loc × Option (Nat × W64)) × Engine
  | [], e => (([], none), e)
  | (va, n) :: t, e =>
    match s.engPart c e priv kind va n with
    | (.error x, e) => (([], some x), e)
    | (.ok p, e) =>
      let r := s.engParts c priv kind t e
      ((p ++ r.1.1, r.1.2), r.2)

/-- The tile translation engine of crew c reaches n bytes at va, as far as a first fault. -/
def State.engReach (s : State) (c : CrewRef) (priv : Bool) (kind : AccKind) (va n : Nat) :
    (List Loc × Option (Nat × W64)) × State :=
  let r := s.engParts c priv kind (pagesOf (n / 0x10000 + 2) (va % 2 ^ 64) n) (s.tileEngine c)
  (r.1, s.putTileEngine c r.2)

/-- The tile translation engine of crew c reaches n bytes at va, whole or not at all. -/
def State.engAccess (s : State) (c : CrewRef) (priv : Bool) (kind : AccKind) (va n : Nat) :
    Except (Nat × W64) (List Loc) × State :=
  let r := s.engReach c priv kind va n
  (match r.1.2 with | some x => .error x | none => .ok r.1.1, r.2)

/-- Some location is a scratchpad chunk that is held: the engine, which uses only chunks whose bit is clear, waits (R250, log entry 96). -/
def State.heldLocs (s : State) (ls : List Loc) : Bool :=
  ls.any (fun l => match l with
    | .spad b o n => (match s.block? b with
        | some k => (List.range ((o % 512 + n + 511) / 512)).any (fun i => sparseGet .idle k.chunks (o / 512 + i) == .held)
        | none => false)
    | .ended _ _ _ _ => false
    | .phys _ => false
    | .table _ => false)

/-- Reads locations. -/
def State.readParts (s : State) (c : CrewRef) (ps : List Loc) : List Byte := s.readLocs c ps

/-- Writes locations: an engine write is never a bell store (R272). -/
def State.writeParts (s : State) (c : CrewRef) (ps : List Loc) (bs : List Byte) : State := s.writeLocs c false ps bs

/-- Some part meets an uncorrectable error (R256). -/
def State.poisonedParts (s : State) (ps : List Loc) : Bool := s.poisonedLocs ps

/-- The scratchpad of a block, or of an ended member of its cluster. -/
def State.spadOf (s : State) (b : Nat) : Sparse Byte :=
  match s.block? b with | some k => k.spad | none => []

/-- Replaces bytes of a block's scratchpad. -/
def State.putSpad (s : State) (b off : Nat) (bs : List Byte) : State :=
  s.modBlock b (fun k => { k with spad := sparseWrite 0 k.spad off bs })

end Sys2Proof.Machine

namespace Sys2Proof

/-- The block of a crew, by its name. -/
def CrewRef.blockId : CrewRef → Nat | .ctl _ => 0 | .blk b _ => b

end Sys2Proof
end

