-- ==== Sys2Proof/Machine/Matrix.lean ====
section
/-!
DEFINITION. The matrix instructions at issue (R212, R213, R215, R216, R223, R224, R226 to R233): their checks in order, and what
the MOS accepts. The steps are in MatrixStep.
-/

namespace Sys2Proof.Machine

/-! ### Shapes (R216) -/

/-- The granted size of a requested M or N. -/
def grantSide (x : Nat) : Nat := if x ≤ 16 then 16 else if x ≤ 32 then 32 else if x ≤ 64 then 64 else 128

/-- The grant word of a request, or none for MXARG. -/
def grantOf (r : Nat) : Option W32 :=
  let m := bitsN r 15 0
  let n := bitsN r 31 16
  let k := bitsN r 47 32
  if m = 0 ∨ n = 0 ∨ k = 0 ∨ 4096 < k ∨ bitsN r 63 48 ≠ 0 then none
  else some (BitVec.ofNat 32 ((grantSide m - 1) + (grantSide n - 1) * 2 ^ 8 + (ceilDiv k 16 - 1) * 2 ^ 16 + 2 ^ 24))

/-- TSHAPE (R216). -/
def execTshape (o : OpDA) (s : State) : Out :=
  blockIns s (fun c k =>
    match grantOf (s.sread c k o.ra).toNat with
    | none => s.trap c cMXARG
    | some g => s.putCrew c (({ k with grant := g }.pendS o.rd (g.setWidth 64) 0).next o.sw))

/-! ### Contexts (R212, R213) -/

/-- k of MDIST's A word (R228). -/
def distK (a : W64) : Nat := bitsN a.toNat 26 21

/-- The mode and k of a context after a tile instruction completes (R212). -/
def MosEntry.modeAfter (e : MosEntry) (m : CtxMode × Nat) : CtxMode × Nat :=
  match e.instr with
  | .mma _ => (.f, 0)
  | .mxpop _ => (.i, 0)
  | .mdist _ => (.d, distK (e.vals.headD 0))
  | .mzeroAcq _ => (.none, 0)
  | .mzeroClr _ => (.none, 0)
  | _ => m

/-- Context i of a crew's core. -/
def State.ctxAt (s : State) (c : CrewRef) (i : Nat) : Ctx := listGet (Ctx.clear none) (s.core (s.coreOf c)).ctxs i

/-- The mode that a held context will have when the crew's accepted instructions have completed (R212). -/
def State.modeAhead (s : State) (c : CrewRef) (i : Nat) : CtxMode × Nat :=
  let x := s.ctxAt c i
  ((s.mosOf c).filter (fun e => e.crew == c && e.ctx == some i)).foldl (fun m e => e.modeAfter m) (x.mode, x.k)

/-- A scratchpad extent passes the block's allocation (R215). -/
def State.passes (s : State) (c : CrewRef) (stop : Nat) : Bool := decide (512 * s.scrchOf c.blockId < stop)

/-- A tile of the crew's block in a slot. -/
def State.tileAt (s : State) (c : CrewRef) (off rows len x : Nat) : Tile :=
  let f := s.slotAt c x
  ⟨off, rows, len, f, s.slotAt c f.sslot⟩

/-- An offset field and the bits above it hold a multiple of 64 of the width. -/
def offsetOk (v width : Nat) : Bool := v % 64 == 0 && decide (v < 2 ^ width)

/-! ### Products (R175, R226 to R228) -/

/-- The use of a slot as the A operand of MMA or MXPOP is illegal, as far as the slot alone tells (R175). -/
def productSlotBad (pop : Bool) (f : Slot) (k : Nat) : Bool :=
  if pop then f.kind != 7
  else f.kind == 1 || f.kind == 4 || ((f.kind == 2 || f.kind == 3 || f.kind == 7) && f.scm != 0) ||
    (f.scm == 3 && k % f.blkLen != 0)

/-- The range of a load's image, as far as it is known: the readers that come after it, and after no other load at its offset, touch that
range (R222). -/
def Core.narrow (q : Core) (e : MosEntry) (w : Nat × Nat) : Core :=
  let later (x : MosEntry) : Bool := x.loadsAt w.1 && x.uid != e.uid && decide (e.order < x.order)
  { q with mos := q.mos.map (fun x =>
      if x.isReader && decide (e.order < x.order) && (match x.wb with | some v => v.1 == w.1 | none => false) &&
          !q.mos.any (fun y => later y && decide (y.order < x.order)) then { x with wb := some w }
      else x) }

/-- CNT, HOME, BASE and TAG of a gang word (R224). -/
def gangCnt (g : BitVec 19) : Nat := bitsN g.toNat 10 8
def gangHome (g : BitVec 19) : Bool := bitN g.toNat 11
def gangBase (g : BitVec 19) : Nat := bitsN g.toNat 18 12
def gangTag (g : BitVec 19) : Nat := bitsN g.toNat 7 0

/-- MMA and MXPOP at issue (R215, R226, R227). -/
def product (pop : Bool) (i : Instr) (o : OpABX) (s : State) : Out :=
  blockIns s (fun c k =>
    let a := (s.sread c k o.ra).toNat
    let b := (s.sread c k o.rb).toNat
    let gw : BitVec 19 := if pop then 0 else k.gangw
    let home := gangCnt gw == 0 || gangHome gw
    let aoff := a % 2 ^ 20
    let t := s.tileAt c aoff (gM k.grant) (gK k.grant) o.x.toNat
    let want : CtxMode := if pop then .i else .f
    let modeBad := home && (match k.ctx with
      | some x => let m := (s.modeAhead c x).1; m != .none && m != want
      | none => false)
    if k.grant = 0 then s.trap c cNOGRANT
    else if home && k.ctx.isNone then s.trap c cNOCTX
    else if aoff % 64 ≠ 0 ∨ 2 ^ (if pop then 21 else 20) ≤ a ∨ b % 2 ^ 21 % 64 ≠ 0 ∨ bitsN b 31 21 ≠ 0 ∨ modeBad then
      s.trap c cMXARG
    else if !s.slotOk c o.x.toNat || productSlotBad pop t.f (gK k.grant) || (!pop && t.f.scm == 2) then s.trap c cILLFMT
    else if s.passes c t.stop then s.trap c cSPBOUND
    else
      let e := s.newTile c k i [BitVec.ofNat 64 a, BitVec.ofNat 64 b]
      s.accept c k o.sw none { e with
        ctx := if home then k.ctx else none
        sp := [t.extent]
        wb := some (s.readerRange c (b % 2 ^ 21))
        gang := gw })

/-- MMA (R226). -/
def execMma (o : OpABX) (s : State) : Out := product false (.mma o) o s

/-- MXPOP (R227). -/
def execMxpop (o : OpABX) (s : State) : Out := product true (.mxpop o) o s

/-- MDIST (R228). -/
def execMdist (o : OpABX) (s : State) : Out :=
  blockIns s (fun c k =>
    let a := s.sread c k o.ra
    let b := s.sread c k o.rb
    let kk := distK a
    let qt := s.tileAt c (a.toNat % 2 ^ 20) (gM k.grant) (gK k.grant) o.x.toNat
    let ct := s.tileAt c (b.toNat % 2 ^ 20) (gN k.grant) (gK k.grant) o.x.toNat
    let f := qt.f
    let modeBad (m : CtxMode × Nat) : Bool := m.1 != .none && !(m.1 == .d && m.2 == kk)
    if k.grant = 0 then s.trap c cNOGRANT
    else match k.ctx with
      | none => s.trap c cNOCTX
      | some x =>
        if qt.off % 64 ≠ 0 ∨ bitN a.toNat 20 ∨ kk = 0 ∨ 32 < kk ∨ 2 ^ 27 ≤ a.toNat ∨ ct.off % 64 ≠ 0 ∨
            bitsN b.toNat 31 20 ≠ 0 ∨ modeBad (s.modeAhead c x) then s.trap c cMXARG
        else if !s.slotOk c o.x.toNat || (f.kind != 2 && f.kind != 3) || f.scm != 0 then s.trap c cILLFMT
        else if s.passes c qt.stop || s.passes c ct.stop then s.trap c cSPBOUND
        else
          let e := s.newTile c k (.mdist o) [a, b]
          s.accept c k o.sw none { e with ctx := some x, sp := [qt.extent, ct.extent] })

/-! ### The weight buffer (R223) -/

/-- The MOS accepts a load of the weight buffer, whose range the readers after it take. -/
def State.acceptLoad (s : State) (c : CrewRef) (k : Crew) (sw : Bool) (e : MosEntry) : State :=
  if s.mosFull c then s
  else
    let s1 := s.accept c k sw none e
    match e.span with
    | none => s1
    | some w => s1.putCore (s1.coreOf c) ((s1.core (s1.coreOf c)).narrow e w)

/-- WLOAD.img (R223). -/
def execWloadImg (o : OpAB) (s : State) : Out :=
  blockIns s (fun c k =>
    let a := s.sread c k o.ra
    let b := s.sread c k o.rb
    if a.toNat % 64 ≠ 0 ∨ !offsetOk b.toNat 21 then s.trap c cMXARG
    else
      let e := s.newTile c k (.wloadImg o) [a, b]
      s.acceptLoad c k o.sw { e with wb := some (b.toNat, b.toNat + 64) })

/-- The image that WLOAD.tile builds: its shape, and SIZE (R220, R223). -/
def tileImage (g : W32) (w : Nat) (f : Slot) : ImgShape × Nat :=
  let x : ImgShape := ⟨gK g, gN g, bitN w 23, f.cont⟩
  (x, imageSize x f f (x.data + 64 * x.nblk))

/-- The source tile of WLOAD.tile (R223). -/
def State.sourceTile (s : State) (c : CrewRef) (g : W32) (w : Nat) : Tile :=
  let t := bitN w 23
  s.tileAt c (w % 2 ^ 20) (if t then gK g else gN g) (if t then gN g else gK g) (bitsN w 22 20)

/-- WLOAD.tile (R223). -/
def execWloadTile (o : OpAB) (s : State) : Out :=
  blockIns s (fun c k =>
    let w := (s.sread c k o.ra).toNat
    let b := (s.sread c k o.rb).toNat
    let t := s.sourceTile c k.grant w
    let size := (tileImage k.grant w t.f).2
    if k.grant = 0 then s.trap c cNOGRANT
    else if !offsetOk b 21 || t.off % 64 != 0 || bitsN w 31 24 != 0 || t.f.scm != 0 || decide (wbufSize < b + size) then
      s.trap c cMXARG
    else if !s.slotOk c (bitsN w 22 20) then s.trap c cILLFMT
    else if s.passes c t.stop then s.trap c cSPBOUND
    else
      let e := s.newTile c k (.wloadTile o) [BitVec.ofNat 64 w, BitVec.ofNat 64 b]
      s.acceptLoad c k o.sw { e with sp := [t.extent], wb := some (b, b + size) })

/-- GANG (R224). -/
def execGang (o : OpA) (s : State) : Out :=
  blockIns s (fun c k =>
    let w := s.sread c k o.ra
    let g : BitVec 19 := w.setWidth 19
    let cnt := gangCnt g
    if 2 ^ 19 ≤ w.toNat ∨ cnt = 1 ∨ cnt = 7 ∨ (cnt = 0 ∧ g ≠ 0) then s.trap c cMXARG
    else s.putCrew c ({ k with gangw := g }.next o.sw))

/-! ### Softmax state (R229 to R231) -/

/-- A binary32 scale is positive, finite and normal (R229). -/
def scaleOk (v : Nat) : Bool := decide (0x00800000 ≤ v) && decide (v < 0x7F800000)

/-- The fields of a column word: c0, ns, o0, no and SCALE (R229). -/
structure Cols where
  c0 : Nat
  ns : Nat
  o0 : Nat
  no : Nat
  sc : Nat
  deriving DecidableEq, Repr

def Cols.ofNat (w : Nat) : Cols := ⟨bitsN w 7 0, bitsN w 15 8 + 1, bitsN w 23 16, bitsN w 31 24, bitsN w 63 32⟩

/-- The column ranges of MSMAX lie below 128, an empty one too (log entry 118), and do not overlap. -/
def Cols.okSoft (x : Cols) : Bool :=
  decide (x.c0 + x.ns ≤ 128) && decide (x.o0 + x.no ≤ 128) &&
  (x.no == 0 || decide (x.c0 + x.ns ≤ x.o0) || decide (x.o0 + x.no ≤ x.c0))

/-- The output columns of MNORM and MMERGE: c0 = 0, [15:8] = 0, and the range below 128. -/
def Cols.okOut (x : Cols) : Bool := x.c0 == 0 && x.ns == 1 && decide (x.o0 + x.no ≤ 128)

/-- A row word holds ROW0, nr - 1 and zeros, and its rows lie below 128 (R229). -/
def rowsOk (w : Nat) : Bool := decide (w < 2 ^ 16) && decide (bitsN w 7 0 + bitsN w 15 8 + 1 ≤ 128)

/-- MSMAX, MNORM and MMERGE at issue: a held context in mode F, the operand words, and the extents. -/
def softIns (i : Instr) (sw : Bool) (ra rb : BitVec 7) (ok : Nat → Nat → Bool) (sp : Nat → Nat → List (Nat × Nat))
    (s : State) : Out :=
  blockIns s (fun c k =>
    let a := s.sread c k ra
    let b := s.sread c k rb
    match k.ctx with
    | none => s.trap c cNOCTX
    | some x =>
      if !ok a.toNat b.toNat || (s.modeAhead c x).1 != .f then s.trap c cMXARG
      else
        let ext := sp a.toNat b.toNat
        if ext.any (fun r => s.passes c r.2) then s.trap c cSPBOUND
        else s.accept c k sw none { s.newTile c k i [a, b] with ctx := some x, sp := ext })

/-- MSMAX (R229). -/
def execMsmax (o : OpAB) (s : State) : Out :=
  softIns (.msmax o) o.sw o.ra o.rb
    (fun a b => (Cols.ofNat a).okSoft && scaleOk (Cols.ofNat a).sc && rowsOk b) (fun _ _ => []) s

/-- MNORM (R230). -/
def execMnorm (o : OpAB) (s : State) : Out :=
  softIns (.mnorm o) o.sw o.ra o.rb
    (fun a b => (Cols.ofNat a).okOut && (Cols.ofNat a).sc == 0 && decide (1 ≤ (Cols.ofNat a).no) && rowsOk b) (fun _ _ => []) s

/-- RS of a state row (R231). -/
def stateStride (no : Nat) : Nat := 64 * ceilDiv (8 + 4 * no) 64

/-- The state word of MMERGE: offset, ROW0 and nr (R231). -/
def stateOff (w : Nat) : Nat := bitsN w 19 0
def stateRow (w : Nat) : Nat := bitsN w 27 20
def stateNr (w : Nat) : Nat := bitsN w 35 28 + 1

/-- MMERGE (R231). -/
def execMmerge (o : OpAB) (s : State) : Out :=
  softIns (.mmerge o) o.sw o.ra o.rb
    (fun a b => (Cols.ofNat a).okOut && scaleOk (Cols.ofNat a).sc && stateOff b % 64 == 0 &&
      decide (b < 2 ^ 36) && decide (stateRow b + stateNr b ≤ 128))
    (fun a b => [(stateOff b, stateOff b + stateNr b * stateStride (Cols.ofNat a).no)]) s

/-! ### Draining and clearing (R232, R233) -/

/-- The region word of MDRAIN (R232). -/
structure Region where
  row0 : Nat
  nr   : Nat
  c0   : Nat
  nc   : Nat
  rel  : Bool
  st   : Bool
  deriving DecidableEq, Repr

def Region.ofNat (w : Nat) : Region :=
  ⟨bitsN w 7 0, bitsN w 15 8 + 1, bitsN w 23 16, bitsN w 31 24 + 1, bitN w 32, bitN w 33⟩

/-- The bytes of a drained row (R217, R231, R232). -/
def Region.stride (r : Region) (f : Slot) : Nat := if r.st then stateStride r.nc else rowStride r.nc f.cont

/-- The extent that MDRAIN writes. -/
def Region.extent (r : Region) (f : Slot) (off : Nat) : Nat × Nat := (off, off + r.nr * r.stride f)

/-- MDRAIN (R232). -/
def execMdrain (o : OpDABX) (s : State) : Out :=
  blockIns s (fun c k =>
    let a := s.sread c k o.ra
    let b := s.sread c k o.rb
    let r := Region.ofNat b.toNat
    let f := s.slotAt c o.x.toNat
    let ext := r.extent f a.toNat
    match k.ctx with
    | none => s.trap c cNOCTX
    | some x =>
      let m := (s.modeAhead c x).1
      if !offsetOk a.toNat 20 || decide (2 ^ 34 ≤ b.toNat) || decide (128 < r.row0 + r.nr) || decide (128 < r.c0 + r.nc) ||
          (r.st && !(m == .f && f.kind == 1)) || (m == .d && f.kind != 1 && f.kind != 4) then s.trap c cMXARG
      else if !s.slotOk c o.x.toNat || f.kind == 7 || f.scm != 0 then s.trap c cILLFMT
      else if s.passes c ext.2 then s.trap c cSPBOUND
      else
        let k1 : Crew := if r.rel then { k with ctx := none } else k
        if s.mosFull c then s
        else s.accept c k1 o.sw (some o.rd) { s.newTile c k (.mdrain o) [a, b] with ctx := some x, sp := [ext] })

/-- The context that MZERO.acq takes: ctxa if it is free, else ctxb (R213). -/
def Core.freeCtx (q : Core) : Option Nat :=
  if (q.ctxs[0]?.any (fun x => x.holder.isNone)) then some 0
  else if (q.ctxs[1]?.any (fun x => x.holder.isNone)) then some 1
  else none

/-- A crew holds context i of its core from now on. -/
def State.takeCtx (s : State) (c : CrewRef) (i : Nat) : State :=
  let q := s.core (s.coreOf c)
  s.putCore (s.coreOf c) { q with ctxs := listSet q.ctxs i { s.ctxAt c i with holder := some c } }

/-- An entry releases its crew's context when it completes (R213). -/
def MosEntry.releases (e : MosEntry) : Bool :=
  e.ctx.isSome &&
  (match e.instr with
   | .mzeroRel _ => true
   | .mdrain _ => (Region.ofNat (listGet 0 e.vals 1).toNat).rel
   | _ => false)

/-- The release of a context that a crew has issued and that has not been done yet (R213, R218). -/
def State.releasing (s : State) (c : CrewRef) : Option MosEntry := (s.mosOf c).find? (fun e => e.crew == c && e.releases)

/-- MZERO.acq (R213, R233): the context is taken at issue and cleared in the instruction's step (log entry 29). Behind a release of the
crew's own that has not been done yet, what it takes is the context that the release frees (State.release). -/
def execMzeroAcq (o : OpD) (s : State) : Out :=
  blockIns s (fun c k =>
    let e := s.newTile c k (.mzeroAcq o) []
    if s.mosFull c then s
    else match k.ctx with
      | some x => s.accept c k o.sw (some o.rd) { e with ctx := some x }
      | none =>
        match s.releasing c with
        | some r => s.accept c { k with ctx := r.ctx } o.sw (some o.rd) { e with ctx := r.ctx }
        | none =>
          match (s.core (s.coreOf c)).freeCtx with
          | some x => (s.takeCtx c x).accept c { k with ctx := some x } o.sw (some o.rd) { e with ctx := some x }
          | none => s.accept c k o.sw (some o.rd) e)

/-- MZERO.clr (R233). -/
def execMzeroClr (o : OpD) (s : State) : Out :=
  blockIns s (fun c k =>
    match k.ctx with
    | none => s.trap c cNOCTX
    | some x => s.accept c k o.sw (some o.rd) { s.newTile c k (.mzeroClr o) [] with ctx := some x })

/-- MZERO.rel (R213, R233). -/
def execMzeroRel (o : OpD) (s : State) : Out :=
  blockIns s (fun c k =>
    if s.mosFull c then s
    else s.accept c { k with ctx := none } o.sw (some o.rd) { s.newTile c k (.mzeroRel o) [] with ctx := k.ctx })

end Sys2Proof.Machine
end

