-- ==== Sys2Proof/Machine/MatrixStep.lean ====
section
/-!
DEFINITION. The steps of the matrix instructions (R183 to R185, R226 to R234): products, distances, softmax state, drains, clears,
and the loads of the weight buffer (R222, R223).
-/

namespace Sys2Proof.Machine

/-! ### binary32 operations with the flags of a matrix instruction (R176, R180, R185) -/

/-- A code and flags. -/
abbrev FR := Nat × Flags

/-- The flags that matrix instructions set. -/
def matFlags (f : Flags) : Flags := f &&& (flagRSVD ||| flagNV ||| flagOF)

/-- round(x, F32, .rn, 0), with NV for a NaN made from operands that are none. -/
def rnFrom (ins : List Ex) (x : Ex) : FR :=
  let r := rn32 x
  (r.code, nvIf (x.isNan && ins.all (fun y => !y.isNan)) ||| matFlags r.flags)

/-- A binary operation on binary32 codes, rounded once. -/
def rn2 (f : Ex → Ex → Ex) (a b : Nat) : FR := rnFrom [val32 a, val32 b] (f (val32 a) (val32 b))

/-- exp2(rn(rn(a - b) × SCALE)) of R229 and R231. -/
def expTerm (a b sc : Nat) : FR :=
  let d := rn2 (Ex.sub false) a b
  let p := rn2 Ex.mul d.1 sc
  let e := exp2R (val32 p.1)
  (e.code, d.2 ||| p.2 ||| matFlags e.flags)

/-- The larger of two codes that are not NaN, by the rule of FMAX, which orders zeros of different sign (R197, log entry 71). -/
def maxCode (a b : Nat) : Nat := minmax fmtF32 true a b

/-- A code is a NaN. -/
def isNanCode (a : Nat) : Bool := (val32 a).isNan

/-- Codes of 1.0, the canonical NaN and minus infinity. -/
def codeOne : Nat := 0x3F800000
def codeNan : Nat := 0x7FC00000
def codeNegInf : Nat := 0xFF800000

/-! ### Contexts -/

/-- C(i, j), rowmax(i) and rowsum(i) as codes. -/
def Ctx.at (x : Ctx) (i j : Nat) : Nat := (sparseGet 0 x.c (128 * i + j)).toNat
def Ctx.maxAt (x : Ctx) (i : Nat) : Nat := (sparseGet f32NegInf x.rowmax i).toNat
def Ctx.sumAt (x : Ctx) (i : Nat) : Nat := (sparseGet 0 x.rowsum i).toNat

/-- Writes of C(i, j), rowmax(i) and rowsum(i). -/
def Ctx.put (x : Ctx) (i j v : Nat) : Ctx := { x with c := sparseSet 0 x.c (128 * i + j) (BitVec.ofNat 32 v) }
def Ctx.putMax (x : Ctx) (i v : Nat) : Ctx := { x with rowmax := sparseSet f32NegInf x.rowmax i (BitVec.ofNat 32 v) }
def Ctx.putSum (x : Ctx) (i v : Nat) : Ctx := { x with rowsum := sparseSet 0 x.rowsum i (BitVec.ofNat 32 v) }

/-- Replaces context i of a crew's core. -/
def State.putCtx (s : State) (c : CrewRef) (i : Nat) (x : Ctx) : State :=
  let q := s.core (s.coreOf c)
  s.putCore (s.coreOf c) { q with ctxs := listSet q.ctxs i x }

/-- A context and the flags that its change has raised. -/
abbrev CF := Ctx × Flags

/-! ### Products (R183, R184, R226, R227) -/

/-- t of R183: the exact sum of the products of a group. -/
def groupSum (ps : List Ex) : Ex := match ps with | [] => .fin false 0 1 | p :: t => t.foldl (Ex.add false) p

/-- C(i, j) takes a group's t, rounded once; NV as R183 states. -/
def accGroup (x : CF) (i j : Nat) (t : Ex) : CF :=
  let cv := val32 (x.1.at i j)
  let y := cv.add false t
  let r := rn32 y
  (x.1.put i j r.code, x.2 ||| nvIf (y.isNan && (t.isNan || !cv.isNan)) ||| matFlags r.flags)

/-- The group length by container width (R183). -/
def groupLen (c : Nat) : Nat := if c = 8 then 4 else if c = 16 then 1 else 8

/-- The B operand of a product: the image, its shape, and where its blocks start. -/
structure BOp where
  img    : Image
  x      : ImgShape
  starts : List Nat
  f      : Slot
  g      : Slot
  deriving DecidableEq, Repr

/-- The B operand of a crew from an image of its core. -/
def State.bOp (s : State) (c : CrewRef) (i : Image) : BOp :=
  let f := s.slotAt c i.slot
  let x : ImgShape := ⟨i.k, i.n, i.t, f.cont⟩
  ⟨i, x, blockStarts (s.core (s.coreOf c)).wbuf i.off x, f, s.slotAt c f.sslot⟩

/-- Element (k, j) of B. -/
def BOp.elem (b : BOp) (m : Sparse Byte) (k j : Nat) : Ex × Bool := imageElem m b.img.off b.x b.starts b.f b.g k j

/-- One crew's rows of a floating-point product, for the groups of one step: t for every group and column (R226). -/
def mmaRows (x : CF) (spad wbuf : Sparse Byte) (t : Tile) (b : BOp) (base n k0 : Nat) : CF :=
  let g := groupLen t.f.cont
  (List.range (16 / g)).foldl (fun x q =>
    let ks := (List.range g).map (fun e => k0 + q * g + e)
    (List.range t.rows).foldl (fun x i =>
      let as := ks.map (fun k => (t.elem spad i k).1)
      (List.range n).foldl (fun x j =>
        accGroup x (base + i) j (groupSum ((as.zip (ks.map (fun k => (b.elem wbuf k j).1))).map (fun p => p.1.mul p.2)))) x) x) x

/-- Some element of A in the K range is reserved. -/
def Tile.reads (t : Tile) (spad : Sparse Byte) (k0 len : Nat) : Bool :=
  (List.range t.rows).any (fun i => (List.range len).any (fun e => (t.elem spad i (k0 + e)).2))

/-- Some element of B in the K range is reserved. -/
def BOp.reads (b : BOp) (wbuf : Sparse Byte) (k0 len : Nat) : Bool :=
  (List.range b.x.n).any (fun j => (List.range len).any (fun e => (b.elem wbuf (k0 + e) j).2))

/-- The bit-product counts of one step of MXPOP (R184, R227). -/
def popRows (x : Ctx) (spad wbuf : Sparse Byte) (t : Tile) (b : BOp) (n k0 : Nat) (isAnd : Bool) : Ctx :=
  let len := min 512 (t.len - k0)
  (List.range t.rows).foldl (fun x i =>
    (List.range n).foldl (fun x j =>
      let cnt := (List.range len).foldl (fun a e =>
        let p := codeAt spad (t.off + i * rowStride t.len 1) (k0 + e) 1
        let q := imageCode wbuf b.img.off b.x b.starts (k0 + e) j
        a + (if isAnd then p * q else (p + q) % 2)) 0
      x.put i j ((x.at i j + cnt) % 2 ^ 32)) x) x

/-- The pair of slots of a product is illegal (R175). -/
def pairBad (pop : Bool) (fa fb : Slot) (k : Nat) : Bool :=
  productSlotBad pop fb k || productSlotBad pop fa k ||
  (!pop && (fa.cont != fb.cont || fb.scm == 1 || fa.scm == 2 || (fa.scm == 3 && fb.scm == 3 && fa.blk != fb.blk)))

/-- The members of a tile instruction: itself, or every member of its joint MMA (R225). -/
def State.membersOf (s : State) (e : MosEntry) : List MosEntry :=
  match e.joint with
  | none => [e]
  | some u => (s.mosOf e.crew).filter (fun x => x.joint == some u)

/-- Every member takes a deferred fault, at the step the joint operation stands at (R225, R352). -/
def State.holdAll (s : State) (es : List MosEntry) (cause st : Nat) : State :=
  es.foldl (fun s e => s.holdTile { e with step := st } cause 0 st) s

/-- The image that a product reads, or the cause of its deferred fault (R226). -/
def State.productImage (s : State) (e : MosEntry) (pop : Bool) (x : Nat) : Except Nat BOp :=
  let b := (listGet 0 e.vals 1).toNat
  match (s.core (s.coreOf e.crew)).images.find? (fun i => i.off == b % 2 ^ 21) with
  | none => .error cWMISS
  | some i =>
    if i.tag.toNat ≠ bitsN b 63 32 ∨ i.world ≠ s.worldOf e.crew ∨ i.asid ≠ s.asidOf e.crew then .error cWMISS
    else
      let o := s.bOp e.crew i
      if !s.slotOk e.crew i.slot || pairBad pop (s.slotAt e.crew x) o.f (gK e.grant) then .error cILLFMT
      else if i.k ≠ gK e.grant ∨ i.n ≠ gN e.grant then .error cMXARG
      else .ok o

/-- The A operand of a product. -/
def State.productTile (s : State) (e : MosEntry) (x : Nat) : Tile :=
  s.tileAt e.crew ((e.vals.headD 0).toNat % 2 ^ 20) (gM e.grant) (gK e.grant) x

/-- One member's rows are added, with its crew's flags (R225, R226). -/
def State.mmaMember (s : State) (home : CrewRef) (ci x k0 : Nat) (b : BOp) (e : MosEntry) : State :=
  let t := s.productTile e x
  let spad := s.spadOf e.crew.blockId
  let wbuf := (s.core (s.coreOf home)).wbuf
  let base := if e.joint.isSome then gangBase e.gang else 0
  let r := mmaRows (s.ctxAt home ci, 0) spad wbuf t b base (gN e.grant) k0
  let rsv := s.recordsRsvd && (t.reads spad k0 16 || b.reads wbuf k0 16)
  (s.putCtx home ci r.1).sticky e.crew (r.2 ||| rsvdIf rsv)

/-- A tile instruction has done a step: it goes on, or completes with a result. -/
def State.stepDone (s : State) (e : MosEntry) (total v : Nat) : State :=
  if total ≤ e.step + 1 then s.finishTile e v else s.setTile { e with started := true, step := e.step + 1 }

/-- A step of MMA (R226), for every member. -/
def State.mmaStep (s : State) (e : MosEntry) (x : Nat) : State :=
  let ms := s.membersOf e
  match s.productImage e false x, e.ctx with
  | .error c, _ => s.holdAll ms c e.step
  | .ok _, none => s
  | .ok b, some ci =>
    let s1 := if e.step = 0 then s.putCtx e.crew ci { s.ctxAt e.crew ci with mode := .f } else s
    let s2 := ms.foldl (fun s m => s.mmaMember e.crew ci x (16 * e.step) b m) s1
    ms.foldl (fun s m => s.stepDone { m with step := e.step } (gK e.grant / 16) 0) s2

/-- A step of MXPOP (R227). -/
def State.mxpopStep (s : State) (e : MosEntry) (x : Nat) : State :=
  match s.productImage e true x, e.ctx with
  | .error c, _ => s.holdAll [e] c e.step
  | .ok _, none => s
  | .ok b, some ci =>
    let t := s.productTile e x
    let y := { s.ctxAt e.crew ci with mode := .i }
    let wbuf := (s.core (s.coreOf e.crew)).wbuf
    let isAnd := bitN (e.vals.headD 0).toNat 20
    let y1 := popRows y (s.spadOf e.crew.blockId) wbuf t b (gN e.grant) (512 * e.step) isAnd
    (s.putCtx e.crew ci y1).stepDone e (ceilDiv (gK e.grant) 512) 0

/-! ### MDIST (R185, R228) -/

/-- A context that enters mode D (R212). -/
def Ctx.enterD (x : Ctx) (k : Nat) : Ctx where
  c := (List.range (128 * 128)).foldl (fun m a => sparseSet 0 m a (if a % 2 = 0 then f32PosInf else 0xFFFFFFFF)) []
  rowmax := (List.range 128).foldl (fun m a => sparseSet f32NegInf m a f32PosInf) []
  rowsum := []
  mode := .d
  k := k
  holder := x.holder

/-- An entry ranks before another: distance, then index. -/
def entryLt (a b : Nat × Nat) : Bool :=
  let x := val32 a.1
  let y := val32 b.1
  x.lt y || (!y.lt x && decide (a.2 < b.2))

/-- Inserts into a ranked list. -/
def rankInsert (e : Nat × Nat) : List (Nat × Nat) → List (Nat × Nat)
  | [] => [e]
  | h :: t => if entryLt e h then e :: h :: t else h :: rankInsert e t

/-- The number of list entries that rowsum(i) holds. -/
def Ctx.listLen (x : Ctx) (i : Nat) : Nat := ((List.range 33).find? (fun n : Nat => (rn32 (Ex.ofInt (n : Int))).code == x.sumAt i)).getD 0

/-- Inserts a candidate into row i (R228). -/
def Ctx.insert (x : Ctx) (i k d idx : Nat) : Ctx :=
  let old := (List.range (x.listLen i)).map (fun t => (x.at i (2 * t), x.at i (2 * t + 1)))
  if old.contains (d, idx) then x
  else
    let new := (rankInsert (d, idx) old).take k
    let x1 := new.zipIdx.foldl (fun x p => (x.put i (2 * p.2) p.1.1).put i (2 * p.2 + 1) p.1.2) x
    let x2 := x1.putSum i (rn32 (Ex.ofInt new.length)).code
    x2.putMax i (if new.length = k then (match new.getLast? with | some e => e.1 | none => 0x7F800000) else 0x7F800000)

/-- d of R228, with its flags. -/
def distance (q c : Nat → Ex) (len : Nat) : FR :=
  (List.range len).foldl (fun a e =>
    let df := (q e).sub false (c e)
    let r := rn32 ((val32 a.1).add false (df.mul df))
    (r.code, a.2 ||| matFlags r.flags)) (0, 0)

/-- One candidate against every query row. -/
def distRows (x : CF) (spad : Sparse Byte) (q c : Tile) (j k idx : Nat) : CF :=
  (List.range q.rows).foldl (fun x i =>
    let d := distance (fun e => (q.elem spad i e).1) (fun e => (c.elem spad j e).1) q.len
    if isNanCode d.1 then (x.1, x.2 ||| d.2 ||| flagNV) else (x.1.insert i k d.1 idx, x.2 ||| d.2)) x

/-- A step of MDIST. -/
def State.mdistStep (s : State) (e : MosEntry) (x : Nat) : State :=
  match e.ctx with
  | none => s
  | some ci =>
    let a := e.vals.headD 0
    let b := (listGet 0 e.vals 1).toNat
    let k := distK a
    let spad := s.spadOf e.crew.blockId
    let q := s.tileAt e.crew (a.toNat % 2 ^ 20) (gM e.grant) (gK e.grant) x
    let c := s.tileAt e.crew (b % 2 ^ 20) (gN e.grant) (gK e.grant) x
    let y := s.ctxAt e.crew ci
    let y0 := if y.mode = .d then y else y.enterD k
    let js := (List.range (min 16 (gN e.grant - 16 * e.step))).map (fun j => 16 * e.step + j)
    let r := js.foldl (fun y j => distRows y spad q c j k ((bitsN b 63 32 + j) % 2 ^ 32)) (y0, 0)
    ((s.putCtx e.crew ci r.1).sticky e.crew r.2).stepDone e (ceilDiv (gN e.grant) 16) 0

/-! ### Softmax state (R229 to R231) -/

/-- The columns of a range. -/
def colsFrom (c n : Nat) : List Nat := (List.range n).map (fun j => c + j)

/-- One row of MSMAX (R229). A row whose new maximum is minus infinity has scores of +0.0, a NaN among them (log entry 118); of two zeros
the maximum is +0 (log entry 71). -/
def softRow (w : Cols) (x : CF) (i : Nat) : CF :=
  let score := colsFrom w.c0 w.ns
  let mo := x.1.maxAt i
  let t := score.foldl (fun m c => if isNanCode (x.1.at i c) then m else maxCode m (x.1.at i c)) codeNegInf
  let mn : FR := if isNanCode mo then (codeNan, flagNV) else (maxCode mo t, 0)
  let low := mn.1 == codeNegInf
  let sc (c : Nat) : FR := if low then (0, 0) else expTerm (x.1.at i c) mn.1 w.sc
  let a : FR := if low then (codeOne, 0) else if mo = codeNegInf then (0, 0) else expTerm mo mn.1 w.sc
  let x1 : CF := score.foldl (fun y c => let v := sc c; (y.1.put i c v.1, y.2 ||| v.2)) (x.1, x.2 ||| mn.2 ||| a.2)
  let x2 : CF := (colsFrom w.o0 w.no).foldl (fun y c => let v := rn2 Ex.mul (y.1.at i c) a.1; (y.1.put i c v.1, y.2 ||| v.2)) x1
  let s0 := rn2 Ex.mul (x.1.sumAt i) a.1
  let sum : FR := score.foldl (fun f c => let v := rn2 (Ex.add false) f.1 (x2.1.at i c); (v.1, f.2 ||| v.2)) s0
  ((x2.1.putSum i sum.1).putMax i mn.1, x2.2 ||| sum.2)

/-- One row of MNORM. -/
def normRow (w : Cols) (x : CF) (i : Nat) : CF :=
  (colsFrom w.o0 w.no).foldl (fun y c =>
    let v := rn2 Ex.div (y.1.at i c) (x.1.sumAt i)
    (y.1.put i c v.1, y.2 ||| v.2)) x

/-- a1 or a2 of R231. -/
def mergeWeight (m1 m sc : Nat) : FR :=
  if m1 = codeNegInf then (if m = codeNegInf then (codeOne, 0) else (0, 0)) else expTerm m1 m sc

/-- round(p × a + q × b), the exact sum of exact products. -/
def rnPair (p a q b : Nat) : FR :=
  rnFrom [val32 p, val32 a, val32 q, val32 b] (((val32 p).mul (val32 a)).add false ((val32 q).mul (val32 b)))

/-- One row of MMERGE, with the words of its state row (R231); of two zeros the maximum is +0 (log entry 71). -/
def mergeRow (w : Cols) (x : CF) (i : Nat) (word : Nat → Nat) : CF :=
  let m1 := x.1.maxAt i
  let m2 := word 0
  let m : FR := if isNanCode m1 || isNanCode m2 then (codeNan, flagNV) else (maxCode m1 m2, 0)
  let a1 := mergeWeight m1 m.1 w.sc
  let a2 := mergeWeight m2 m.1 w.sc
  let l := rnPair (x.1.sumAt i) a1.1 (word 1) a2.1
  let x1 : CF := (List.range w.no).foldl (fun y o =>
    let v := rnPair (y.1.at i (w.o0 + o)) a1.1 (word (2 + o)) a2.1
    (y.1.put i (w.o0 + o) v.1, y.2 ||| v.2)) (x.1, x.2 ||| m.2 ||| a1.2 ||| a2.2 ||| l.2)
  ((x1.1.putSum i l.1).putMax i m.1, x1.2)

/-- The rows of a step of 16, from row 0 of the range. -/
def stepRows (nr st : Nat) : List Nat := (List.range (min 16 (nr - 16 * st))).map (fun i => 16 * st + i)

/-- A step of 16 rows that changes the context only. -/
def State.rowStep (s : State) (e : MosEntry) (nr : Nat) (f : CF → Nat → CF) : State :=
  match e.ctx with
  | none => s
  | some ci =>
    let r := (stepRows nr e.step).foldl f (s.ctxAt e.crew ci, 0)
    ((s.putCtx e.crew ci r.1).sticky e.crew r.2).stepDone e (ceilDiv nr 16) 0

/-- A step of MSMAX. -/
def State.msmaxStep (s : State) (e : MosEntry) : State :=
  let w := Cols.ofNat (e.vals.headD 0).toNat
  let b := (listGet 0 e.vals 1).toNat
  s.rowStep e (bitsN b 15 8 + 1) (fun x i => softRow w x (bitsN b 7 0 + i))

/-- A step of MNORM. -/
def State.mnormStep (s : State) (e : MosEntry) : State :=
  let w := Cols.ofNat (e.vals.headD 0).toNat
  let b := (listGet 0 e.vals 1).toNat
  s.rowStep e (bitsN b 15 8 + 1) (fun x i => normRow w x (bitsN b 7 0 + i))

/-- A step of MMERGE. -/
def State.mmergeStep (s : State) (e : MosEntry) : State :=
  let w := Cols.ofNat (e.vals.headD 0).toNat
  let b := (listGet 0 e.vals 1).toNat
  let spad := s.spadOf e.crew.blockId
  s.rowStep e (stateNr b) (fun x i =>
    mergeRow w x (stateRow b + i) (fun n => word32At spad (stateOff b + i * stateStride w.no + 4 * n)))

/-! ### Draining and clearing (R232, R233) -/

/-- A drained element: its code in the slot and the flags (R180 to R182, R232). -/
def drainWord (mode : CtxMode) (f : Slot) (v : Nat) : FR :=
  let rnd (x : Ex) : FR := let r := roundTo f.fmt f.rm f.osat x; (r.code, r.flags &&& (flagNV ||| flagOF))
  match mode with
  | .d => (v, 0)
  | .i => if f.kind = 4 then (v, 0) else rnd (Ex.ofInt (sextI 32 v))
  | .f => if f.kind = 1 then (v, 0) else rnd (val32 v)
  | .none => if f.kind = 1 then (v, 0) else rnd (val32 v)

/-- The bytes of a drained row, padded with zeros to the stride, and the flags. -/
def drainRow (x : Ctx) (f : Slot) (r : Region) (i : Nat) : List Byte × Flags :=
  let ws := (colsFrom r.c0 r.nc).map (fun c => drainWord x.mode f (x.at i c))
  let bs := if r.st then packCodes 32 (x.maxAt i :: x.sumAt i :: ws.map (·.1)) else packCodes f.cont (ws.map (·.1))
  (bs ++ List.replicate (r.stride f - bs.length) 0, flagsOf (ws.map (·.2)))

/-- An entry is an MZERO.acq. -/
def MosEntry.isAcq (e : MosEntry) : Bool := match e.instr with | .mzeroAcq _ => true | _ => false

/-- A crew's entries, and the crew, use ctxa in the place of ctxb from an entry on. -/
def State.moveToA (s : State) (e : MosEntry) : State :=
  (s.putMos e.crew ((s.mosOf e.crew).map (fun x =>
    if x.crew = e.crew ∧ e.uid < x.uid ∧ x.ctx = some 1 then { x with ctx := some 0 } else x))).modCrew e.crew (fun k =>
      if k.ctx = some 1 then { k with ctx := some 0 } else k)

/-- The release of context i, with contents y, by the last step of an entry (R213): it is free, unless an MZERO.acq that the crew has
issued since waits for it; that one takes ctxa if it is free now, else the context itself (R233, log entry 29). -/
def State.release (s : State) (e : MosEntry) (i : Nat) (y : Ctx) : State :=
  if (s.mosOf e.crew).any (fun x => x.crew == e.crew && decide (e.uid < x.uid) && x.isAcq && x.ctx == some i) then
    if i = 1 ∧ (s.ctxAt e.crew 0).holder = none then ((s.putCtx e.crew 1 { y with holder := none }).takeCtx e.crew 0).moveToA e
    else s
  else s.putCtx e.crew i { y with holder := none }

/-- A step of MDRAIN: up to 16 rows; the last one delivers the count and may release the context. -/
def State.mdrainStep (s : State) (e : MosEntry) (x : Nat) : State :=
  match e.ctx with
  | none => s
  | some ci =>
    let off := (e.vals.headD 0).toNat
    let r := Region.ofNat (listGet 0 e.vals 1).toNat
    let f := s.slotAt e.crew x
    let y := s.ctxAt e.crew ci
    let s1 := (stepRows r.nr e.step).foldl (fun s t =>
      let d := drainRow y f r (r.row0 + t)
      (s.putSpad e.crew.blockId (off + t * r.stride f) d.1).sticky e.crew d.2) s
    let s2 := if r.rel && decide (ceilDiv r.nr 16 ≤ e.step + 1) then s1.release e ci y else s1
    s2.stepDone e (ceilDiv r.nr 16) (r.nr * (if r.st then r.nc + 2 else r.nc))

/-- The step of MZERO.acq and MZERO.clr: the context is cleared, and rd receives its number, or 0 (R233). -/
def State.mzeroStep (s : State) (e : MosEntry) : State :=
  match e.ctx with
  | none => s.finishTile e 0
  | some ci => (s.putCtx e.crew ci (Ctx.clear (some e.crew))).finishTile e (ci + 1)

/-- The step of MZERO.rel: the context is released, and rd receives 0 (R213, R233). -/
def State.mzeroRelStep (s : State) (e : MosEntry) : State :=
  match e.ctx with
  | none => s.finishTile e 0
  | some ci => (s.release e ci (s.ctxAt e.crew ci)).finishTile e 0

/-! ### WLOAD (R222, R223) -/

/-- The regions of 32 KiB that a range touches. -/
def regionsOf (r : Nat × Nat) : Nat × Nat := (r.1 / 32768, (r.2 + 32767) / 32768)

/-- A writer's first step must wait: a reader or writer that comes before it, or one that has begun, remains in the regions that it
writes (R222). A writer that a fault holds does not hold it back, nor does a product that it passes (log entry 28). -/
def State.fillWaits (s : State) (e : MosEntry) (w : Nat × Nat) : Bool :=
  (s.mosOf e.crew).any (fun x => x.uid != e.uid && !e.passes x && (x.isReader || (x.isWriter && !x.held)) &&
    (decide (x.order < e.order) || (x.started && !x.held)) &&
    (match x.span with | some y => rangesMeet (regionsOf y) (regionsOf w) | none => false))

/-- Invalidates the images that overlap a range, and marks its regions filling (R222). -/
def Core.startFill (q : Core) (e : MosEntry) (w : Nat × Nat) : Core :=
  let r := regionsOf w
  { q with images := q.images.filter (fun i => !rangesMeet (i.off, i.off + i.size) w)
           filling := q.filling ++ [(r.1, r.2, e.uid)] }

/-- The fill of an entry is over. -/
def Core.endFill (q : Core) (uid : Nat) : Core := { q with filling := q.filling.filter (fun f => f.2.2 != uid) }

/-- A region of a reader's range is being filled by another (R222). -/
def Core.fillingAt (q : Core) (w : Nat × Nat) : Bool :=
  q.filling.any (fun f => rangesMeet (f.1, f.2.1) (regionsOf w))

/-- The fields of a weight image's header (R219). -/
structure WHead where
  size  : Nat
  check : Nat
  tag   : Nat
  n     : Nat
  k     : Nat
  t     : Bool
  slot  : Nat
  ok    : Bool
  deriving DecidableEq, Repr

def WHead.ofBytes (bs : List Byte) : WHead :=
  let v := Sys2Proof.ofBytes bs
  let k := bitsN v 79 64
  let n := bitsN v 95 80
  { size := bitsN v 159 128, check := bitsN v 191 160, tag := bitsN v 127 96, n := n, k := k, t := bitN v 43
    slot := bitsN v 42 40
    ok := bitsN v 31 0 == 0xC7C05742 && bitsN v 39 32 == 1 && bitsN v 63 44 == 0 && bitsN v 511 192 == 0 &&
      decide (1 ≤ n) && decide (n ≤ 128) && decide (16 ≤ k) && decide (k ≤ 4096) && k % 16 == 0 }

/-- The header that WLOAD.tile builds (R219, R223); CHECK is filled in when the body is there. -/
def tileHeader (g : W32) (w size check : Nat) : List Byte :=
  bytesOf 64 (0xC7C05742 + 1 * 2 ^ 32 + bitsN w 22 20 * 2 ^ 40 + b2n (bitN w 23) * 2 ^ 43 + gK g * 2 ^ 64 + gN g * 2 ^ 80 +
    bitsN w 63 32 * 2 ^ 96 + size * 2 ^ 128 + check * 2 ^ 160)

/-- Bytes of the weight buffer. -/
def State.putWbuf (s : State) (c : CrewRef) (off : Nat) (bs : List Byte) : State :=
  let q := s.core (s.coreOf c)
  s.putCore (s.coreOf c) { q with wbuf := sparseWrite 0 q.wbuf off bs }

/-- Records an image valid, and ends the fill (R222). -/
def State.recordImage (s : State) (e : MosEntry) (off size tag slot k n : Nat) (t : Bool) : State :=
  let q := (s.core (s.coreOf e.crew)).endFill e.uid
  let i : Image := ⟨off, size, BitVec.ofNat 32 tag, slot, k, n, t, s.worldOf e.crew, s.asidOf e.crew⟩
  s.putCore (s.coreOf e.crew) { q with images := q.images ++ [i] }

/-- A WLOAD has its regions marked as filling: not before its first step, and no longer on the core where a saved one is resumed. -/
def Core.fills (q : Core) (e : MosEntry) : Bool := q.filling.any (fun f => f.2.2 == e.uid)

/-- n bytes at byte lo of the body that WLOAD.tile builds: the block data are the source tile's, and the mode map, the codebooks and the
padding are zeros (R220, R223). -/
def tileBody (spad : Sparse Byte) (src : Nat) (x : ImgShape) (lo n : Nat) : List Byte :=
  (List.range n).map (fun i =>
    let a := lo + i
    let d := x.data - 64
    if d ≤ a ∧ a < d + 64 * x.nblk then sparseGet 0 spad (src + (a - d)) else 0)

/-- A step of WLOAD.tile: the header; then 4,096 bytes of the body each (R223, R234). One that is resumed at a step waits for the
readers of its regions, marks them as filling again, and with that step brings the part of the body before it (log entry 31). -/
def State.wloadTileStep (s : State) (e : MosEntry) : State :=
  let w := (e.vals.headD 0).toNat
  let off := (listGet 0 e.vals 1).toNat
  let t := s.sourceTile e.crew e.grant w
  let (x, size) := tileImage e.grant w t.f
  let body := size - 64
  let fills := (s.core (s.coreOf e.crew)).fills e
  if !fills && s.fillWaits e (off, off + size) then s
  else
    let s0 := if fills then s else s.putCore (s.coreOf e.crew) ((s.core (s.coreOf e.crew)).startFill e (off, off + size))
    if e.step = 0 then s0.setTile { e with started := true, step := 1 }
    else
      let lo := if fills then 4096 * (e.step - 1) else 0
      let hi := min body (4096 * e.step)
      let s1 := s0.putWbuf e.crew (off + 64 + lo) (tileBody (s.spadOf e.crew.blockId) t.off x lo (hi - lo))
      if hi < body then s1.setTile { e with started := true, step := e.step + 1 }
      else
        let m := (s1.core (s1.coreOf e.crew)).wbuf
        let check := crc32 (sparseRead 0 m (off + 64) body)
        let s2 := s1.putWbuf e.crew off (tileHeader e.grant w size check)
        (s2.recordImage e off size (bitsN w 63 32) (bitsN w 22 20) x.k x.n x.t).finishTile e 0

/-- WLOAD.img has failed a check (R223): WIMG, held at step 0; regions it was filling are filling no longer. -/
def State.wimgBad (s : State) (e : MosEntry) : State :=
  let q := (s.core (s.coreOf e.crew)).endFill e.uid
  (s.putCore (s.coreOf e.crew) q).holdTile { e with tsr := [] } cWIMG 0 0

/-- A read of WLOAD.img or OVLOAD meets a fault or an uncorrectable error (R223, R273, R352). -/
def State.readBad (s : State) (e : MosEntry) (x : Nat × W64) : State := s.setTile { e with started := true, met := some x }

/-- The last step of WLOAD.img: the modes, SIZE and CHECK (R223). -/
def State.wloadImgEnd (s : State) (e : MosEntry) (h : WHead) (off : Nat) : State :=
  let m := (s.core (s.coreOf e.crew)).wbuf
  let f := s.slotAt e.crew h.slot
  let x : ImgShape := ⟨h.k, h.n, h.t, f.cont⟩
  let size := imageSize x f (s.slotAt e.crew f.sslot) (listGet 0 (blockStarts m off x) x.nblk - off)
  if modesOk m off x && size == h.size && crc32 (sparseRead 0 m (off + 64) (h.size - 64)) == h.check then
    (s.recordImage e off h.size h.tag h.slot h.k h.n h.t).finishTile e 0
  else s.wimgBad e

/-- The first step of WLOAD.img, once its header has been read: while it must wait, its range is known and nothing is written (R222). -/
def State.wloadImgBegin (s : State) (e : MosEntry) (h : WHead) (off : Nat) : State :=
  let w := (off, off + h.size)
  if s.fillWaits e w then s.setTile e
  else
    let s1 := (s.putCore (s.coreOf e.crew) ((s.core (s.coreOf e.crew)).startFill e w)).putWbuf e.crew off e.tsr
    let e1 : MosEntry := { e with started := true, step := 1 }
    if h.size ≤ 64 then s1.wloadImgEnd e1 h off else s1.setTile e1

/-- A step of WLOAD.img; `clean` reads through the slow path, past uncorrectable errors (R223, R273). One that is resumed at a step
brings the part of the body before it with that step, as in wloadTileStep. -/
def State.wloadImgStep (s : State) (e : MosEntry) (clean : Bool) : State :=
  let va := (e.vals.headD 0).toNat
  let off := (listGet 0 e.vals 1).toNat
  if e.step = 0 && !e.tsr.isEmpty then s.wloadImgBegin e (WHead.ofBytes e.tsr) off
  else if e.step = 0 then
    match s.engAccess e.crew e.priv .read va 64 with
    | (.error x, _) => s.readBad e x
    | (.ok ps, s1) =>
      if s.stalledLocs (s.seat e.crew) ps || s.heldLocs ps then s.stallTile e ps
      else if s.poisonedParts ps && !clean then s.readBad e (cMEMERR, BitVec.ofNat 64 va)
      else
        let bs := s.readParts e.crew ps
        let h := WHead.ofBytes bs
        if !h.ok || decide (wbufSize < off + h.size) then s1.wimgBad e
        else
          let w := (off, off + h.size)
          (s1.putCore (s1.coreOf e.crew) ((s1.core (s1.coreOf e.crew)).narrow e w)).wloadImgBegin { e with tsr := bs, wb := some w } h off
  else
    let h := WHead.ofBytes e.tsr
    let fills := (s.core (s.coreOf e.crew)).fills e
    let lo := if fills then 64 + 4096 * (e.step - 1) else 64
    let hi := min h.size (64 + 4096 * e.step)
    match s.engAccess e.crew e.priv .read (va + lo) (hi - lo) with
    | (.error x, _) => s.readBad e x
    | (.ok ps, s1) =>
      if s.stalledLocs (s.seat e.crew) ps || s.heldLocs ps then s.stallTile e ps
      else if s.poisonedParts ps && !clean then s.readBad e (cMEMERR, BitVec.ofNat 64 (va + lo))
      else if !fills && s.fillWaits e (off, off + h.size) then s
      else
        let s2 := if fills then s1
          else (s1.putCore (s1.coreOf e.crew) ((s1.core (s1.coreOf e.crew)).startFill e (off, off + h.size))).putWbuf e.crew off e.tsr
        let s3 := s2.putWbuf e.crew (off + lo) (s.readParts e.crew ps)
        if hi < h.size then s3.setTile { e with started := true, step := e.step + 1 } else s3.wloadImgEnd e h off

end Sys2Proof.Machine
end

