-- ==== Sys2Proof/Machine/Pages.lean ====
section
/-!
DEFINITION. The page unit of the Foreman: the bound serving record (R135), page descriptors and frames (R150 to R153), copying a
page on a write (R154), and migration (R155, R252).
-/

namespace Sys2Proof.Machine

/-! ### What the Foreman reads of a bound context (R135, log entry 76) -/

/-- A serving context as it is held. -/
def State.heldSctx (s : State) (x : Nat) : SCtx := listGet .reset s.fore.ctxs x
/-- Replaces a serving context, with the words of its record. -/
def State.setSctx (s : State) (x : Nat) (c : SCtx) : State := { s with fore := { s.fore with ctxs := listSet s.fore.ctxs x c } }

/-- A byte of a descriptor or bitmap as the Foreman reads it: of a word that has been changed, the old value or the new one, as a free
value says. -/
def State.foreByte (s : State) (x a : Nat) : Byte :=
  match (s.heldSctx x).old? a with
  | some b => if Config.readsOld s.draws (a / 8) then b else s.byte a
  | none => s.byte a

/-- A 64-bit word as the Foreman reads it. -/
def State.foreWord (s : State) (x a : Nat) : W64 :=
  if (s.heldSctx x).stale.isEmpty then s.word64 a
  else BitVec.ofNat 64 (ofBytes ((List.range 8).map (fun i => s.foreByte x (a + i))))

/-- A serving context of the Foreman, with the words of its record as the Foreman reads them: of one that has been changed, the value
from when it was bound or the new one. -/
def State.sctx (s : State) (x : Nat) : SCtx :=
  let c := s.heldSctx x
  if c.stale.isEmpty then c
  else { c with words := (List.range 16).map (fun w =>
    let a := c.bound.getD 0 + 8 * w
    if (List.range 8).any (fun i => (c.old? (a + i)).isSome) && !Config.readsOld s.draws (a / 8) then s.word64 a else listGet 0 c.words w) }

/-- Replaces what a serving context holds besides its record. -/
def State.putSctx (s : State) (x : Nat) (c : SCtx) : State :=
  s.setSctx x { c with words := (s.heldSctx x).words, stale := (s.heldSctx x).stale }

/-- The reads that follow are new reads: what each of them finds of a changed word is another free value. -/
def State.again (s : State) (x : Nat) : State := if (s.heldSctx x).stale.isEmpty then s else s.draw.2

/-- A write by the Foreman itself to a context's record, descriptors or bitmaps: what it writes it reads. The reads after it are new
ones. -/
def State.foreWrite (s : State) (x pa : Nat) (bs : List Byte) : State :=
  let sec := s.worlds.ctx.toNat.testBit x
  if s.reaches sec pa bs.length then
    let s1 := s.memWrite pa bs
    let c := s1.heldSctx x
    (s1.setSctx x { c with stale := c.stale.filter (fun p => decide (p.1 < pa) || decide (pa + bs.length ≤ p.1)) }).again x
  else s.again x

/-! ### Frames of a context (R150) -/

/-- The address of frame f of tier t (R150). -/
def SCtx.frame (c : SCtx) (t f : Nat) : Nat := c.fb t + f * c.pb

/-- No page, and no frame. -/
def noPage : Nat := 0xFFFFFFFF

/-- The first number from i that satisfies a test, among n numbers. -/
def firstFrom (p : Nat → Bool) : Nat → Nat → Option Nat
  | 0, _ => none
  | n + 1, i => if p i then some i else firstFrom p n (i + 1)

/-! ### Page descriptors (R150) -/

/-- A page descriptor; rsv holds its reserved bits. -/
structure Desc where
  ref   : Nat
  pin   : Nat
  state : Nat
  tier  : Nat
  f0    : Nat
  f1    : Nat
  f2    : Nat
  link  : Nat
  rsv   : Bool
  deriving DecidableEq, Repr

/-- The frame of a tier. -/
def Desc.frame (d : Desc) (t : Nat) : Nat := if t = 0 then d.f0 else if t = 1 then d.f1 else d.f2
/-- Sets the frame of a tier. -/
def Desc.setFrame (d : Desc) (t f : Nat) : Desc :=
  if t = 0 then { d with f0 := f } else if t = 1 then { d with f1 := f } else { d with f2 := f }

/-- The four words of a descriptor. -/
def Desc.words (d : Desc) : List W64 :=
  [BitVec.ofNat 64 (d.ref * 2 ^ 48 + d.pin * 2 ^ 32 + d.state * 2 ^ 29 + d.tier * 2 ^ 27),
   BitVec.ofNat 64 (d.f1 * 2 ^ 32 + d.f0), BitVec.ofNat 64 d.f2, BitVec.ofNat 64 d.link]

/-- The world of a serving context (R292). -/
def State.ctxWorld (s : State) (x : Nat) : Bool := s.worlds.ctx.toNat.testBit x

/-- The address of descriptor p. -/
def State.descAt (s : State) (x p : Nat) : Nat := (s.sctx x).desc + 32 * p

/-- Descriptor p of a context. -/
def State.desc (s : State) (x p : Nat) : Desc :=
  let w (i : Nat) : Nat := (s.foreWord x (s.descAt x p + 8 * i)).toNat
  ⟨bitsN (w 0) 63 48, bitsN (w 0) 47 32, bitsN (w 0) 31 29, bitsN (w 0) 28 27, bitsN (w 1) 31 0, bitsN (w 1) 63 32,
   bitsN (w 2) 31 0, bitsN (w 3) 31 0, bitsN (w 0) 26 0 != 0 || bitsN (w 2) 63 32 != 0 || bitsN (w 3) 63 32 != 0⟩

/-- Writes a descriptor. -/
def State.putDesc (s : State) (x p : Nat) (d : Desc) : State :=
  s.foreWrite x (s.descAt x p) (d.words.flatMap (fun w => bytesOf 8 w.toNat))

/-- The address of a page's data: its frame in its TIER. -/
def State.pageAt (s : State) (x p : Nat) : Nat := let d := s.desc x p; (s.sctx x).frame d.tier (d.frame d.tier)

/-- A page operand that the page instructions accept (R156). -/
def State.pageOk (s : State) (x p : Nat) : Bool :=
  decide (p < (s.sctx x).npg) && (let st := (s.desc x p).state; decide (1 ≤ st) && decide (st ≤ 4))

/-! ### Frames (R150) -/

/-- Frame f of tier t is in use. -/
def State.frameUsed (s : State) (x t f : Nat) : Bool := (s.foreByte x ((s.sctx x).bitmapAt t + f / 8)).toNat.testBit (f % 8)

/-- Sets or clears the bit of a frame. -/
def State.markFrame (s : State) (x t f : Nat) (used : Bool) : State :=
  let a := (s.sctx x).bitmapAt t + f / 8
  let m : Byte := 1 <<< (f % 8)
  let b := s.foreByte x a
  s.foreWrite x a [if used then b ||| m else b &&& ~~~m]

/-- The frame that a tier gives: its lowest clear bit (R150). -/
def State.freeFrame (s : State) (x t : Nat) : Option Nat :=
  firstFrom (fun f => !s.frameUsed x t f) ((s.sctx x).fn t) 0

/-- How many frames of a tier are free. -/
def State.freeFrames (s : State) (x t : Nat) : Nat :=
  ((List.range ((s.sctx x).fn t)).filter (fun f => !s.frameUsed x t f)).length

/-! ### Allocation, references and pins (R150, R153, R156) -/

/-- Takes the head of the free list and a frame of a tier: REF 1, PIN 0, STATE 1. -/
def State.allocPage (s : State) (x t : Nat) : Option (Nat × State) :=
  let c := s.sctx x
  if c.freeHd = noPage then none
  else match s.freeFrame x t with
    | none => none
    | some f =>
      let p := c.freeHd
      let s1 := (s.markFrame x t f true).putSctx x { c with freeHd := (s.desc x p).link }
      some (p, s1.putDesc x p ((⟨1, 0, 1, t, noPage, noPage, noPage, noPage, false⟩ : Desc).setFrame t f))

/-- A migration of the page is in progress, or waits for its pins. -/
def State.migrating (s : State) (x p : Nat) : Bool := s.fore.migs.any (fun m => m.ctx == x && m.page == p)

/-- Frees a page: its frame's bit clears, with that of a frame which a migration that has not begun had taken for it, and it is pushed
at the head of the free list. -/
def State.freePage (s : State) (x p : Nat) : State :=
  let d := s.desc x p
  let c := s.sctx x
  let s1 := (s.fore.migs.filter (fun m => m.ctx == x && m.page == p)).foldl (fun s m => s.markFrame x m.toTier m.toFrm false) s
  let s2 : State := { s1 with fore := { s1.fore with migs := s1.fore.migs.filter (fun m => m.ctx != x || m.page != p) } }
  let s3 := (s2.markFrame x d.tier (d.frame d.tier) false).putSctx x { c with freeHd := p }
  s3.putDesc x p ⟨0, 0, 0, 0, noPage, noPage, noPage, c.freeHd, false⟩

/-- Entry j of the block table at an address (R151). -/
def State.entry (s : State) (btab j : Nat) : Nat := (s.word32 (btab + 4 * j)).toNat
/-- Writes an entry, for a world. -/
def State.putEntry (s : State) (sec : Bool) (btab j p : Nat) : State := s.unitWrite sec (btab + 4 * j) (bytesOf 4 p)

/-- Entries 0 to n - 1 of a block table that name a page. -/
def State.pagesOf (s : State) (btab n : Nat) : List Nat :=
  ((List.range n).map (fun j => s.entry btab j)).filter (fun p => p != noPage)

/-- The page belongs to a record of the context that is being sent (R166). -/
def State.pageSent (s : State) (x p : Nat) : Bool :=
  s.fore.sends.any (fun h => h.ctx == x &&
    (s.pagesOf (bitsN (s.req h.idx 3).toNat 51 0) (bitsN (s.req h.idx 4).toNat 63 32)).contains p)

/-- The page becomes quiesced for its migration, and holds both frames (R150, R153, R252 step 1). -/
def State.quiesce (s : State) (x p : Nat) : State :=
  match s.fore.migs.find? (fun m => m.ctx == x && m.page == p) with
  | none => s
  | some m =>
    let s1 : State := { s with fore := { s.fore with migs := s.fore.migs.map (fun y => if y = m then { m with stage := .quiet } else y) } }
    s1.putDesc x p ({ s.desc x p with state := 2 }.setFrame m.toTier m.toFrm)

/-- What follows when a page's counts or STATE have changed (R153, R156, R166): without references and pins it is freed, also while it is
being sent; a migration that waits for its pins begins; a page of a record that is sent goes to STATE 4. While it migrates, the end
of the migration comes first (log entry 28). -/
def State.settlePage (s : State) (x p : Nat) : State :=
  let d := s.desc x p
  if d.pin ≠ 0 ∨ d.state = 0 ∨ d.state = 2 then s
  else if d.ref = 0 then s.freePage x p
  else if d.state = 1 ∧ s.migrating x p then s.quiesce x p
  else if d.state = 1 ∧ s.pageSent x p then s.putDesc x p { d with state := 4 }
  else s

/-- Drops one reference (R156): the new REF, and the state. A REF of 0 stays 0. -/
def State.dropPage (s : State) (x p : Nat) : Nat × State :=
  let d := s.desc x p
  let r := d.ref - 1
  (r, (s.putDesc x p { d with ref := r }).settlePage x p)

/-- Pins a page, unless the pin must wait: the page is quiesced or being sent, or PIN is at its limit (R153). -/
def State.pinPage (s : State) (x p : Nat) : Option State :=
  let d := s.desc x p
  if d.state = 2 ∨ d.state = 4 ∨ 65535 ≤ d.pin then none else some (s.putDesc x p { d with pin := d.pin + 1 })

/-- Releases a pin (R153). -/
def State.unpinPage (s : State) (x p : Nat) : State :=
  let d := s.desc x p
  (s.putDesc x p { d with pin := d.pin - 1 }).settlePage x p

/-- The ranges that page operations reach: a descriptor; the bitmap of a tier; the head of the free list with a tier's bitmap; and, for
a page whose reference is dropped, its descriptor and its frame's place in the bitmap. -/
def State.descSpan (s : State) (x p : Nat) : Nat × Nat := (s.descAt x p, 32)
def State.mapSpan (s : State) (x t : Nat) : Nat × Nat := ((s.sctx x).bitmapAt t, ceilDiv ((s.sctx x).fn t) 8)
def State.allocSpans (s : State) (x t : Nat) : List (Nat × Nat) :=
  if (s.sctx x).freeHd = noPage ∨ (s.sctx x).fn t = 0 then [] else [s.descSpan x (s.sctx x).freeHd, s.mapSpan x t]
def State.dropSpans (s : State) (x p : Nat) : List (Nat × Nat) :=
  let d := s.desc x p
  [s.descSpan x p, ((s.sctx x).bitmapAt d.tier + d.frame d.tier / 8, 1)]

/-- Copies n bytes of memory; poisoned granules stay poisoned in the copy (R253). -/
def State.copyBytes (s : State) (src dst n : Nat) : State :=
  let s1 := s.memWrite dst (sparseRead unlistedByte s.mem src n)
  let bad := ((granules8 src n).filter s.poison.contains).map (fun g => g - src / 8 + dst / 8)
  if bad.isEmpty then s1 else { s1 with poison := s1.poison ++ bad }

/-- The page unit may reach the frame at an address for a context (R291). -/
def State.frameReach (s : State) (x pa : Nat) : Bool := s.reaches (s.ctxWorld x) pa (s.sctx x).pb

/-- Copies the contents of page p to page q; the callers have tested that the page unit may reach both frames. -/
def State.copyPage (s : State) (x p q : Nat) : State := s.copyBytes (s.pageAt x p) (s.pageAt x q) (s.sctx x).pb

/-- What a page operation comes to, with the state as far as it has come: it is done; no page or frame is free; the page unit may not
reach something (R291); or it must wait, perhaps for a migration of a page to a tier, which has then begun in that state. -/
inductive Moved
  | done (s : State)
  | noFrame (s : State)
  | refused
  | wait (s : State) (start : Option (Nat × Nat))

/-- The page unit may make its accesses to some ranges for a context (R291). -/
def State.unitReach (s : State) (x : Nat) (spans : List (Nat × Nat)) : Bool := spans.all (fun r => s.reaches (s.ctxWorld x) r.1 r.2)

/-- Its accesses to some ranges must wait (R252, R301). -/
def State.unitWaits (s : State) (spans : List (Nat × Nat)) : Bool := spans.any (fun r => s.stalledPa 0 r.1 r.2)

/-- A page operation that goes on after accesses of the page unit to some ranges. -/
def State.unitMay (s : State) (x : Nat) (spans : List (Nat × Nat)) (f : Moved) : Moved :=
  if !s.unitReach x spans then .refused else if s.unitWaits spans then .wait s none else f

/-- The frames of pages. -/
def State.frameSpan (s : State) (x p : Nat) : Nat × Nat := (s.pageAt x p, (s.sctx x).pb)

/-- Copy on write (R154): the page that entry j holds after a write check of it. A page of one reference is written in place; another is
copied under a pin, which may have to wait (R153). The walker holds the pin only for the copy, which is one step here. -/
def State.writeCheck (s : State) (x btab j : Nat) : Moved :=
  let p := s.entry btab j
  let d := s.desc x p
  s.unitMay x [s.descSpan x p] (
    if d.ref ≤ 1 then .done s
    else if (s.pinPage x p).isNone then .wait s none
    else s.unitMay x ((btab + 4 * j, 4) :: s.allocSpans x d.tier) (
      match s.allocPage x d.tier with
      | none => .noFrame s
      | some (q, s1) =>
        s1.unitMay x [s1.frameSpan x p, s1.frameSpan x q] (
          .done (((s1.copyPage x p q).putEntry (s.ctxWorld x) btab j q).dropPage x p).2)))

/-! ### Migration (R155, R252) -/

/-- The frame that a migration of a page to a tier would take, and the page's own, are ones that the page unit may reach (R291). -/
def State.moveReach (s : State) (x p t : Nat) : Bool :=
  match s.freeFrame x t with
  | none => true
  | some f => s.frameReach x (s.pageAt x p) && s.frameReach x ((s.sctx x).frame t f)

/-- Starts the migration of a page to a tier: the target frame is taken, and the page is quiesced at once, or when its pins clear; none
when the target has no free frame. -/
def State.startMigration (s : State) (x p t tag : Nat) : Option State :=
  let d := s.desc x p
  let c := s.sctx x
  match s.freeFrame x t with
  | none => none
  | some f =>
    let m : Migration := ⟨x, p, t, f, s.pageAt x p, c.frame t f, c.pb, tag, .pinned⟩
    let s1 := s.markFrame x t f true
    let s2 : State := { s1 with fore := { s1.fore with migs := s1.fore.migs ++ [m] } }
    some (if d.pin = 0 ∧ d.state = 1 then s2.quiesce x p else s2)

/-- Writes the destination that waits for a tag. -/
def State.deliverTag (s : State) (tag v : Nat) : State :=
  if tag = 0 then s
  else
    let put (e : Pending) : Pending := if e.tag = tag ∧ e.val = none then { e with val := some v } else e
    { s with crews := s.crews.map (fun p => (p.1, { p.2 with out := p.2.out.map put })) }

/-! ### Generations and the remapping of leaves (R252, R283, R288, R289) -/

/-- Every engine of the package adopts a generation of an address space; when it wraps to 0 its cached entries are discarded
(R288). -/
def State.adoptGen (s : State) (q : Nat) (g : BitVec 16) : State :=
  let keep (l : List TlbEntry) : List TlbEntry := if g = 0 then l.filter (fun t => t.asid != q) else l
  { s with
    cores := s.cores.map (fun k => { k with tlb := keep k.tlb, tte := keep k.tte, gens := sparseSet 0 k.gens q g })
    ctls := s.ctls.map (fun k => { k with tlb := keep k.tlb, tte := keep k.tte, gens := sparseSet 0 k.gens q g }) }

/-- A leaf of a page table: its address space, the address of its entry, its level, and the entry. -/
structure LeafAt where
  space : Nat
  addr  : Nat
  level : Nat
  e     : Nat
  deriving DecidableEq, Repr

/-- The leaf maps some byte from lo to hi. -/
def LeafAt.maps (l : LeafAt) (lo hi : Nat) : Bool := decide (pteFrame l.e < hi) && decide (lo < pteFrame l.e + 2 ^ leafBits l.level)

/-- A node of a page table: its address space, the address of the entry that names it (none for the root, which QROOT names), and its
own address. -/
structure NodeAt where
  space : Nat
  addr  : Option Nat
  node  : Nat
  deriving DecidableEq, Repr

/-- Ranges overlap. -/
def meets (lo hi : Nat) (r : Nat × Nat) : Bool := decide (r.1 < hi) && decide (lo < r.1 + r.2)

/-- The nodes of a page table below a node, with it, and its leaves; an entry that no walk would use is passed over. -/
def State.tableOf (s : State) (q : Nat) (sec : Bool) : Nat → List NodeAt × List LeafAt → Option Nat → Nat → List NodeAt × List LeafAt
  | 0, a, _, _ => a
  | n + 1, a, addr, node =>
    if !s.reaches sec node 0x10000 then a
    else (List.range 8192).foldl (fun (a : List NodeAt × List LeafAt) i =>
      let e := (s.word64 (node + 8 * i)).toNat
      if !pteV e || pteBad sec n e then a
      else if pteLeaf e then (a.1, a.2 ++ [⟨q, node + 8 * i, n, e⟩])
      else s.tableOf q sec n a (some (node + 8 * i)) (pteFrame e)) (a.1 ++ [⟨q, addr, node⟩], a.2)

/-- The page table of an address space; one that is not enabled translates nothing (R280). -/
def State.table (s : State) (q : Nat) : List NodeAt × List LeafAt :=
  let p := s.space q
  if p.en then s.tableOf q (s.spaceWorld q) 3 ([], []) none (p.root.toNat * 2 ^ 16) else ([], [])

/-- The leaves, of every address space, that map some byte from lo to hi. -/
def State.leavesOver (s : State) (lo hi : Nat) : List LeafAt :=
  (List.range 34).flatMap (fun q => (s.table q).2.filter (fun l => l.maps lo hi))

/-- The nodes, of every address space, that hold some byte from lo to hi. -/
def State.nodesOver (s : State) (lo hi : Nat) : List NodeAt :=
  (List.range 34).flatMap (fun q => (s.table q).1.filter (fun n => meets lo hi (n.node, 0x10000)))

/-- The ranges of memory that a bound context uses (R135): its record, descriptors, bitmaps, intake ring, template, plan, input and
frames. -/
def SCtx.ranges (c : SCtx) : List (Nat × Nat) :=
  match c.bound with
  | none => []
  | some _ =>
    c.bases ++
    [(c.intake, 128 * 2 ^ c.log2in), (c.tmpl, 136), (c.plan, 0x20040 + 32 * 16384), (c.input, 4 * c.budget),
     (c.fb 0, c.fn 0 * c.pb), (c.fb 1, c.fn 1 * c.pb), (c.fb 2, c.fn 2 * c.pb)]

/-- Memory from lo to hi is in use, as far as the device can tell: a page table lies in it or maps it, a serving context uses it, or a
save area or a migration's frame lies in it. A leaf that maps more than 64 KiB, such as one of 4 TiB over both tiers, counts only where
something has been written (log entry 39). -/
def State.memoryInUse (s : State) (lo hi : Nat) : Bool :=
  (s.leavesOver lo hi).any (fun l => l.level == 0 || s.mem.any (fun p => decide (lo ≤ p.1) && decide (p.1 < hi))) ||
  !(s.nodesOver lo hi).isEmpty ||
  [0, 1].any (fun x => (s.sctx x).ranges.any (meets lo hi)) ||
  (s.saves.free0 ++ s.saves.free1 ++ s.launches.flatMap (fun l => l.saved.map (fun v => v.area)) ++
    s.blocks.map (fun p => p.2.area)).any (fun a => meets lo hi (a, 39 * 0x10000)) ||
  s.fore.migs.any (fun m => meets lo hi (m.src, m.size) || meets lo hi (m.dst, m.size))

/-- Three uncorrectable errors within 2^44 aclk: the core is to be retired (R330). -/
def threeErrors : List Nat → Bool
  | a :: b :: c :: t => decide (c ≤ a + 2 ^ 44) || threeErrors (b :: c :: t)
  | _ => false

/-- The slice of a core (R27). -/
def sliceBase (k : Nat) : Nat := k * 0x03000000
def inSlice (k pa : Nat) : Bool := decide (sliceBase k ≤ pa) && decide (pa < sliceBase (k + 1))

/-- An address lies in the slice of a core that is to be retired. -/
def State.inLostSlice (s : State) (pa : Nat) : Bool := tierOf pa == 0 && threeErrors (s.core (pa / 0x03000000)).errors

/-- A frame of 64 KiB that the firmware takes for itself: a free value, of which it can use only one that is memory of a world, lies in
the slice of no core that is to be retired, and is not in use (log entry 39). -/
def State.firmwareFrame (s : State) (sec : Bool) : Option Nat × State :=
  let d := s.draw
  let g := d.1 % 2 ^ 36 * 2 ^ 16
  (if decide (tierOf g ≤ 1) && d.2.reaches sec g 0x10000 && !d.2.inLostSlice g && !d.2.memoryInUse g (g + 0x10000) then some g else none,
    d.2)

/-- A leaf that maps a frame, with its TIER (R283, R284), and has the rights of another. -/
def leafTo (e frame : Nat) : Nat := e - pteFrame e - bitsN e 9 8 * 2 ^ 8 + frame + tierOf frame * 2 ^ 8

/-- The firmware splits a leaf of level 1 or 2 (R289): a node of 8,192 leaves of the level below, which map the same frames with the same
rights, takes its place. -/
def State.splitLeaf (s : State) (l : LeafAt) : State :=
  match s.firmwareFrame (s.spaceWorld l.space) with
  | (none, s1) => s1
  | (some g, s1) =>
    let sub (i : Nat) : List Byte := bytesOf 8 (leafTo l.e (pteFrame l.e + i * 2 ^ leafBits (l.level - 1)))
    (s1.memWrite g ((List.range 8192).flatMap sub)).putWord64 l.addr (BitVec.ofNat 64 (g + 1))

/-- Where a byte lies once a migration has copied its page. -/
def Migration.moved (m : Migration) (a : Nat) : Nat := if m.src ≤ a ∧ a < m.src + m.size then a - m.src + m.dst else a

/-- The firmware changes a leaf of 64 KiB that maps a part of the page to the target frame, with its TIER (R252 step 4). -/
def State.retarget (s : State) (m : Migration) (l : LeafAt) : State :=
  s.putWord64 (m.moved l.addr) (BitVec.ofNat 64 (leafTo l.e (m.moved (pteFrame l.e))))

/-- The firmware changes what names a node that the page holds: the entry of the node above it, or QROOT (R28, R252 step 4). -/
def State.renode (s : State) (m : Migration) (n : NodeAt) : State :=
  match n.addr with
  | some a => let e := (s.word64 (m.moved a)).toNat; s.putWord64 (m.moved a) (BitVec.ofNat 64 (e - pteFrame e + m.moved n.node))
  | none => s.putSpace n.space { s.space n.space with root := BitVec.ofNat 36 (m.moved n.node / 2 ^ 16) }

/-- The descriptor of a page that migrates takes its target frame and TIER (R252 step 4). -/
def State.redescribe (s : State) (m : Migration) : State :=
  if 2 ≤ m.ctx then s
  else s.putDesc m.ctx m.page { (s.desc m.ctx m.page).setFrame m.toTier m.toFrm with tier := m.toTier }

/-- Step 4 of R252: the descriptor, every leaf that maps the page and what names the nodes that it holds change, and the generation of
each of the leaves' address spaces is raised (R289): the state, and the generations that ACKGEN has to reach. -/
def State.remap (s : State) (m : Migration) (ls : List LeafAt) (ns : List NodeAt) : State × List (Nat × BitVec 16) :=
  let s1 := ns.foldl (fun s n => s.renode m n) (ls.foldl (fun s l => s.retarget m l) (s.redescribe m))
  ((ls.map (fun l => l.space)).eraseDups).foldl (fun a q =>
    let p := a.1.space q
    (a.1.putSpace q { p with gen := p.gen + 1 }, a.2 ++ [(q, p.gen + 1)])) (s1, [])

/-- ACKGEN of an address space has reached a generation that was raised. -/
def State.acked (s : State) (a : Nat × BitVec 16) : Bool :=
  let p := s.space a.1
  decide ((p.gen - p.ack).toNat ≤ (p.gen - a.2).toNat)

/-- The tier of the source frame of a page that migrates to a tier: the other one in which it holds a frame. -/
def Desc.fromTier (d : Desc) (t : Nat) : Nat := ([0, 1, 2].find? (fun i => i != t && d.frame i != noPage)).getD d.tier

/-- Step 5 of R252: the source frame is freed, and STATE is 1 again. -/
def State.releasePage (s : State) (m : Migration) : State :=
  let s1 : State := { s with fore := { s.fore with migs := s.fore.migs.filter (fun y => y != m) } }
  if 2 ≤ m.ctx then s1
  else
    let d := s.desc m.ctx m.page
    let t := d.fromTier m.toTier
    let s2 := s1.markFrame m.ctx t (d.frame t) false
    let s3 := s2.putDesc m.ctx m.page { d.setFrame t noPage with state := 1 }
    (s3.settlePage m.ctx m.page).deliverTag m.tag m.toTier

/-- The world for which a migration moves its frame. -/
def State.migWorld (s : State) (m : Migration) : Bool := if m.ctx < 2 then s.ctxWorld m.ctx else s.worlds.secure.contains (granule m.src)

/-- Steps 3 to 5 of R252 for a page that no leaf maps: it is copied and released. -/
def State.endMigration (s : State) (m : Migration) : State := ((s.copyBytes m.src m.dst m.size).redescribe m).releasePage m

/-- A copy is inside a step whose addresses were translated in an address space (R288). -/
def State.stepOpen (s : State) (q : Nat) : Bool :=
  s.cores.any (fun k => k.mos.any (fun e => e.part.isSome && s.asidOf e.crew == q))

/-- What a migration reaches besides its frames: its page's descriptor, and the bitmaps of its context. -/
def State.migSpans (s : State) (m : Migration) : List (Nat × Nat) :=
  if 2 ≤ m.ctx then [] else s.descSpan m.ctx m.page :: (s.sctx m.ctx).bases.drop 2

/-- A migration must wait: for the way to its frames, or to its page's descriptor and the bitmaps (R252, R301). -/
def State.migStalls (s : State) (m : Migration) : Bool :=
  !s.pathOpen 0 m.src || !s.pathOpen 0 m.dst || s.unitWaits (s.migSpans m)

/-- A migration goes on (R252, R289): from the quiesced page, the page is copied, the firmware splits the leaves that map more than
64 KiB, changes those that map the page, with what names the nodes of page tables in it, and raises the leaves' generations; the page is
released when every engine has adopted them. A page that shares its 64 KiB leaf with others, or holds a part of a node, waits until
software has taken that leaf or node away (log entry 53). -/
def State.stepMigration (s : State) (m : Migration) : State :=
  let hi := m.src + m.size
  if s.migStalls m then s
  else match m.stage with
  | .pinned => s
  | .remapped gens => if gens.all s.acked then s.releasePage m else s
  | .quiet =>
    let ls := s.leavesOver m.src hi
    let ns := s.nodesOver m.src hi
    if !(s.reaches (s.migWorld m) m.src m.size && s.reaches (s.migWorld m) m.dst m.size) then s
    else if ls.isEmpty && ns.isEmpty then s.endMigration m
    else if !s.firmwareRuns then s
    else match ls.find? (fun l => l.level != 0) with
      | some l => s.splitLeaf l
      | none =>
        if ls.any (fun l => decide (pteFrame l.e < m.src) || decide (hi < pteFrame l.e + 0x10000)) ||
            ns.any (fun n => decide (n.node < m.src) || decide (hi < n.node + 0x10000)) then s
        else
          let r := (s.copyBytes m.src m.dst m.size).remap m ls ns
          { r.1 with fore := { r.1.fore with
              migs := r.1.fore.migs.map (fun y => if y = m then { m with stage := .remapped r.2 } else y) } }

/-- The frames of a migration of a page to a tier, when the tier has a free one (R291). -/
def State.moveSpans (s : State) (x p t : Nat) : List (Nat × Nat) :=
  match s.freeFrame x t with
  | none => []
  | some f => [s.frameSpan x p, ((s.sctx x).frame t f, (s.sctx x).pb)]

/-- Migrates a page at once (R143, R276): it waits for the page's pins or its state, for a migration of the page, for the way to its
frames, and where page tables map the page or lie in it, for the migration that then begins. -/
def State.moveNow (s : State) (x p t : Nat) : Moved :=
  let d := s.desc x p
  if d.state ≠ 1 ∨ d.pin ≠ 0 ∨ s.migrating x p then .wait s none
  else s.unitMay x (s.descSpan x p :: (if (s.sctx x).fn t = 0 then [] else [s.mapSpan x t]) ++ s.moveSpans x p t) (
    match s.startMigration x p t 0 with
    | none => .noFrame s
    | some s1 =>
      match s1.fore.migs.getLast? with
      | none => .wait s none
      | some m =>
        if (s.leavesOver m.src (m.src + m.size)).isEmpty && (s.nodesOver m.src (m.src + m.size)).isEmpty then .done (s1.endMigration m)
        else .wait s1 (some (p, t)))

/-- The migration that an operation waits for begins, if none of the page has begun. -/
def State.startAwaited (s : State) (x : Nat) (w : Option (Nat × Nat)) : State :=
  match w with
  | none => s
  | some (p, t) => if s.migrating x p then s else (s.startMigration x p t 0).getD s

/-- MIGRATION_COMPLETE (R252): the migrations in progress go on in any order; k is a place in the list. -/
def execMigrationComplete (k : Nat) (s : State) : Out :=
  .next (match s.fore.migs.drop k with | m :: _ => s.stepMigration m | [] => s)

/-- PAGE_MIGRATION_ENGINE_MOVE (R155, R252): the migration engine moves a live page without pins to another tier; not one of whose frames
the page unit may not reach (log entry 95). -/
def execPageMigrationEngineMove (x p t : Nat) (s : State) : Out :=
  .next (
    let d := s.desc x p
    if (s.sctx x).bound.isSome && !(s.sctx x).frozen && decide (p < (s.sctx x).npg) && decide (t ≤ 2) && d.tier != t &&
        d.state == 1 && d.pin == 0 && d.ref != 0 && !s.migrating x p && s.moveReach x p t &&
        !s.unitWaits [s.descSpan x p, s.mapSpan x t] then
      (s.startMigration x p t 0).getD s
    else s)

/-- ACKGEN_UPDATE (R288): every engine adopts the next generation of an address space, and ACKGEN takes it, once no copy is inside a step
that was translated before; no other translation outlives its instruction here. -/
def execAckgenUpdate (q : Nat) (s : State) : Out :=
  .next (
    let p := s.space q
    if q < 34 ∧ p.ack ≠ p.gen ∧ !s.stepOpen q then (s.putSpace q { p with ack := p.ack + 1 }).adoptGen q (p.ack + 1) else s)

/-! ### What leaves a core with a tile instruction that is withdrawn -/

/-- Releases the pins of a copy (R273, R276). -/
def State.unpinTile (s : State) (e : MosEntry) : State :=
  (e.pins.foldl (fun s p => s.unpinPage p.1 p.2) s).setTile { e with pins := [] }

/-- Withdraws a tile instruction (R111, R213): its pins are released, the regions that it was filling stay invalid, and an overlay
slot that it was loading stays empty. -/
def State.withdraw (s : State) (e : MosEntry) : State :=
  let s1 := (s.unpinTile e).dropTile e
  let empty (o : OvSlot) : OvSlot := if o.loading = some e.uid then .empty else o
  let s2 := s1.putSlots e.crew ((s1.slotsOf e.crew).map empty)
  match e.crew with
  | .ctl _ => s2
  | .blk _ _ =>
    let k := s2.core (s2.coreOf e.crew)
    s2.putCore (s2.coreOf e.crew) { k with filling := k.filling.filter (fun f => f.2.2 != e.uid) }

end Sys2Proof.Machine
end

