-- ==== Sys2Proof/Machine/Copies.lean ====
section
/-!
DEFINITION. Copies (R267 to R277): tensor records, the checks at issue, chunk ownership, and the steps; TWAIT and TGIVE (R270);
and OVLOAD (R278).
-/

namespace Sys2Proof.Machine

/-! ### Tensor shape-and-stride records (R267, R268) -/

/-- A tensor record; rsv says that a reserved bit is set or VER is not 1. -/
structure Tsr where
  kind    : Nat
  rank    : Nat
  slot    : Nat
  ctx     : Nat
  base    : Nat
  dims    : List Nat
  strides : List Nat
  rsv     : Bool
  deriving DecidableEq, Repr

/-- The fields of the 64 bytes. -/
def Tsr.ofBytes (bs : List Byte) : Tsr :=
  let v := Sys2Proof.ofBytes bs
  { kind := bitsN v 9 8
    rank := bitsN v 12 10
    slot := bitsN v 15 13
    ctx := bitsN v 16 16
    base := bitsN v 127 64
    dims := [bitsN v 159 128, bitsN v 191 160, bitsN v 223 192, bitsN v 255 224, bitsN v 287 256]
    strides := [0, bitsN v 335 288, bitsN v 383 336, bitsN v 431 384, bitsN v 479 432]
    rsv := bitsN v 63 17 != 0 || bitsN v 511 480 != 0 || bitsN v 7 0 != 1 }

/-- DIMd and STRIDEd. -/
def Tsr.dim (t : Tsr) (d : Nat) : Nat := listGet 0 t.dims d
def Tsr.stride (t : Tsr) (d : Nat) : Nat := listGet 0 t.strides d

/-- The bound of index d: 1 past the rank (R268). -/
def Tsr.bound (t : Tsr) (d : Nat) : Nat := if d < t.rank then t.dim d else 1

/-- A virtual address lies in a scratchpad window (R236). -/
def inSpadWindow (va : Nat) : Bool :=
  (decide (0xFFFFFFFFF0000000 ≤ va) && decide (va < 0xFFFFFFFFF0100000)) ||
  (decide (0xFFFFFFFFE0000000 ≤ va) && decide (va < 0xFFFFFFFFE2000000))

/-- The serving context of a paged record is bound, of the crew's world and of its job (R268). -/
def State.ctxFits (s : State) (c : CrewRef) (x : Nat) : Bool :=
  let q := s.sctx x
  q.bound.isSome && s.worlds.ctx.toNat.testBit x == s.worldOf c && q.job == s.idAbove c .job

/-- A record is well-formed (R267, R268). -/
def State.tsrOk (s : State) (c : CrewRef) (t : Tsr) : Bool :=
  let cw := (s.slotAt c t.slot).cont
  !t.rsv && decide (t.kind ≤ 2) && decide (1 ≤ t.rank) && decide (t.rank ≤ 5) &&
  (List.range 5).all (fun d => if d < t.rank then decide (1 ≤ t.dim d) else t.dim d == 0 && t.stride d == 0) &&
  s.slotOk c t.slot &&
  (if t.kind = 1 then
    let q := s.sctx t.ctx
    (t.rank == 2 || t.rank == 3) && t.base % 64 == 0 && decide (t.base < 2 ^ 52) && s.ctxFits c t.ctx &&
    decide ((q.tpp - 1) * t.stride 1 + (if t.rank = 3 then (t.dim 2 - 1) * t.stride 2 else 0) + ceilDiv (t.dim 0 * cw) 8 ≤ q.pb)
  else t.ctx == 0 && !inSpadWindow t.base && (t.kind == 0 || t.rank == 2))

/-! ### The geometry of a copy (R271) -/

/-- A copy's tile, origin, index list and record. -/
structure Geo where
  off   : Nat
  rows  : Nat
  len   : Nat
  rmask : Nat
  o     : List Nat
  ix    : Nat
  t     : Tsr
  c     : Nat
  deriving DecidableEq, Repr

/-- The geometry that the operand words and the record give; c is the container width. -/
def Geo.of (vals : List W64) (t : Tsr) (c : Nat) : Geo :=
  let w (i : Nat) : Nat := (listGet 0 vals i).toNat
  { off := bitsN (w 0) 19 0
    rows := bitsN (w 0) 27 20 + 1
    len := bitsN (w 0) 47 32 + 1
    rmask := bitsN (w 0) 63 48
    o := [bitsN (w 2) 31 0, bitsN (w 2) 63 32, bitsN (w 3) 31 0, bitsN (w 3) 63 32, bitsN (w 4) 31 0]
    ix := bitsN (w 4) 63 32
    t := t
    c := c }

/-- The geometry of an entry of the MOS queue. -/
def State.geo (s : State) (e : MosEntry) : Geo :=
  let t := Tsr.ofBytes e.tsr
  Geo.of e.vals t (s.slotAt e.crew t.slot).cont

/-- RS of the tile (R217). -/
def Geo.rs (g : Geo) : Nat := rowStride g.len g.c
/-- The tile extent, and the index list of a row-gather record. -/
def Geo.extent (g : Geo) : Nat × Nat := (g.off, g.off + g.rows * g.rs)
def Geo.list (g : Geo) : List (Nat × Nat) := if g.t.kind = 2 then [(g.ix, g.ix + 4 * g.rows)] else []

/-- The chunks that a byte range touches. -/
def chunksOf (r : Nat × Nat) : List Nat := (List.range (ceilDiv r.2 512 - r.1 / 512)).map (fun i => r.1 / 512 + i)

/-- The chunk set of a copy (R269). -/
def Geo.chunks (g : Geo) : List Nat := ((g.extent :: g.list).flatMap chunksOf).eraseDups

/-- Origin d. -/
def Geo.orig (g : Geo) (d : Nat) : Nat := listGet 0 g.o d

/-- i1 of tile row r (R271); spad holds the index list. -/
def Geo.i1 (g : Geo) (spad : Sparse Byte) (r : Nat) : Nat :=
  if g.t.kind = 2 then word32At spad (g.ix + 4 * r) else g.orig 1 + r

/-- How many elements of a row at i1 lie inside the tensor: the row's first ones. -/
def Geo.inside (g : Geo) (i1 : Nat) : Nat :=
  if i1 < g.t.bound 1 ∧ g.orig 2 < g.t.bound 2 ∧ g.orig 3 < g.t.bound 3 ∧ g.orig 4 < g.t.bound 4 then
    min g.len (g.t.bound 0 - g.orig 0)
  else 0

/-- The byte of element (O0 + e) of a row at i1, from BASE; the paged form takes i1 within the page (R268). -/
def Geo.rowByte (g : Geo) (i1 e : Nat) : Nat :=
  i1 * g.t.stride 1 + g.orig 2 * g.t.stride 2 + g.orig 3 * g.t.stride 3 + g.orig 4 * g.t.stride 4 + (g.orig 0 + e) * g.c / 8

/-- The steps of a row: 4,096 tile bytes each (R272). -/
def Geo.perRow (g : Geo) : Nat := ceilDiv g.rs 4096
/-- The steps of the copy. -/
def Geo.steps (g : Geo) : Nat := g.rows * g.perRow
/-- The elements of a whole step. -/
def Geo.perStep (g : Geo) : Nat := 32768 / g.c

/-! ### The checks at issue (R271) -/

/-- The record kinds that a copy accepts (R274 to R277). -/
def copyKinds (i : Instr) : List Nat :=
  match i with
  | .tld _ => [0]
  | .tst _ => [0, 1]
  | .tgath _ => [1, 2]
  | .tscat _ => [1, 2]
  | _ => [0, 1, 2]

/-- The slot suits the operator of a TRED (R277). -/
def redSlotOk (op : RedOp) (kind : Nat) : Bool :=
  match op with
  | .add => kind == 4
  | .fadd => kind == 1
  | .min => kind == 1 || kind == 4
  | .max => kind == 1 || kind == 4
  | .and => kind == 4
  | .or => kind == 4

/-- BASE, the strides and the origin leave some element that a TRED applies at an address that is not a multiple of 4 (R277): they
are judged for each row of the tile that has an element inside the tensor; for the rows that an index list names, whose indexes are
not read at issue, for every index within the bound (log entry 43). -/
def Geo.misaligned (g : Geo) (tpp : Nat) : Bool :=
  let off (i1 : Nat) : Nat :=
    (if g.t.kind = 1 then i1 % tpp * g.t.stride 1 else g.t.base + i1 * g.t.stride 1) + g.orig 2 * g.t.stride 2 + g.orig 3 * g.t.stride 3 + g.orig 4 * g.t.stride 4
  if g.t.kind = 2 then decide (0 < g.inside 0) && (off 0 % 4 != 0 || (decide (2 ≤ g.t.bound 1) && g.t.stride 1 % 4 != 0))
  else (List.range g.rows).any (fun r => decide (0 < g.inside (g.orig 1 + r)) && off (g.orig 1 + r) % 4 != 0)

/-- Check 4 of R271: the record does not pair with the operands. -/
def State.pairingBad (s : State) (c : CrewRef) (i : Instr) (g : Geo) : Bool :=
  !(copyKinds i).contains g.t.kind || (g.t.kind != 2 && g.ix != 0) || (g.t.kind == 2 && g.orig 1 != 0) ||
  g.orig 0 * g.c % 8 != 0 || g.list.any (rangesMeet g.extent) ||
  (match i with
   | .tred o => !redSlotOk o.op (s.slotAt c g.t.slot).kind || g.misaligned (s.sctx g.t.ctx).tpp
   | _ => false)

/-- A block's chunks among some are held or engaged (R269). -/
def State.chunkBusy (s : State) (b : Nat) (l : List Nat) : Bool :=
  match s.block? b with
  | none => false
  | some k => l.any (fun i => match sparseGet .idle k.chunks i with | .held => true | .engaged _ => true | .idle => false | .failed _ _ _ => false)

/-- Sets the state of chunks of a block. -/
def State.putChunks (s : State) (b : Nat) (l : List Nat) (x : Chunk) : State :=
  s.modBlock b (fun k => { k with chunks := l.foldl (fun m i => sparseSet .idle m i x) k.chunks })

/-- The rank of a crew's block in its cluster. -/
def State.rankOfCrew (s : State) (c : CrewRef) : Nat :=
  match s.blockOf c with | some k => s.rankOf k | none => 0

/-- The scratchpad of the issuing block is a target of a copy: always without RMASK, else with its rank bit (R274). -/
def State.ownTarget (s : State) (c : CrewRef) (g : Geo) : Bool := g.rmask == 0 || g.rmask.testBit (s.rankOfCrew c)

/-- Checks 3 to 7 of R271 on a copy whose record has been read, and its acceptance: it engages its chunks and enters the MOS
queue. s0 is the state before the record was read. -/
def State.acceptCopy (s0 s : State) (c : CrewRef) (k : Crew) (sw : Bool) (i : Instr) (vals : List W64) (bs : List Byte) : State :=
  let t := Tsr.ofBytes bs
  let g := Geo.of vals t (s.slotAt c t.slot).cont
  let own := s.ownTarget c g
  if !s.tsrOk c t then s0.trap c cTSRBAD
  else if s.pairingBad c i g then s0.trap c cTCARG
  else if (g.extent :: g.list).any (fun r => s.passes c r.2) then s0.trap c cSPBOUND
  else if 2 ^ (s.recOf c).csize ≤ g.rmask then s0.trap c cCLRANK
  else if own && s.chunkBusy c.blockId g.chunks then s0.trap c cCHKOWN
  else if s.mosFull c then s0
  else
    let e := s.newTile c k i vals
    let s1 := if own then s.putChunks c.blockId g.chunks (.engaged e.uid) else s
    s1.accept c k sw none { e with
      tsr := bs
      sp := if own then g.extent :: g.list else []
      chunks := if own then g.chunks.map (fun x => (c.blockId, x)) else [] }

/-- The mould of the copies at issue (R271): the checks in order. -/
def copyIns (i : Instr) (sw : Bool) (rd ra rb : BitVec 7) (multi : Bool) (s : State) : Out :=
  blockIns s (fun c k =>
    let vals := [s.sread c k rd, s.sread c k ra, s.sread c k rb, s.sread c k (rb + 1), s.sread c k (rb + 2)]
    let w := (vals.headD 0).toNat
    let g := Geo.of vals (Tsr.ofBytes []) 8
    let va := s.sread c k ra
    if bitsN w 31 28 ≠ 0 ∨ g.off % 64 ≠ 0 ∨ g.ix % 4 ≠ 0 ∨ (g.rmask ≠ 0 ∧ !multi) then s.trap c cTCARG
    else if va.toNat % 64 ≠ 0 then s.trap c cTSRBAD
    else match s.access c .read va 64 with
      | (.error e, _) => s.trapAt c e va
      | (.ok ls, s1) =>
        if s.stalledLocs (s.seat c) ls then s.stallScalar c k.pc ls va
        else if s.poisonedLocs ls then s.trapAt c cMEMERR va
        else s.acceptCopy s1 c k sw i vals (s.readLocs c ls))

/-- TLD at issue (R274). -/
def execTld (o : OpDAB) (s : State) : Out := copyIns (.tld o) o.sw o.rd o.ra o.rb true s
/-- TST at issue (R275). -/
def execTst (o : OpDAB) (s : State) : Out := copyIns (.tst o) o.sw o.rd o.ra o.rb false s
/-- TGATH at issue (R276). -/
def execTgath (o : OpDAB) (s : State) : Out := copyIns (.tgath o) o.sw o.rd o.ra o.rb false s
/-- TSCAT at issue (R276). -/
def execTscat (o : OpDAB) (s : State) : Out := copyIns (.tscat o) o.sw o.rd o.ra o.rb false s
/-- TRED at issue (R277). -/
def execTred (o : OpRed) (s : State) : Out := copyIns (.tred o) o.sw o.rd o.ra o.rb false s

/-! ### TWAIT and TGIVE (R270) -/

/-- The chunks that the operands name. -/
def namedChunks (first mask : Nat) : List Nat := (maskList 64 mask).map (fun i => first + i)

/-- The state of a chunk of the crew's block. -/
def State.chunkAt (s : State) (c : CrewRef) (i : Nat) : Chunk :=
  match s.blockOf c with | some k => sparseGet .idle k.chunks i | none => .idle

/-- The chunk is failed. -/
def Chunk.isFailed : Chunk → Bool | .failed _ _ _ => true | .idle => false | .held => false | .engaged _ => false

/-- CHKFAIL: the trap is precise at the TWAIT, and its fault record names the copy that failed, its step and its address (R270,
R315); of several failed chunks, the lowest. -/
def State.trapChunk (s : State) (c : CrewRef) (k : Crew) (x : Chunk) : State :=
  match x with
  | .failed ipc st addr => s.takeTrap c (trapRegs cCHKFAIL 0 0 false k.pc k.pc ipc 0 0 addr st)
  | .idle => s.trap c cCHKFAIL
  | .held => s.trap c cCHKFAIL
  | .engaged _ => s.trap c cCHKFAIL

/-- TWAIT. -/
def execTwait (o : OpAB) (s : State) : Out :=
  blockIns s (fun c k => s.afterErr c k (
    let l := namedChunks (s.sread c k o.ra).toNat (s.sread c k o.rb).toNat
    if l.any (fun i => decide (s.scrchOf c.blockId ≤ i)) then s.trap c cSPBOUND
    else match (l.map (s.chunkAt c)).find? Chunk.isFailed with
    | some x => s.trapChunk c k x
    | none =>
      if l.any (fun i => s.chunkAt c i == .idle) then s.trap c cCHKIDLE
      else if l.all (fun i => s.chunkAt c i == .held) then s.putCrew c (k.next o.sw)
      else s.waitScalar c))

/-- TGIVE. -/
def execTgive (o : OpAB) (s : State) : Out :=
  blockIns s (fun c k =>
    let l := namedChunks (s.sread c k o.ra).toNat (s.sread c k o.rb).toNat
    if l.any (fun i => decide (s.scrchOf c.blockId ≤ i)) then s.trap c cSPBOUND
    else
      let give := l.filter (fun i => s.chunkAt c i == .held || (s.chunkAt c i).isFailed)
      (s.putCrew c (k.next o.sw)).putChunks c.blockId give .idle)

/-! ### The targets of a load, and the end of a copy (R269, R273, R274) -/

/-- The scratchpads that a load writes at an offset: the block's own, or those of the ranks of RMASK (R274). -/
def State.targets (s : State) (c : CrewRef) (g : Geo) (off n : Nat) : List Loc :=
  match s.blockOf c with
  | none => []
  | some k =>
    if g.rmask = 0 then [.spad c.blockId off n]
    else (maskList 16 g.rmask).map (fun r =>
      match s.blockOfRank k.cluster r with
      | some b => .spad b off n
      | none => .ended k.cluster r off n)

/-- The blocks of other ranks that a multicast engages at its first step (R274). -/
def State.remoteTargets (s : State) (c : CrewRef) (g : Geo) : List Nat :=
  match s.blockOf c with
  | none => []
  | some k => (maskList 16 g.rmask).filterMap (fun r =>
      match s.blockOfRank k.cluster r with | some b => (if b = c.blockId then none else some b) | none => none)

/-- A copy is over: its chunks that it still engages take a state, and it leaves the queue (R269, R273). -/
def State.endCopy (s : State) (e : MosEntry) (x : Chunk) : State :=
  let s1 := e.chunks.foldl (fun s p =>
    s.modBlock p.1 (fun k =>
      if sparseGet .idle k.chunks p.2 = .engaged e.uid then { k with chunks := sparseSet .idle k.chunks p.2 x } else k)) s
  (s1.unpinTile e).dropTile e

/-! ### Pages of a paged copy (R151 to R154, R268, R276) -/

/-- What a step finds for the page of a position: where the page lies and the page's number; that it must wait, perhaps for a migration
of the page that is to begin; or a fault, with MEMERR for an uncorrectable error. -/
inductive PageHit
  | at (s : State) (pa page : Nat)
  | wait (start : Option (Nat × Nat))
  | bad (cause : Nat)

/-- Checks of a physical access of a copy (R268, R291, R28). -/
def State.physCheck (s : State) (c : CrewRef) (pa n : Nat) : Option Nat :=
  if !s.worldRange (s.worldOf c) pa n then some cWORLDF else if !s.backedRange pa n then some cPAHOLE else none

/-- The page is pinned for a gather, after its migration from T2 when T1 has a free frame (R153, R276). The page unit's own accesses
are checked as the instruction's are (R291). -/
def State.pinForGather (s : State) (x p : Nat) : PageHit :=
  let d := s.desc x p
  let pin (s : State) : PageHit := match s.pinPage x p with | some s1 => .at s1 (s1.pageAt x p) p | none => .wait none
  if d.state = 2 ∨ d.state = 4 then .wait none
  else if d.tier ≠ 2 then pin s
  else if !s.unitReach x [s.mapSpan x 1] then .bad cWORLDF
  else if s.unitWaits [s.mapSpan x 1] then .wait none
  else if (s.freeFrame x 1).isNone then pin s
  else match s.moveNow x p 1 with
    | .done s1 => pin s1
    | .noFrame s1 => pin s1
    | .refused => .bad cWORLDF
    | .wait _ w => .wait w

/-- The page of block-table entry j, for a read or a write; `clean` reads past uncorrectable errors. -/
def State.pageHit (s : State) (e : MosEntry) (g : Geo) (j : Nat) (load clean : Bool) : PageHit :=
  let x := g.t.ctx
  let a := g.t.base + 4 * j
  match s.physCheck e.crew a 4 with
  | some c => .bad c
  | none =>
    if s.stalledPa (s.seat e.crew) a 4 then .wait none
    else if s.poisonedRange a 4 && !clean then .bad cMEMERR
    else
      let p := s.entry g.t.base j
      if p = noPage then .bad cPGNONE
      else match s.physCheck e.crew (s.descAt x p) 32 with
      | some c => .bad c
      | none =>
      if s.unitWaits (s.dropSpans x p) then .wait none
      else if s.poisonedRange (s.descAt x p) 32 && !clean then .bad cMEMERR
      else if load then
        (match e.pins with
         | q :: _ => .at s (s.pageAt x q.2) q.2
         | [] => s.pinForGather x p)
      else if (s.desc x p).state = 2 then .wait none
      else match s.writeCheck x g.t.base j with
        | .noFrame _ => .bad cPGNONE
        | .refused => .bad cWORLDF
        | .wait _ w => .wait w
        | .done s1 => .at s1 (s1.pageAt x (s1.entry g.t.base j)) (s1.entry g.t.base j)

/-! ### One step (R272) -/

/-- A step of a copy: the tile row, the row's index i1, its first element, the element past its last, and how many of them lie
inside the tensor. -/
structure Span where
  r   : Nat
  i1  : Nat
  e0  : Nat
  e1  : Nat
  nin : Nat
  deriving DecidableEq, Repr

/-- Step n of a copy. -/
def Geo.span (g : Geo) (spad : Sparse Byte) (n : Nat) : Span :=
  let r := n / g.perRow
  let i1 := g.i1 spad r
  let e0 := n % g.perRow * g.perStep
  let e1 := min g.len (e0 + g.perStep)
  ⟨r, i1, e0, e1, min (g.inside i1) e1 - e0⟩

/-- The first tile byte of a span, and its bytes: all of them, and those of the elements inside. -/
def Geo.spanOff (g : Geo) (x : Span) : Nat := g.off + x.r * g.rs + x.e0 * g.c / 8
def Geo.spanLen (g : Geo) (x : Span) : Nat := ceilDiv ((x.e1 - x.e0) * g.c) 8
def Geo.spanIn (g : Geo) (x : Span) : Nat := ceilDiv (x.nin * g.c) 8

/-- What a step reaches in memory: the locations before the first fault, that fault, and the state with what the walk or the page
unit did; or that it must wait, for what it then reaches. A paged fault has no virtual address. -/
inductive Reach
  | wait (start : Option (Nat × Nat)) (ls : List Loc)
  | got (ls : List Loc) (bad : Option (Nat × W64)) (s : State) (pins : List (Nat × Nat))

/-- The memory side of a span. -/
def State.reachSpan (s : State) (e : MosEntry) (g : Geo) (x : Span) (kind : AccKind) (clean : Bool) : Reach :=
  let n := g.spanIn x
  if n = 0 then .got [] none s e.pins
  else if g.t.kind = 1 then
    let load := kind == .read
    let tpp := (s.sctx g.t.ctx).tpp
    match s.pageHit e g (x.i1 / tpp) load clean with
    | .wait w => .wait w []
    | .bad c => .got [] (some (c, 0)) s e.pins
    | .at s1 pa p =>
      let a := pa + g.rowByte (x.i1 % tpp) x.e0
      let pins := if load then [(g.t.ctx, p)] else e.pins
      match s1.physCheck e.crew a n with
      | some c => .got [] (some (c, 0)) s1 pins
      | none => if s.stalledPa (s.seat e.crew) a n then .wait none [] else .got [.phys ⟨a, n, s.worldOf e.crew⟩] none s1 pins
  else
    let r := s.engReach e.crew e.priv kind (g.t.base + g.rowByte x.i1 x.e0) n
    if s.stalledLocs (s.seat e.crew) r.1.1 || s.heldLocs r.1.1 then .wait none r.1.1 else .got r.1.1 r.1.2 r.2 e.pins

/-- Where the step of a load stops: the locations before the first that meets an uncorrectable error, and that error. -/
def State.cutPoison (s : State) (clean : Bool) (va : W64) : List Loc → List Loc × Option (Nat × W64)
  | [] => ([], none)
  | l :: t =>
    if s.poisonedParts [l] && !clean then ([], some (cMEMERR, va))
    else let r := s.cutPoison clean va t; (l :: r.1, r.2)

/-- The total length of locations. -/
def locsLen (ls : List Loc) : Nat := (ls.map Loc.len).sum

/-- The low k bits of the last byte of n bits of codes: the byte with the bits past the codes cleared. -/
def clearTail (bits : Nat) (bs : List Byte) : List Byte := bytesOf bs.length (Sys2Proof.ofBytes bs % 2 ^ bits)

/-- The bytes of a list that a test picks by their place, and the others of another list. -/
def mixBytes (pick : Nat → Bool) (new old : List Byte) : List Byte :=
  (List.range new.length).map (fun i => if pick i then listGet 0 new i else listGet 0 old i)

/-- What the step of a load moves (R274, R276): the elements inside are read, the ones outside are 0. The result is the bytes, and
the fault that stops the step after them. -/
def State.loadSpan (s : State) (e : MosEntry) (g : Geo) (x : Span) (ls : List Loc) (bad : Option (Nat × W64)) (clean : Bool) :
    List Byte × Option (Nat × W64) :=
  let va := if g.t.kind = 1 then 0 else BitVec.ofNat 64 (g.t.base + g.rowByte x.i1 x.e0)
  let cut := s.cutPoison clean va ls
  let fault := match cut.2 with | some f => some f | none => bad
  let data := clearTail (x.nin * g.c) (s.readParts e.crew cut.1)
  let bs := match fault with
    | some _ => data
    | none => data ++ List.replicate (g.spanLen x - data.length) 0
  (bs, fault)

/-- The bytes of a load that a test picks are written to the tile, in every target. -/
def State.putTile (s : State) (e : MosEntry) (g : Geo) (x : Span) (bs : List Byte) (pick : Nat → Bool) : State :=
  (s.targets e.crew g (g.spanOff x) bs.length).foldl
    (fun s l => s.writeLoc e.crew false l (mixBytes pick bs (s.readLoc e.crew l))) s

/-- The tile's bytes of a step that is stored, as the engine reads them: those read in an earlier part of the step, and the rest
now (R251). -/
def State.tileBytes (s : State) (e : MosEntry) (g : Geo) (x : Span) : List Byte :=
  let now := sparseRead 0 (s.spadOf e.crew.blockId) (g.spanOff x) (g.spanIn x)
  match e.part with
  | some (old, _, mask) => mixBytes (fun i => !mask.testBit i) now old
  | none => now

/-- The step of a store (R275, R276): the elements inside are written; in a byte that they fill in part, the other bits stay. -/
def State.storeSpan (s : State) (e : MosEntry) (x : Span) (c : Nat) (tile : List Byte) (ls : List Loc)
    (bad : Option (Nat × W64)) : State × Option (Nat × W64) :=
  let n := locsLen ls
  let new := (tile ++ List.replicate (n - tile.length) 0).take n
  let bits := x.nin * c
  let bs := if bits < 8 * n then
      bytesOf n (Sys2Proof.ofBytes new % 2 ^ bits + Sys2Proof.ofBytes (s.readParts e.crew ls) / 2 ^ bits * 2 ^ bits)
    else new
  (s.writeParts e.crew ls bs, bad)

/-- The operators of TRED on an element's old value and the tile's (R277). -/
def redNew (op : RedOp) (isF : Bool) (m t : Nat) : Nat :=
  match op with
  | .add => (m + t) % 2 ^ 32
  | .fadd => (addF32 m t).code
  | .min => if isF then minmax fmtF32 false m t else pickS 32 false m t
  | .max => if isF then minmax fmtF32 true m t else pickS 32 true m t
  | .and => m &&& t
  | .or => m ||| t

/-- n bytes at byte k of a list of locations, when one location holds them. -/
def subLoc : List Loc → Nat → Nat → Option Loc
  | [], _, _ => none
  | l :: t, k, n =>
    if k + n ≤ l.len then
      match l with
      | .spad b o _ => some (.spad b (o + k) n)
      | .ended cl r o _ => some (.ended cl r (o + k) n)
      | .phys p => some (.phys ⟨p.pa + k, n, p.secure⟩)
      | .table pa => some (.table pa)
    else subLoc t (k - l.len) n

/-- The write of an element: where the slow path has read a poisoned granule, it writes the granule whole, so that the write is
performed (R256, R273, R277; log entry 109). -/
def State.redWrite (s : State) (c : CrewRef) (l : Loc) (bs : List Byte) : State :=
  match l with
  | .phys p =>
    ({ s with poison := s.poison.filter (fun g => !(granules8 p.pa p.n).contains g) } : State).writeLoc c false l bs
  | .spad _ _ _ => s.writeLoc c false l bs
  | .ended _ _ _ _ => s.writeLoc c false l bs
  | .table _ => s

/-- One element of a TRED: it is skipped when its bit is set, and its bit is set when it has been written (R277). -/
def redElem (op : RedOp) (isF : Bool) (e : MosEntry) (g : Geo) (x : Span) (tile : List Byte) (ls : List Loc) (clean : Bool)
    (a : State × Sparse Bool × Bool) (i : Nat) : State × Sparse Bool × Bool :=
  let key := x.r * g.len + x.e0 + i
  match subLoc ls (4 * i) 4 with
  | none => a
  | some l =>
    if a.2.2 || sparseGet false a.2.1 key then a
    else if a.1.poisonedLocs [l] && !clean then (a.1, a.2.1, true)
    else
      let m := Sys2Proof.ofBytes (a.1.readLoc e.crew l)
      let t := Sys2Proof.ofBytes ((tile.drop (4 * i)).take 4)
      (a.1.redWrite e.crew l (bytesOf 4 (redNew op isF m t)), sparseSet false a.2.1 key true, false)

/-- Some later step of the copy reads the page of this one (R153). -/
def Geo.keepsPage (g : Geo) (spad : Sparse Byte) (tpp n : Nat) : Bool :=
  let x := g.span spad n
  (List.range (g.steps - (n + 1))).any (fun i =>
    let y := g.span spad (n + 1 + i)
    decide (0 < y.nin) && y.i1 / tpp == x.i1 / tpp)

/-- A step of a copy is done, or was stopped by a fault: the entry goes on, waits for its completion, or is to be abandoned. -/
def State.copyNext (s : State) (e : MosEntry) (g : Geo) (fault : Option (Nat × W64)) : State :=
  match fault with
  | some f => s.setTile { e with started := true, met := some f, addr := f.2, part := none }
  | none =>
    let keep := g.keepsPage (s.spadOf e.crew.blockId) (s.sctx g.t.ctx).tpp e.step
    let e1 : MosEntry := { e with started := true, part := none, pins := if keep then e.pins else [] }
    let s1 := if keep then s else e.pins.foldl (fun s p => s.unpinPage p.1 p.2) s
    if e.step + 1 < g.steps then s1.setTile { e1 with step := e.step + 1 } else s1.setTile { e1 with fin := true }

/-- The first step of a multicast engages the chunks of the other targets, once each of them is idle or failed (R274). -/
def State.engageRemote (s : State) (e : MosEntry) (g : Geo) : Option (State × MosEntry) :=
  let bs := s.remoteTargets e.crew g
  if bs.any (fun b => s.chunkBusy b g.chunks) then none
  else
    let s1 := bs.foldl (fun s b => s.putChunks b g.chunks (.engaged e.uid)) s
    some (s1, { e with chunks := e.chunks ++ bs.flatMap (fun b => g.chunks.map (fun x => (b, x))) })

/-- The kind of access that a copy makes to memory (R274 to R277). -/
def copyKind (i : Instr) : AccKind := match i with | .tld _ => .read | .tgath _ => .read | .tred _ => .atomic | _ => .write

/-- A step of a load: its bytes reach the tile at once, or, when `split` names a mask, those of the mask now and the rest in a later
part of the step; between the two, an access to the tile finds some bytes new and some old (R251, log entry 42). -/
def State.loadStep (s : State) (e : MosEntry) (g : Geo) (x : Span) (bs : List Byte) (fault : Option (Nat × W64))
    (split : Option Nat) : State :=
  match split with
  | some mask => (s.putTile e g x bs mask.testBit).setTile { e with started := true, part := some (bs, fault, mask) }
  | none => (s.putTile e g x bs (fun _ => true)).copyNext e g fault

/-- The memory side of a step of a store or of a TRED, with the tile's bytes as they were read. -/
def State.storeStep (s : State) (e : MosEntry) (g : Geo) (x : Span) (tile : List Byte) (ls : List Loc) (bad : Option (Nat × W64))
    (clean : Bool) : State :=
  match e.instr with
  | .tred o =>
    let isF := (s.slotAt e.crew g.t.slot).kind == 1
    let r := (List.range x.nin).foldl (redElem o.op isF e g x tile ls clean) (s, e.done, false)
    let va := if g.t.kind = 1 then 0 else BitVec.ofNat 64 (g.t.base + g.rowByte x.i1 x.e0)
    r.1.copyNext { e with done := r.2.1 } g (if r.2.2 then some (cMEMERR, va) else bad)
  | _ =>
    let r := s.storeSpan e x g.c tile ls bad
    r.1.copyNext e g r.2

/-- Where a step of a load writes its tile bytes. -/
def State.tileLocs (s : State) (e : MosEntry) (g : Geo) (x : Span) : List Loc := s.targets e.crew g (g.spanOff x) (g.spanLen x)

/-- A step of a load must wait: the way to the scratchpad of a target carries no data (R301). -/
def State.tileStalls (s : State) (e : MosEntry) (g : Geo) (x : Span) : Bool := s.stalledLocs (s.seat e.crew) (s.tileLocs e g x)

/-- The work of a step, once the chunks are engaged; s0 is the state in which a step that must wait leaves the machine. -/
def State.copyWork (s0 s : State) (e : MosEntry) (g : Geo) (clean : Bool) (split : Option Nat) : State :=
  let x := g.span (s.spadOf e.crew.blockId) e.step
  let kind := copyKind e.instr
  match kind, e.part with
  | .read, some (bs, fault, mask) =>
    if s.tileStalls e g x then s0.stallTile e (s.tileLocs e g x) else (s.putTile e g x bs (fun i => !mask.testBit i)).copyNext e g fault
  | _, part =>
    match kind, part, split with
    | .write, none, some mask => s.setTile { e with started := true, part := some (s.tileBytes e g x, none, mask) }
    | .atomic, none, some mask => s.setTile { e with started := true, part := some (s.tileBytes e g x, none, mask) }
    | _, _, _ =>
      if kind == .read && s.tileStalls e g x then s0.stallTile e (s.tileLocs e g x)
      else match s.reachSpan e g x kind clean with
      | .wait w ls => (s0.startAwaited g.t.ctx w).stallTile e ls
      | .got ls bad s1 pins =>
        let e1 : MosEntry := { e with pins := pins }
        if kind = .read then let r := s1.loadSpan e g x ls bad clean; s1.loadStep e1 g x r.1 r.2 split
        else s1.storeStep e1 g x (s.tileBytes e g x) ls bad clean

/-- A list of pages with those of n bytes at an address, each once, 64 at most. -/
def withPages (l : List Nat) (va n : Nat) : List Nat :=
  if n = 0 ∨ 64 ≤ l.length then l
  else (l ++ [va % 2 ^ 64 / 65536, (va + n - 1) % 2 ^ 64 / 65536]).eraseDups.take 64

/-- The pages that later steps of a copy reach, in the order of the stride pattern, the first 64 of them. -/
def Geo.pagesAhead (g : Geo) (spad : Sparse Byte) (n : Nat) : List Nat :=
  (List.range (g.steps - (n + 1))).foldl (fun l i =>
    let x := g.span spad (n + 1 + i)
    withPages l (g.t.base + g.rowByte x.i1 x.e0) (g.spanIn x)) []

/-- Walk-ahead translation (R272): the engine has walked the page tables for the first n of some pages, up to 64 ahead of the step. A
fault found ahead is not reported. -/
def State.walkPages (s : State) (e : MosEntry) (kind : AccKind) (ps : List Nat) (n : Nat) : State :=
  (ps.take (min n 64)).foldl (fun s p =>
    let r := s.engPart e.crew (s.tileEngine e.crew) e.priv kind (p * 65536) 1
    s.putTileEngine e.crew r.2) s

/-- Walk-ahead translation for a copy: a paged one walks no page tables. -/
def State.walkAhead (s : State) (e : MosEntry) (g : Geo) (n : Nat) : State :=
  if g.t.kind = 1 then s else s.walkPages e (copyKind e.instr) (g.pagesAhead (s.spadOf e.crew.blockId) e.step) n

/-- Walk-ahead translation for OVLOAD and WLOAD.img, whose later steps read from one address to another (R272, R278, R288): how far it
has gone is free. -/
def State.walkBody (s : State) (e : MosEntry) (kind : AccKind) (lo hi : Nat) : State :=
  let d := s.draw
  d.2.walkPages e kind ((List.range ((hi - lo + 65535) / 65536)).foldl
    (fun l i => withPages l (lo + 65536 * i) (min 65536 (hi - lo - 65536 * i))) []) d.1

/-- The overlay number and the slot of an entry, and its image's address. -/
def MosEntry.ovNum (e : MosEntry) : Nat := (e.vals.headD 0).toNat
def MosEntry.ovSlot (e : MosEntry) : Nat := (listGet 0 e.vals 1).toNat
def MosEntry.ovAddr (e : MosEntry) : Nat := Sys2Proof.ofBytes ((e.tsr.drop 32).take 8)

/-- Replaces a slot of a crew's store. -/
def State.putSlot (s : State) (c : CrewRef) (i : Nat) (x : OvSlot) : State := s.putSlots c (listSet (s.slotsOf c) i x)

/-- OVLOAD makes the slot's old overlay non-resident, and takes the slot (R56, R278). -/
def State.takeSlot (s : State) (e : MosEntry) : State :=
  s.putSlot e.crew e.ovSlot ⟨some (s.ovTag e.crew e.ovNum), false, [], some e.uid⟩

/-- What the first step of a tile instruction does before it moves data: an OVLOAD takes its slot, and a multicast the chunks of the other
targets, once it can (R274, R278). -/
def State.beginStep (s : State) (e : MosEntry) : Option (State × MosEntry) :=
  if e.started then some (s, e)
  else match e.instr with
    | .ovload _ => some (s.takeSlot e, e)
    | .wloadImg _ => some (s, e)
    | _ => s.engageRemote e (s.geo e)

/-- A step of a copy; `clean` is the slow path, which reads past uncorrectable errors (R273). How far the engine has walked ahead,
and whether the step is seen in two parts, are free. -/
def State.copyStep (s : State) (e : MosEntry) (clean : Bool) : State :=
  let g := s.geo e
  let (v, sv) := s.draw
  let (n, sn) := sv.draw
  let split : Option Nat := if clean || v % 2 == 0 then none else some (v / 2)
  let s0 := sn.walkAhead e g n
  match s0.beginStep e with
  | none => s0
  | some (s1, e1) => State.copyWork s0 s1 e1 g clean split

/-! ### OVLOAD (R55 to R57, R97, R278) -/

/-- OVTAB and the number of its entries, for a crew. -/
def State.ovTable (s : State) (c : CrewRef) : W64 × Nat :=
  match c with
  | .ctl d => ((s.ctl d).table, (s.ctl d).entries)
  | .blk _ _ => ((s.recOf c).ovtab, (s.recOf c).ovn + 1)

/-- An overlay image's header is well-formed and names overlay n (R55). An empty section whose start lies strictly inside the other
section counts as overlapping it (log entry 77). -/
def ovHeadOk (bs : List Byte) (n : Nat) : Bool :=
  let v := Sys2Proof.ofBytes bs
  let so := bitsN v 79 64
  let sl := bitsN v 95 80
  let lo := bitsN v 111 96
  let ll := bitsN v 127 112
  let size := bitsN v 159 128
  bitsN v 31 0 == 0xC7C04F56 && bitsN v 39 32 == n && bitsN v 47 40 == 1 && bitsN v 63 48 == 0 && bitsN v 255 192 == 0 &&
  decide (32 ≤ size) && decide (size ≤ 65536) && so % 4 == 0 && decide (32 ≤ so) && sl % 4 == 0 && lo % 16 == 0 && ll % 12 == 0 &&
  decide (so + sl ≤ size) && decide (lo + ll ≤ size) && (decide (so + sl ≤ lo) || decide (lo + ll ≤ so))

/-- SIZE and CHECK of a header. -/
def ovSize (bs : List Byte) : Nat := bitsN (Sys2Proof.ofBytes bs) 159 128
def ovCheck (bs : List Byte) : Nat := bitsN (Sys2Proof.ofBytes bs) 191 160

/-- The overlay is resident for the crew in a slot of its store (R57). -/
def State.resident (s : State) (c : CrewRef) (n : Nat) : Bool :=
  (s.slotsOf c).any (fun x => x.resident && x.tag == some (s.ovTag c n))

/-- What a read of the crew's at issue finds: the bytes, the cause of a precise trap, or the locations at which it stalls. -/
inductive Issued
  | got (bs : List Byte) (s : State)
  | bad (cause : Nat) (s : State)
  | stalls (ls : List Loc)

/-- A read of the crew's at issue. -/
def State.issueRead (s : State) (c : CrewRef) (kind : AccKind) (va : W64) (n : Nat) : Issued :=
  match s.access c kind va n with
  | (.error e, s1) => .bad e s1
  | (.ok ls, s1) =>
    if s.stalledLocs (s.seat c) ls then .stalls ls
    else if s.poisonedLocs ls then .bad cMEMERR s1
    else .got (s.readLocs c ls) s1

/-- OVLOAD at issue. The entry keeps the header and the image's address in place of a tensor record. -/
def execOvload (o : OpDAB) (s : State) : Out :=
  scalarIns s (fun c k =>
    let n := (s.sread c k o.ra).toNat
    let slot := (s.sread c k o.rb).toNat
    let tab := s.ovTable c
    if 255 < n ∨ 3 < slot then s.trap c cOVLBAD
    else if s.resident c n then s.putCrew c ((k.pendS o.rd 1 0).next o.sw)
    else if tab.2 ≤ n then s.trap c cOVLBAD
    else
      let ea := tab.1 + BitVec.ofNat 64 (8 * n)
      match s.issueRead c .read ea 8 with
      | .stalls ls => s.stallScalar c k.pc ls ea
      | .bad e _ => s.trapAt c e (s.failAddr c .read ea 8 e)
      | .got eb s1 =>
        let va := BitVec.ofNat 64 (Sys2Proof.ofBytes eb)
        if va = 0 then s.trap c cOVLBAD
        else match s1.issueRead c .execute va 32 with
          | .stalls ls => s.stallScalar c k.pc ls va
          | .bad e _ => s.trapAt c e (s1.failAddr c .execute va 32 e)
          | .got hb s2 =>
            if !ovHeadOk hb n then s.trap c cOVLBAD
            else if s.mosFull c then s
            else
              let e := s2.newTile c k (.ovload o) [BitVec.ofNat 64 n, BitVec.ofNat 64 slot]
              s2.accept c k o.sw (some o.rd) { e with tsr := hb ++ bytesOf 8 va.toNat })

/-- A step of OVLOAD: the first takes the slot; each copies 4,096 bytes. -/
def State.ovloadStep (s : State) (e : MosEntry) (clean : Bool) : State :=
  let lo := 4096 * e.step
  let size := ovSize e.tsr
  let n := min 4096 (size - lo)
  let s0 := if e.step = 0 then s.takeSlot e else s
  match s0.engAccess e.crew e.priv .execute (e.ovAddr + lo) n with
  | (.error x, _) => s0.setTile { e with started := true, met := some x }
  | (.ok ps, s1) =>
    if s.stalledLocs (s.seat e.crew) ps || s.heldLocs ps then s.stallTile e ps
    else if s.poisonedParts ps && !clean then
      s0.setTile { e with started := true, met := some (cMEMERR, BitVec.ofNat 64 (e.ovAddr + lo)) }
    else
      let o := listGet OvSlot.empty (s1.slotsOf e.crew) e.ovSlot
      let s2 := s1.putSlot e.crew e.ovSlot { o with image := sparseWrite 0 o.image lo (s1.readParts e.crew ps) }
      if lo + n < size then s2.setTile { e with started := true, step := e.step + 1 }
      else s2.setTile { e with started := true, fin := true }

/-- The image of an OVLOAD has arrived (R55, R56): with a matching CHECK it becomes resident and rd receives 1; else the slot stays
empty, the event is logged, and rd receives 0. -/
def State.ovArrive (s : State) (e : MosEntry) : State :=
  let o := listGet OvSlot.empty (s.slotsOf e.crew) e.ovSlot
  let bs := sparseRead 0 o.image 32 (ovSize e.tsr - 32)
  if o.loading = some e.uid ∧ crc32 bs = ovCheck e.tsr then
    (s.putSlot e.crew e.ovSlot { o with resident := true, loading := none }).finishTile e 1
  else
    ((s.putSlot e.crew e.ovSlot (if o.loading = some e.uid then .empty else o)).log cOVLBAD (1 + s.dieOf e.crew) e.ipc.toNat
      e.ovAddr).finishTile e 0

/-- An OVLOAD is over without its image (R273): the slot stays empty and rd receives 0. -/
def State.ovFail (s : State) (e : MosEntry) : State :=
  let o := listGet OvSlot.empty (s.slotsOf e.crew) e.ovSlot
  (s.putSlot e.crew e.ovSlot (if o.loading = some e.uid then .empty else o)).finishTile e 0

end Sys2Proof.Machine
end

