-- ==== Sys2Proof/Machine/Dist.lean ====
section
/-!
DEFINITION. The distributor: launch records (R96, R98, R99), completion counters that are opened (R108, R125), dependences (R100,
R101), placement (R102 to R105), growth and shrink (R106, R107), and the end of a cancel (R111).
-/

namespace Sys2Proof.Machine

/-! ### Launch records (R96, R98) -/

/-- Reads the fields of a 256-byte launch record. -/
def LaunchRec.parse (bs : List Byte) : LaunchRec :=
  let q (i : Nat) : Nat := ofBytes ((bs.drop (16 * i)).take 16)
  let a := q 0
  let b := q 1
  let c := q 2
  let d := q 3
  { attach := BitVec.ofNat 24 (bitsN a 127 104)
    entry := BitVec.ofNat 24 (bitsN a 103 80)
    ovn := bitsN a 79 72
    idem := bitN a 71
    grow := bitN a 70
    track := bitN a 69
    world := bitN a 68
    prio := bitsN a 67 66
    ver := bitsN a 47 40
    lid := BitVec.ofNat 32 (bitsN a 31 0)
    ovtab := BitVec.ofNat 64 (bitsN b 127 64)
    gz := bitsN b 63 48
    gy := bitsN b 47 32
    gx := bitsN b 31 16
    sgrace := bitsN b 7 0
    graph := BitVec.ofNat 32 (bitsN c 127 96)
    csize := bitsN c 95 88
    nlb := bitsN c 87 80
    ncb := bitsN c 79 72
    nbb := bitsN c 71 64
    groups := bitsN c 63 56
    maxc := bitsN c 55 48
    minc := bitsN c 47 40
    scrch := bitsN c 11 0
    plid := BitVec.ofNat 32 (bitsN d 127 96)
    c := sextI 32 (bitsN d 95 64)
    w := bitsN d 63 48
    d := bitsN d 47 32
    a := bitsN d 31 16
    map := bitsN d 2 0
    rsv := bitsN a 65 48 != 0 || bitsN a 39 32 != 0 || bitsN b 15 8 != 0 || bitsN c 39 12 != 0 || bitsN d 15 3 != 0 ||
      ((bs.drop 64).take 64).any (fun x => x != 0)
    fmts := (List.range 8).map (fun i => q (8 + i)) }

/-- The blocks of a launch. -/
def LaunchRec.n (l : LaunchRec) : Nat := l.gx * l.gy * l.gz

/-- A field lies outside the range that its map gives (R96), or a combination that R98 lists is ill-formed. -/
def LaunchRec.bad (l : LaunchRec) : Bool :=
  l.rsv || l.ver != 1 || l.prio == 3 || l.ovtab.toNat % 8 != 0 ||
  l.gx == 0 || l.gy == 0 || l.gz == 0 || l.csize == 0 || decide (16 < l.csize) ||
  decide (4 < l.nlb) || decide (8 < l.ncb) || decide (16 < l.nbb) || decide (64 < l.groups) ||
  l.minc == 0 || decide (l.maxc < l.minc) || decide (16 < l.maxc) || decide (2048 < l.scrch) || decide (4 < l.map) ||
  (if l.map = 4 then l.w == 0 || l.d == 0 else l.a != 0 || l.d != 0 || l.w != 0 || l.c != 0) ||
  l.n % l.csize != 0 || decide (l.ovn < l.entry.toNat / 65536) || (l.grow && decide (l.ovn < l.attach.toNat / 65536)) ||
  decide (2 ^ 31 < l.n) || (l.track && decide (65536 < l.n))

/-- The blocks of a launch that one empty core takes (R20, R102). -/
def LaunchRec.perCore (l : LaunchRec) : Nat :=
  let groups := l.minc * l.groups
  let a := min 16 (32 / l.minc)
  let b := if groups = 0 then a else min a (1024 / groups)
  if l.scrch = 0 then b else min b (2048 / l.scrch)

/-- The cores that the fit test of R98 counts: those of each C-die less the retired, but none of a die that failed attestation. -/
def State.countedCores (s : State) : Nat :=
  ((List.range s.cores.length).filter (fun k => s.coreIn k && !s.ident.failed.contains (1 + s.dieOfCore k))).length

/-- The launch fits the package with no other work resident (R98). -/
def State.wouldFit (s : State) (l : LaunchRec) : Bool :=
  decide ((if 1 ≤ l.nlb then l.n else l.csize) ≤ l.perCore * s.countedCores)

/-! ### Units (R108, R125) -/

/-- How many counters of a level the distributor holds (R108). -/
def levelLimit : Level → Nat
  | .lch => 4096 | .gph => 1024 | .phs => 256 | .job => 64

/-- The counters of a level that are free. -/
def State.freeUnits (s : State) (lv : Level) : Nat := levelLimit lv - (s.units.filter (fun u => u.level == lv)).length

/-- What opening a unit or submitting a launch answers: the cause that it raises, a wait, or the state. -/
inductive Opened
  | err (cause : Nat)
  | wait
  | done (s : State)

/-- A unit that completes at once because its declared count is 0 (R125). -/
def State.settleUnit (s : State) (u : Nat) : State :=
  match s.unit? u with
  | none => s
  | some x =>
    if x.level != .job && x.live && x.out == 0 then
      let x1 : CUnit := { x with state := .done }
      let s1 := (s.modUnit u (fun _ => x1)).noteUnit x1
      match x.parent with
      | some p => State.childDone 4 s1 p none
      | none => s1
    else s

/-- Adds a counter; its parent gains a child that can no longer be added, and a job counts each phase (R108). -/
def State.addUnit (s : State) (lv : Level) (id : W32) (world : Bool) (asid out left : Nat) (parent note : Option Nat) : State :=
  let u : CUnit := ⟨s.nextUid, lv, id, world, out, left, 0, .pending, parent, note, false, none, asid⟩
  let s1 : State := { s with units := s.units ++ [u], nextUid := s.nextUid + 1 }
  match parent with
  | none => s1
  | some p => s1.modUnit p (fun x => if x.level = .job then { x with out := x.out + 1 } else { x with left := x.left - 1 })

/-- The live unit of a level with an identifier: a graph or a phase that has completed is live no more, though its counter may still
be held, and one in STATE 5 keeps its identifier but takes no more work (log entry 81). -/
def State.liveUnit (s : State) (lv : Level) (id : W32) : Option CUnit :=
  s.units.find? (fun u => u.level == lv && u.id == id && (if lv = .job then true else u.unfinished))

/-- Opens a job (R125). -/
def State.openJob (s : State) (id : W32) (world : Bool) (asid : Nat) (note : Option Nat) : Opened :=
  if (s.liveUnit .job id).isSome then .err cDUPID
  else if s.freeUnits .job = 0 then .wait
  else .done (s.addUnit .job id world asid 0 0 none note)

/-- Opens a phase under a job that is live and not closed (R125). -/
def State.openPhase (s : State) (id job : W32) (count asid : Nat) (note : Option Nat) : Opened :=
  if (s.liveUnit .phs id).isSome then .err cDUPID
  else match s.liveUnit .job job with
    | none => .err cNOUNIT
    | some p =>
      if !p.live || p.closed then .err cNOUNIT
      else if s.freeUnits .phs = 0 then .wait
      else .done ((s.addUnit .phs id p.world asid count count (some p.uid) note).settleUnit s.nextUid)

/-- Opens a graph under a live phase with remaining count (R125). -/
def State.openGraph (s : State) (id phase : W32) (count asid : Nat) (note : Option Nat) : Opened :=
  if (s.liveUnit .gph id).isSome then .err cDUPID
  else match s.liveUnit .phs phase with
    | none => .err cNOUNIT
    | some p =>
      if !p.live || p.left == 0 then .err cNOUNIT
      else if s.freeUnits .gph = 0 then .wait
      else .done ((s.addUnit .gph id p.world asid count count (some p.uid) note).settleUnit s.nextUid)

/-- Submits a launch (R98 to R100, R113, R125): a record that is ill-formed, or whose producer is missing, starts no block and
completes with error; a consumer whose producer has failed already is cancelled. -/
def State.submit (s : State) (raw : List Byte) (asid : Nat) (qworld : Bool) : Opened :=
  let l := LaunchRec.parse raw
  match s.liveUnit .gph l.graph with
  | none => .err cNOUNIT
  | some g =>
    if !g.live || g.left == 0 then .err cNOUNIT
    else if s.freeUnits .lch = 0 then .wait
    else
      let u := s.nextUid
      let twin := s.launches.any (fun x => x.lr.lid == l.lid &&
        (match s.unit? x.uid with | some y => y.unfinished && y.parent == some g.uid | none => false))
      let s1 := s.addUnit .lch l.lid g.world asid l.n 0 (some g.uid) none
      let la : Launch := ⟨u, l, asid, 0, 0, false, [], [], [], none, false, [], 0, none⟩
      let s2 : State := { s1 with launches := s1.launches ++ [la] }
      let bad : Nat :=
        if l.bad || l.world != qworld || twin || !s.wouldFit l then cBADLREC
        else if l.map != 0 && (s2.producer la).isNone then cLDEPNF
        else 0
      .done (
        if bad = 0 then
          match (if l.map = 0 then none else s2.producer la).bind (fun p => s2.unit? p.uid) with
          | some p => if p.state = .error ∨ p.state = .cancelled then s2.cancelUnit cDEPCAN u else s2
          | none => s2
        else (s2.modUnit u (fun x => { x with out := 0 })).finishUnit u .error bad)

/-! ### Dependences (R100, R101) -/

/-- Completion bit p of a producer is set. -/
def Launch.bit (l : Launch) (p : Nat) : Bool := match l.bitmap with | some m => sparseGet false m p | none => false

/-- N(b): the blocks of the producer that consumer block b needs, of those in the producer's grid (R101). -/
def neededBy (c p : LaunchRec) (b : Nat) : List Nat :=
  match c.map with
  | 0 => []
  | 1 => if b < p.n then [b] else []
  | 2 =>
    let row := b / c.gx % c.gy
    if row < p.gy then (List.range p.gz).flatMap (fun z => (List.range p.gx).map (fun x => x + p.gx * (row + p.gy * z))) else []
  | 3 => List.range p.n
  | _ =>
    let lo : Int := ((c.a * b / c.d : Nat) : Int) + c.c
    (List.range c.w).filterMap (fun i : Nat => let q := lo + (i : Int); if 0 ≤ q ∧ q < (p.n : Int) then some q.toNat else none)

/-- Consumer block b is eligible: every member of N(b) has its bit set (R101). -/
def eligible (c : LaunchRec) (p : Launch) (b : Nat) : Bool := (neededBy c p.lr b).all p.bit

/-- Block b of a launch is eligible. -/
def State.eligible (s : State) (l : Launch) (b : Nat) : Bool :=
  if l.lr.map = 0 then true else match s.producer l with | some p => Machine.eligible l.lr p b | none => false

/-- What the distributor serves next of a launch: a saved block with the saved members of its cluster, or blocks that have not
been placed. -/
inductive Item
  | saved (v : List Saved)
  | fresh (bs : List Nat)

/-- The saved blocks that wait to be placed (R107): their block is not resident. -/
def State.waitingSaved (s : State) (l : Launch) : List Saved := l.saved.filter (fun v => (s.block? v.bid).isNone)

/-- The head item of a launch (R101, R103, R107). -/
def State.headItem (s : State) (l : Launch) : Option Item :=
  let ok (b : Nat) : Bool := sparseGet .waiting l.blocks b == .waiting && s.eligible l b
  match s.waitingSaved l with
  | v :: t =>
    let low := t.foldl (fun m w => if w.index < m.index then w else m) v
    some (.saved ((v :: t).filter (fun w => w.block.cluster == low.block.cluster)))
  | [] =>
    if 1 ≤ l.lr.nlb then
      if (List.range l.lr.n).all ok then some (.fresh (List.range l.lr.n)) else none
    else
      let blocks (c : Nat) : List Nat := (List.range l.lr.csize).map (fun r => c * l.lr.csize + r)
      (firstFrom (fun c => (blocks c).all ok) (l.lr.n / l.lr.csize) 0).map (fun c => .fresh (blocks c))

/-! ### Placement (R102 to R105) -/

/-- What a block needs of a core: crews, groups, chunks and free contexts. -/
structure Need where
  crews  : Nat
  groups : Nat
  chunks : Nat
  ctxs   : Nat
  deriving DecidableEq, Repr

/-- The need of a fresh block (R102). -/
def LaunchRec.need (l : LaunchRec) : Need := ⟨l.minc, l.minc * l.groups, l.scrch, 0⟩

/-- The need of a saved block: its saved crew count in place of MINC, and so that many times GROUPS; at least the groups that its
crews held, which it holds again (R102, R107, R214, log entry 30). -/
def Saved.need (v : Saved) (l : LaunchRec) : Need :=
  ⟨v.crews.length, max (v.crews.length * l.groups) (v.crews.map (fun p => p.2.groups)).sum, l.scrch, v.ctxs.length⟩

/-- The chunks of a core that the scratchpads of ended members hold, until their clusters end (R66). -/
def State.endedChunks (s : State) (k : Nat) : Nat :=
  (s.clusters.map (fun p =>
    (p.2.seats.filter (fun x => x.2 == k)).length * (match s.launch? p.2.unit with | some l => l.lr.scrch | none => 0))).sum

/-- What is used on a core: crews, groups, chunks and blocks. -/
def State.used (s : State) (k : Nat) : Nat × Nat × Nat × Nat :=
  ((s.crewsOn k).length, 1024 - s.freeGroups k, ((s.blocksOn k).map (fun p => s.scrchOf p.1)).sum + s.endedChunks k,
   (s.blocksOn k).length)

/-- The groups that blocked claims of a core ask for. -/
def Core.asked (q : Core) : Nat := (q.claims.map (fun c => c.n)).sum

/-- The core fits (R102, R214). -/
def State.fits (s : State) (k : Nat) (n : Need) : Bool :=
  let u := s.used k
  decide (u.1 + n.crews ≤ 32) && decide (u.2.1 + (s.core k).asked + n.groups ≤ 1024) &&
  decide (u.2.2.1 + n.chunks ≤ 2048) && decide (u.2.2.2 + 1 ≤ 16) &&
  decide (n.ctxs ≤ ((s.core k).ctxs.filter (fun c => c.holder.isNone)).length)

/-- The score of a core (R102). -/
def State.score (s : State) (k : Nat) (n : Need) : Nat :=
  let u := s.used k
  max (max (1024 * (u.1 + n.crews) / 32) (u.2.1 + n.groups)) (max (1024 * (u.2.2.1 + n.chunks) / 2048) (1024 * (u.2.2.2 + 1) / 16))

/-- The fitting core of a die with the lowest score, the lower number on a tie (R104). -/
def State.bestCore (s : State) (d : Nat) (n : Need) : Option Nat :=
  ((s.coresOfDie d).filter (fun k => s.fits k n)).foldl (fun m k =>
    match m with | none => some k | some j => if s.score k n < s.score j n then some k else some j) none

/-- The lowest block slot that is free on a core. -/
def State.freeSlot (s : State) (k : Nat) : Nat :=
  ((List.range 16).find? (fun i => !(s.blocksOn k).any (fun p => p.2.slot == i))).getD 16

/-- The cluster of a block, made when its rank-0 block is placed (R105). -/
def State.clusterFor (s : State) (l : Launch) (b k : Nat) : Nat × State :=
  let i := b / l.lr.csize
  match s.clusters.find? (fun p => p.2.unit == l.uid && p.2.index == i) with
  | some p => (p.1, s)
  | none =>
    let c : Cluster := ⟨l.uid, i, s.dieOfCore k, List.replicate l.lr.ncb (.start (l.lr.minc * l.lr.csize)), [], []⟩
    (s.nextUid, { s with clusters := s.clusters ++ [(s.nextUid, c)], nextUid := s.nextUid + 1 })

/-- Places a fresh block on a core (R105): its barriers, its chunks with every ownership bit clear, and MINC crews at ENTRY. -/
def State.startBlock (s : State) (l : Launch) (b k : Nat) : State :=
  let (cl, s1) := s.clusterFor l b k
  let now := s1.cclk (s1.dieOfCore k)
  let id := s1.nextUid
  let blk : Block :=
    { unit := l.uid, index := b, core := k, slot := s1.freeSlot k, cluster := cl, spad := [], chunks := [],
      members := l.lr.minc, departing := 0, bars := List.replicate l.lr.nbb (.start l.lr.minc),
      combine := List.replicate l.lr.nlb ⟨[], .none, 0⟩, gather := none, shrink := false, placedAt := now, saving := false,
      area := 0 }
  let s2 : State := { s1 with blocks := s1.blocks ++ [(id, blk)], nextUid := id + 1 }
  let s3 := (List.range l.lr.minc).foldl (fun s j => s.putCrew (.blk id j) (Crew.start l.uid l.lr.entry l.lr.groups false now)) s2
  State.startUnit 4 (s3.modLaunch l.uid (fun x => { x with blocks := sparseSet .waiting x.blocks b .resident })) l.uid

/-- Where the i-th saved context goes: the i-th context of the core that is free. -/
def State.freeCtxs (s : State) (k : Nat) : List Nat :=
  (List.range 2).filter (fun i => match (s.core k).ctxs[i]? with | some c => c.holder.isNone | none => false)

/-- Places a saved block on a core (R107, R214): its cluster barriers take units of the die of the rank-0 block (R105), and its crews and contexts take their room there; no crew issues until BLOCK_RESUME
has read the save area (R323). -/
def State.placeSaved (s : State) (l : Launch) (v : Saved) (k : Nat) : State :=
  let free := s.freeCtxs k
  let moved (c : Nat) : Nat :=
    ((List.range v.ctxs.length).find? (fun i => (listGet (9, .ctl 0) v.ctxs i).1 == c)).elim 9 (fun i => listGet 9 free i)
  let now := s.cclk (s.dieOfCore k)
  let q := s.core k
  let hold (i : Nat) (c : Ctx) : Ctx :=
    match (List.range v.ctxs.length).find? (fun j => listGet 9 free j == i) with
    | some j => { c with holder := some (listGet (9, .ctl 0) v.ctxs j).2 }
    | none => c
  let s1 := s.putCore k { q with ctxs := (List.range q.ctxs.length).map (fun i => hold i (listGet (.clear none) q.ctxs i)) }
  let sc := if v.index % l.lr.csize = 0 then s1.modCluster v.block.cluster (fun x => { x with die := s.dieOfCore k }) else s1
  let s2 : State := { sc with blocks := sc.blocks ++ [(v.bid, { v.block with core := k, slot := sc.freeSlot k, placedAt := now })] }
  let s3 := v.crews.foldl (fun s p =>
    s.putCrew (.blk v.bid p.1) { p.2 with age := now, sinceS := now, sinceL := now, ctx := p.2.ctx.map moved }) s2
  let v' : Saved := { v with
    ctxs := (List.range v.ctxs.length).map (fun j => (listGet 9 free j, (listGet (9, .ctl 0) v.ctxs j).2))
    mos := v.mos.map (fun e => { e with ctx := e.ctx.map moved }) }
  s3.modLaunch l.uid (fun x =>
    { x with saved := x.saved.map (fun w => if w.bid = v.bid then v' else w)
             blocks := sparseSet .waiting x.blocks v.index .resident })

/-- Places the blocks of an item on their dies, all or none (R104). -/
def State.placeFresh (s : State) (l : Launch) : List (Nat × Nat) → Option State
  | [] => some s
  | (b, d) :: t =>
    match s.bestCore d l.lr.need with
    | none => none
    | some k => (s.startBlock l b k).placeFresh l t

/-- The same for saved blocks. -/
def State.placeSaveds (s : State) (l : Launch) : List (Saved × Nat) → Option State
  | [] => some s
  | (v, d) :: t =>
    match s.bestCore d (v.need l.lr) with
    | none => none
    | some k => (s.placeSaved l v k).placeSaveds l t

/-- The deficit counters and the dies of the next n blocks (R104). -/
def chooseDies (n0 n1 : Int) : Nat → Int → Int → List Nat × Int × Int
  | 0, c0, c1 => ([], c0, c1)
  | n + 1, c0, c1 =>
    let a := c0 + n0
    let b := c1 + n1
    let d := if a < b then 1 else 0
    let r := if d = 0 then chooseDies n0 n1 n (a - (n0 + n1)) b else chooseDies n0 n1 n a (b - (n0 + n1))
    (d :: r.1, r.2)

/-- A launch that the distributor may serve: neither complete nor stopping. -/
def State.servable (s : State) (l : Launch) : Bool :=
  l.stop.isNone && (match s.unit? l.uid with | some u => u.live | none => false)

/-- The completion bitmaps that are free, of 16 (R100). -/
def State.freeBitmaps (s : State) : Nat := 16 - (s.launches.filter (fun x => x.bitmap.isSome)).length

/-- A TRACK launch takes a free bitmap, cleared, and waits for one while none is free (R100). -/
def State.takeBitmap (s : State) (l : Launch) : State :=
  if l.lr.track && l.bitmap.isNone then
    (if 0 < s.freeBitmaps then s.modLaunch l.uid (fun x => { x with bitmap := some [], bmWait := false })
     else s.modLaunch l.uid (fun x => { x with bmWait := true }))
  else s

/-- Bitmaps that have returned to the pool go to the launches that wait for one, oldest first (R100). -/
def State.grantBitmaps (s : State) : State :=
  s.launches.foldl (fun s x => if x.bmWait && s.servable x && decide (0 < s.freeBitmaps) then s.takeBitmap x else s) s

/-- What serving a launch comes to. -/
inductive Served
  | none (s : State)
  | waits (s : State)
  | placed (s : State)

/-- The linear indices of an item. -/
def Item.index : Item → List Nat | .saved v => v.map (·.index) | .fresh b => b

/-- A block of a launch has yet to be placed. -/
def Launch.awaits (l : Launch) (b : Nat) : Bool := sparseGet .waiting l.blocks b != .resident

/-- The die that was chosen for a block. -/
def Launch.dieFor (l : Launch) (b : Nat) : Nat := match l.chosen.find? (fun c => c.1 == b) with | some c => c.2.1 | none => 0

/-- A die was chosen for every block of an item. -/
def Launch.hasDies (l : Launch) (bs : List Nat) : Bool := bs.all (fun b => l.chosen.any (fun c => c.1 == b))

/-- The cluster barrier units that a C-die has in use: those of the clusters with a resident block (R17, R105, R322). -/
def State.clusterUnits (s : State) (d : Nat) : Nat :=
  ((s.clusters.filter (fun p => p.2.die == d && s.blocks.any (fun b => b.2.cluster == p.1))).map (fun p => p.2.bars.length)).sum

/-- The launch barrier units that a C-die has in use: those of the launches served that have not completed (R17, R105, R111). -/
def State.launchUnits (s : State) (d : Nat) : Nat :=
  ((s.launches.filter (fun l => l.served && l.die == d &&
    (match s.unit? l.uid with | some u => u.unfinished | none => false))).map (fun l => l.bars.length)).sum

/-- The C-die whose launch barrier units a launch takes when it is first served (R105). -/
def State.launchDie (s : State) : Nat := if s.shuttered 1 then 1 else 0

/-- The barrier units of each C-die hold what is allocated: 256 for clusters and 64 for launches (R17). -/
def State.unitsOk (s : State) : Bool := [0, 1].all (fun d => decide (s.clusterUnits d ≤ 256) && decide (s.launchUnits d ≤ 64))

/-- Serves one launch (R100, R103 to R105): it takes its bitmap, its head item takes its dies once, and is placed when it fits and the
barrier units that it needs are free (log entry 88). -/
def State.serve (s : State) (u : Nat) : Served :=
  match s.launch? u with
  | none => .none s
  | some la =>
    if !s.servable la then .none s
    else match s.headItem la with
      | none => .none s
      | some it =>
        let s0 := s.takeBitmap la
        let l := (s0.launch? u).getD la
        if l.lr.track && l.bitmap.isNone then .waits s0
        else if !l.served && decide (64 < s0.launchUnits s0.launchDie + l.lr.nlb) then .waits s0
        else
          let n0 : Int := (s0.coresOfDie 0).length
          let n1 : Int := (s0.coresOfDie 1).length
          let bs := it.index
          if !l.hasDies bs && n0 == 0 && n1 == 0 then .waits s0
          else
            let l1 : Launch := if l.served then l else { l with served := true, bars := List.replicate l.lr.nlb (.start l.lr.n), die := s0.launchDie }
            let l2 : Launch :=
              if l1.hasDies bs then l1
              else
                let r := chooseDies n0 n1 bs.length l1.c0 l1.c1
                { l1 with chosen := l1.chosen ++ (bs.zip r.1).map (fun p => (p.1, p.2, s0.cclk p.2)), c0 := r.2.1, c1 := r.2.2 }
            let s1 := s0.modLaunch u (fun _ => l2)
            let s2 := s0.modLaunch u (fun _ => { l2 with chosen := l2.chosen.filter (fun c => !bs.contains c.1) })
            let r : Option State := match it with
              | .fresh bs => s2.placeFresh l2 (bs.map (fun b => (b, l2.dieFor b)))
              | .saved vs => s2.placeSaveds l2 (vs.map (fun v => (v, l2.dieFor v.index)))
            match r with | some t => (if t.unitsOk then .placed t else .waits s1) | none => .waits s1

/-- Serves the launches of a class in submission order: one that waits holds back the rest (R103). -/
def State.serveClass (s : State) : List Nat → State × Bool
  | [] => (s, false)
  | u :: t =>
    match s.serve u with
    | .none s1 => s1.serveClass t
    | .waits s1 => (s1, false)
    | .placed s1 => (s1, true)

/-- Scheduling is frozen while the watchdog's hang lasts (R326). -/
def State.frozen (s : State) : Bool := s.mbox.state == 1

/-- PLACE_BLOCK (R103 to R105): the first class that has an item that fits. -/
def execPlaceBlock (s : State) : Out :=
  .next (
    if s.frozen then s
    else
      let cls (s : State) (p : Nat) : List Nat := (s.launches.filter (fun l => l.lr.prio == p)).map (·.uid)
      let g := s.grantBitmaps
      let a := g.serveClass (cls g 0)
      if a.2 then a.1
      else
        let b := a.1.serveClass (cls a.1 1)
        if b.2 then b.1 else (b.1.serveClass (cls b.1 2)).1)

/-! ### Growth and shrink (R106, R107) -/

/-- The element that is best under a strict order, the first on a tie. -/
def bestOf {α : Type} (better : α → α → Bool) (l : List α) : Option α :=
  l.foldl (fun m x => match m with | none => some x | some y => if better x y then some x else some y) none

/-- A launch of class at most p waits for a fitting core on die d (R106). -/
def State.waitsOn (s : State) (d p : Nat) : Bool :=
  s.launches.any (fun l => l.chosen.any (fun c => l.awaits c.1 && c.2.1 == d) && decide (l.lr.prio ≤ p) && s.servable l)

/-- The class of a block. -/
def State.prioOf (s : State) (b : Block) : Nat := match s.launch? b.unit with | some l => l.lr.prio | none => 3

/-- A block that a core may grow (R106). -/
def State.mayGrow (s : State) (k : Nat) (p : Nat × Block) : Bool :=
  match s.launch? p.2.unit with
  | none => false
  | some l =>
    l.lr.grow && decide ((s.crewsOf p.1).length < l.lr.maxc) && s.servable l && !p.2.saving &&
    decide (l.lr.groups ≤ s.freeGroups k) && !s.waitsOn (s.dieOfCore k) l.lr.prio

/-- GROW_CREW (R90, R106): the lowest free crew index of the block starts at the attach entry. -/
def execGrowCrew (k : Nat) (s : State) : Out :=
  .next (
    let q := s.core k
    let now := s.cclk (s.dieOfCore k)
    if s.frozen || !s.coreUp k || !q.claims.isEmpty || decide (32 ≤ (s.crewsOn k).length) || decide (now < q.lastGrow + 16) then s
    else
      let better (a b : Nat × Block) : Bool :=
        let pa := s.prioOf a.2
        let pb := s.prioOf b.2
        decide (pa < pb) || (pa == pb && (decide (a.2.placedAt < b.2.placedAt) ||
          (a.2.placedAt == b.2.placedAt && decide (a.2.slot < b.2.slot))))
      match bestOf better ((s.blocksOn k).filter (s.mayGrow k)) with
      | none => s
      | some (b, blk) =>
        match s.launch? blk.unit with
        | none => s
        | some l =>
          let j := ((List.range 16).find? (fun j => !(s.crewsOf b).contains j)).getD 16
          (s.putCore k { q with lastGrow := now }).putCrew (.blk b j) (Crew.start blk.unit l.lr.attach l.lr.groups true now))

/-- The crews of a block above its minimum (R107). -/
def State.above (s : State) (b : Nat) (blk : Block) : Nat :=
  let n := (s.crewsOf b).length
  n - (match s.launch? blk.unit with | some l => l.lr.minc | none => n)

/-- The target that a core picks for a shrink, when a condition of R107 holds. -/
def State.shrinkTarget (s : State) (k : Nat) : Option Nat :=
  let d := s.dieOfCore k
  let now := s.cclk d
  let live (p : Nat × Block) : Bool :=
    !p.2.saving && (match s.launch? p.2.unit with | some l => s.servable l | none => false)
  let cand := (s.blocksOn k).filter (fun p => live p && decide (0 < s.above p.1 p.2))
  let stuck := match (s.core k).claims with | c :: _ => decide (c.since + 4096 ≤ now) | [] => false
  let late (l : Launch) : Bool :=
    s.servable l && l.chosen.any (fun c => l.awaits c.1 && c.2.1 == d && decide (c.2.2 + 4096 ≤ now))
  let pool := if stuck then cand
    else cand.filter (fun p => s.launches.any (fun l => late l && decide (l.lr.prio < s.prioOf p.2)))
  let better (a b : Nat × Block) : Bool :=
    let pa := s.prioOf a.2
    let pb := s.prioOf b.2
    let na := s.above a.1 a.2
    let nb := s.above b.1 b.2
    decide (pb < pa) || (pa == pb && (decide (nb < na) || (na == nb && decide (b.2.slot < a.2.slot))))
  (bestOf better pool).map (·.1)

/-- SHRINK_REQUEST (R107). -/
def execShrinkRequest (k : Nat) (s : State) : Out :=
  .next (
    if s.frozen || !s.coreIn k || (s.core k).shrink.isSome then s
    else match s.shrinkTarget k with
      | none => s
      | some b =>
        (s.putCore k { s.core k with shrink := some ⟨b, s.cclk (s.dieOfCore k)⟩ }).modBlock b (fun x => { x with shrink := true }))

/-! ### The end of a cancel (R111) -/

/-- Removes a resident block whose crews have stopped: its tile instructions are withdrawn, and everything it held returns. -/
def State.clearBlock (s : State) (b : Nat) : State :=
  let mine (c : CrewRef) : Bool := match c with | .blk b' _ => b' == b | .ctl _ => false
  let es := s.cores.flatMap (fun q => q.mos.filter (fun e => mine e.crew))
  let s1 := es.foldl (fun s e => s.withdraw e) s
  let s2 := (s1.crewsOf b).foldl (fun s j => ((s.dropClaims (.blk b j)).releaseCtx (.blk b j)).dropCrew (.blk b j)) s1
  s2.removeBlock b

/-- A tile instruction of a unit's launch is inside a step, which it finishes first (R111, R114). -/
def State.midStep (s : State) (u : Nat) : Bool :=
  s.cores.any (fun q => q.mos.any (fun e => e.part.isSome && (match s.blockOf e.crew with | some b => b.unit == u | none => false)))

/-- CANCEL_DONE (R111, R314, R317): every crew of a cancelling or failing launch has stopped, or every unit below a cancelling one
has; the counter goes to its final state. -/
def execCancelDone (u : Nat) (s : State) : Out :=
  .next (
    match s.unit? u with
    | none => s
    | some x =>
      let stop := (s.launch? u).bind (·.stop)
      if s.midStep u then s
      else if x.level = .lch then
        let clear (s : State) : State := ((s.blocks.filter (fun p => p.2.unit == u)).map (·.1)).foldl State.clearBlock s
        if x.state = .cancelling then (clear s).finishUnit u .cancelled x.cause
        else match stop with
          | some c => if x.live then (clear s).finishUnit u .error c else s
          | none => s
      else if x.state = .cancelling && !(s.units.any (fun y => y.parent == some u && y.unfinished)) then
        s.finishUnit u .cancelled x.cause
      else s)

end Sys2Proof.Machine
end

