-- ==== Sys2Proof/Machine/Mos.lean ====
section
/-!
DEFINITION. The macro-op sequencer (R114, R117, R218, R222): which tile instructions have a step ready, MOS_STEP, the rendezvous
latch (R225), the end of copies and what becomes of one that meets a fault (R269, R273), the slow path (R273, R325), and overlays
that have arrived (R55, R278).
-/

namespace Sys2Proof.Machine

/-! ### Readiness (R114, R117, R218, R222) -/

/-- The MOS queue with a number: of a core, or, past the cores, of the control tile of a C-die. -/
def State.queueAt (s : State) (core : Nat) : List MosEntry :=
  if core < s.cores.length then (s.core core).mos else (s.ctl (core - s.cores.length)).load

/-- Entry k of a queue. -/
def State.tileAtQ (s : State) (core k : Nat) : Option MosEntry := (s.queueAt core)[k]?

/-- A step that uses the matrix array (R117). -/
def MosEntry.isArray (e : MosEntry) : Bool :=
  match e.instr with | .mma _ => true | .mxpop _ => true | .mdist _ => true | _ => false

/-- Some crew among the blocks that are saved together has an outstanding destination, or a tile instruction of theirs is inside a
rendezvoused joint operation or inside a step: until none is left, their tile instructions go on, since a save area never holds an
outstanding destination and a joint operation completes first (R48, R225, R322). -/
def State.saveOpen (s : State) (b : Nat) : Bool :=
  (s.saveGroup b).any (fun x => (s.crewsOf x).any (fun j =>
    (match s.crew? (.blk x j) with | some k => !k.out.isEmpty | none => false) ||
    (s.mosOf (.blk x j)).any (fun e => e.crew == .blk x j && (e.joint.isSome || e.part.isSome))))

/-- The crew of an entry lets it step: it has not been stopped, and its block is not being saved or has still to finish (R111, R225,
R322); a step that has begun is always finished; one whose request a link holds for a shuttered chiplet waits (R300). -/
def State.tileMoves (s : State) (e : MosEntry) : Bool :=
  match s.crew? e.crew with
  | none => false
  | some k =>
    !s.links.any (fun x => x.held.any (fun h => h.1 == .tile e.uid)) &&
    (e.part.isSome || !k.stopping && (!s.savingCrew e.crew || s.saveOpen e.crew.blockId))

/-- The first step must wait for an earlier tile instruction of the same crew to begin (R114): for one that a fault holds only where
they touch the same (R352). -/
def MosEntry.unbegun (e x : MosEntry) : Bool :=
  x.crew == e.crew && decide (x.uid < e.uid) && !x.fin && !e.passes x && (if x.held then x.clash e else !x.started)

/-- The first step must wait for an earlier tile instruction of the same crew (R114, R218). -/
def State.behindOwn (s : State) (e : MosEntry) : Bool :=
  (s.mosOf e.crew).any (fun x => e.unbegun x ||
    (x.crew == e.crew && decide (x.uid < e.uid) && !x.fin &&
      (if e.passes x then x.sp.any (fun r => e.sp.any (rangesMeet r)) else x.clash e)))

/-- The class of an entry's crew (R114). -/
def State.classOf (s : State) (e : MosEntry) : Nat := (s.recOf e.crew).prio

/-- A reader of the weight buffer must wait: regions of its image are being filled, or a writer accepted before it has not
finished (R222). -/
def State.readWaits (s : State) (e : MosEntry) : Bool :=
  match e.wb with
  | none => false
  | some w =>
    (s.core (s.coreOf e.crew)).fillingAt w ||
    (s.mosOf e.crew).any (fun x => x.isWriter && !x.held && decide (x.order < e.order) &&
      (match x.span with | some y => rangesMeet (regionsOf y) (regionsOf w) | none => false))

/-- The first step may start, as far as the crew's own order and the weight buffer go. -/
def State.mayStart (s : State) (e : MosEntry) : Bool := !s.behindOwn e && !(e.isReader && s.readWaits e)

/-- An OVLOAD must wait while another to its slot is in flight (R278). -/
def State.slotBusy (s : State) (e : MosEntry) : Bool :=
  match e.instr with
  | .ovload _ => (s.mosOf e.crew).any (fun x =>
      (match x.instr with | .ovload _ => true | _ => false) && x.uid != e.uid && x.ovSlot == e.ovSlot && !x.held &&
      (x.started || decide (x.order < e.order)))
  | _ => false

/-- Four TREDs hold the done maps of the core already (R277): four that have started, and, for one that has itself started elsewhere
and been resumed here, that come before it. -/
def State.mapsFull (s : State) (e : MosEntry) : Bool :=
  match e.instr with
  | .tred _ => decide (4 ≤ ((s.mosOf e.crew).filter (fun x =>
      (match x.instr with | .tred _ => true | _ => false) && x.uid != e.uid && x.started &&
      (!e.started || decide (x.order < e.order)))).length)
  | _ => false

/-- CNT of the entry's gang word is not 0: a joint MMA (R225). -/
def MosEntry.isJoint (e : MosEntry) : Bool := gangCnt e.gang != 0

/-- The entry has a step ready, whatever the alternation of contexts. A joint MMA steps as its home member, once every member may
start. -/
def State.hasStep (s : State) (e : MosEntry) : Bool :=
  !e.held && !e.fin && e.met.isNone && !e.slow && s.tileMoves e && !s.slotBusy e && !s.mapsFull e &&
  (if e.isJoint then e.joint == some e.uid && (e.started || (s.membersOf e).all s.mayStart)
   else e.started || s.mayStart e)

/-- The alternation of the two contexts lets the entry use the array (R117). -/
def State.arrayTurn (s : State) (e : MosEntry) : Bool :=
  !e.isArray || (s.core (s.coreOf e.crew)).lastCtx != e.ctx ||
  !(s.mosOf e.crew).any (fun x => x.isArray && x.ctx.isSome && x.ctx != e.ctx && s.hasStep x)

/-- The engine whose steps the MOS chooses among (R114): the array for a context, the copies and overlay loads, the loads of the weight
buffer, and the other work on contexts (log entry 99). -/
def MosEntry.engine (e : MosEntry) : Nat × Option Nat :=
  if e.isArray then (0, e.ctx) else if e.instr.isCopy then (1, none) else if e.isWriter then (2, none) else (3, none)

/-- The entry is the oldest instruction of the highest class among those of its engine that have a step ready (R114). Whether the
data of another's step are there is free (log entry 4). -/
def State.tileFirst (s : State) (e : MosEntry) : Bool :=
  !(s.mosOf e.crew).any (fun x => x.engine == e.engine && Config.freeReady s.draws (2 * x.uid + 1) && s.hasStep x &&
    (decide (s.classOf x < s.classOf e) || (s.classOf x == s.classOf e && decide (x.uid < e.uid))))

/-! ### The rendezvous latch (R225) -/

/-- The unit of an entry's launch. -/
def State.unitOf (s : State) (e : MosEntry) : Nat := match s.blockOf e.crew with | some b => b.unit | none => 0

/-- The members that wait in the latch for a launch. -/
def State.latched (s : State) (e : MosEntry) : List MosEntry :=
  (s.mosOf e.crew).filter (fun x => x.isJoint && x.arrived.isSome && x.joint.isNone && !x.held && s.unitOf x == s.unitOf e)

/-- The time and the place of an arrival. -/
def MosEntry.since (e : MosEntry) : Nat := (e.arrived.getD (0, 0)).1
def MosEntry.place (e : MosEntry) : Nat := (e.arrived.getD (0, 0)).2

/-- Inserts a member by its place. -/
def placeInsert (e : MosEntry) : List MosEntry → List MosEntry
  | [] => [e]
  | h :: t => if e.place < h.place then e :: h :: t else h :: placeInsert e t

/-- The members of a tag, in the order of their arrivals. -/
def State.tagMembers (s : State) (e : MosEntry) : List MosEntry :=
  ((s.latched e).filter (fun x => gangTag x.gang == gangTag e.gang)).foldl (fun l x => placeInsert x l) []

/-- The mode of a member's context when the joint operation begins. -/
def State.homeMode (s : State) (e : MosEntry) (x : Nat) : CtxMode :=
  let y := s.ctxAt e.crew x
  (((s.mosOf e.crew).filter (fun m => m.crew == e.crew && m.ctx == some x && decide (m.uid < e.uid))).foldl
    (fun m i => i.modeAfter m) (y.mode, y.k)).1

/-- The slot that an MMA names. -/
def MosEntry.mmaSlot (e : MosEntry) : Nat := match e.instr with | .mma o => o.x.toNat | _ => 0

/-- The checks at the rendezvous. -/
def State.gangOk (s : State) (ms : List MosEntry) : Bool :=
  match ms with
  | [] => false
  | a :: _ =>
    let homes := ms.filter (fun m => gangHome m.gang)
    let rows (m : MosEntry) : Nat × Nat := (gangBase m.gang, gangBase m.gang + gM m.grant)
    ms.all (fun m => gangCnt m.gang == gangCnt a.gang && listGet 0 m.vals 1 == listGet 0 a.vals 1 && m.mmaSlot == a.mmaSlot &&
      gN m.grant == gN a.grant && gK m.grant == gK a.grant && decide ((rows m).2 ≤ 128)) &&
    ms.all (fun m => ms.all (fun n => m.uid == n.uid || !rangesMeet (rows m) (rows n))) &&
    (match homes with
     | [h] => (match h.ctx with | some x => (let m := s.homeMode h x; m == .none || m == .f) | none => false)
     | _ => false)

/-- The rendezvous of the members of a tag: the joint operation begins, under the name of its home member, or every member takes
GANGMIS. -/
def State.rendezvous (s : State) (ms : List MosEntry) : State :=
  if s.gangOk ms then
    match ms.find? (fun m => gangHome m.gang) with
    | some h => ms.foldl (fun s m => s.setTile { m with joint := some h.uid }) s
    | none => s
  else s.holdAll ms cGANGMIS 0

/-- The home context is still used by an earlier instruction of the home crew: the joint operation holds it from the rendezvous on,
with no other instruction on it in between (R117). -/
def State.homeBusy (s : State) (ms : List MosEntry) : Bool :=
  match ms.filter (fun m => gangHome m.gang) with
  | [h] => (s.mosOf h.crew).any (fun x => x.crew == h.crew && decide (x.uid < h.uid) && x.ctx.isSome && x.ctx == h.ctx)
  | _ => false

/-- The members of a tag meet when CNT of them wait in the latch and the home context is free for them (R117, R225). -/
def State.meet (s : State) (e : MosEntry) : State :=
  let ms := s.tagMembers e
  let cnt := match ms with | a :: _ => gangCnt a.gang | [] => 0
  if cnt ≤ ms.length && !s.homeBusy (ms.take cnt) then s.rendezvous (ms.take cnt) else s

/-- An earlier tile instruction of the crew keeps a joint MMA from the latch: a joint MMA that has not arrived, or one on which it depends
and which a fault holds (R352). -/
def MosEntry.keepsBack (e x : MosEntry) : Bool :=
  x.crew == e.crew && decide (x.uid < e.uid) && !x.fin && (if x.held then x.clash e else x.isJoint && x.arrived.isNone)

/-- A joint MMA arrives at the latch, into which the MOS accepts it before anything that its steps wait for has come about (R225, R347,
log entry 68), unless 8 tags are open for its launch; the member that completes its tag brings about the rendezvous. -/
def State.arriveAtLatch (s : State) (e : MosEntry) : State :=
  let open_ := ((s.latched e).map (fun x => gangTag x.gang)).eraseDups
  if (s.mosOf e.crew).any e.keepsBack then s
  else if !open_.contains (gangTag e.gang) && decide (8 ≤ open_.length) then s
  else
    let e1 : MosEntry := { e with arrived := some (s.cclk (s.dieOf e.crew), s.nextUid) }
    let s1 : State := { s.setTile e1 with nextUid := s.nextUid + 1 }
    s1.meet e1

/-- GANG_TIMEOUT (R225): a tag still short of members 65,536 aclk after its first arrival makes every waiting member take
GANGTO. -/
def execGangTimeout (core k : Nat) (s : State) : Out :=
  .next (
    match s.tileAtQ core k with
    | none => s
    | some e =>
      if e.isJoint && e.arrived.isSome && e.joint.isNone && !e.held then
        match s.tagMembers e with
        | [] => s
        | a :: t =>
          if (a :: t).length < gangCnt a.gang ∧ a.since + 65536 ≤ s.cclk (s.dieOf e.crew) then s.holdAll (a :: t) cGANGTO 0 else s
      else s)

/-! ### MOS_STEP -/

/-- The work of one step of an entry that has one ready; `clean` is the slow path. -/
def State.tileStep (s : State) (e : MosEntry) (clean : Bool) : State :=
  match e.instr with
  | .tld _ => s.copyStep e clean
  | .tst _ => s.copyStep e clean
  | .tgath _ => s.copyStep e clean
  | .tscat _ => s.copyStep e clean
  | .tred _ => s.copyStep e clean
  | .ovload _ => (s.walkBody e .execute (e.ovAddr + 4096 * (e.step + 1)) (e.ovAddr + ovSize e.tsr)).ovloadStep e clean
  | .wloadImg _ =>
    let va := (e.vals.headD 0).toNat
    (s.walkBody e .read (va + 64 + 4096 * e.step) (va + (WHead.ofBytes e.tsr).size)).wloadImgStep e clean
  | .wloadTile _ => s.wloadTileStep e
  | .mma o => s.mmaStep e o.x.toNat
  | .mxpop o => s.mxpopStep e o.x.toNat
  | .mdist o => s.mdistStep e o.x.toNat
  | .msmax _ => s.msmaxStep e
  | .mnorm _ => s.mnormStep e
  | .mmerge _ => s.mmergeStep e
  | .mdrain o => s.mdrainStep e o.x.toNat
  | .mzeroAcq _ => s.mzeroStep e
  | .mzeroClr _ => s.mzeroStep e
  | .mzeroRel _ => s.mzeroRelStep e
  | _ => s

/-- The array has stepped for a context (R117). -/
def State.noteArray (s : State) (e : MosEntry) : State :=
  if e.isArray then s.putCore (s.coreOf e.crew) { s.core (s.coreOf e.crew) with lastCtx := e.ctx } else s

/-- MOS_STEP (R114, R117): one step of one tile instruction, the oldest of the highest class of its engine, for the array after the
alternation of the contexts; a step in progress is finished. A joint MMA that has not met its gang arrives at the latch, and the
members meet there. -/
def execMosStep (core k : Nat) (s : State) : Out :=
  .next (
    match s.tileAtQ core k with
    | none => s
    | some e =>
      if e.isJoint && e.joint.isNone && !e.held && s.tileMoves e then
        (if e.arrived.isNone then s.arriveAtLatch e else s.meet e)
      else if s.hasStep e && (e.part.isSome || (s.arrayTurn e && s.tileFirst e)) then (s.noteArray e).tileStep e false
      else s)

/-! ### The end of a copy (R269, R273) -/

/-- The crew of an entry has been stopped. -/
def State.stopped (s : State) (e : MosEntry) : Bool := match s.crew? e.crew with | some k => k.stopping | none => true

/-- COPY_COMPLETE (R269): a copy whose last access has completed flips the chunks of its set, in one step. -/
def execCopyComplete (core k : Nat) (s : State) : Out :=
  .next (
    match s.tileAtQ core k with
    | none => s
    | some e =>
      if e.fin && !s.stopped e then
        (match e.instr with | .ovload _ => s | _ => s.endCopy e .held)
      else s)

/-- A location in host or peer memory (R27). -/
def Loc.outside : Loc → Bool
  | .phys p => tierOf p.pa == 3 && !isDev p.pa
  | .spad _ _ _ => false
  | .ended _ _ _ _ => false
  | .table _ => false

/-- The locations that the step of an entry reaches: in memory, and for a load in the scratchpads of its targets. -/
def State.stepLocs (s : State) (e : MosEntry) : List Loc :=
  match e.instr with
  | .ovload _ => (s.engReach e.crew e.priv .execute (e.ovAddr + 4096 * e.step) (min 4096 (ovSize e.tsr - 4096 * e.step))).1.1
  | .wloadImg _ =>
    let va := (e.vals.headD 0).toNat
    (if e.step = 0 then s.engReach e.crew e.priv .read va 64 else s.engReach e.crew e.priv .read (va + 64 + 4096 * (e.step - 1)) 1).1.1
  | _ =>
    let g := s.geo e
    let x := g.span (s.spadOf e.crew.blockId) e.step
    (match s.reachSpan e g x (copyKind e.instr) true with
     | .wait _ ls => ls
     | .got ls _ _ _ => ls) ++ (if copyKind e.instr = .read then s.tileLocs e g x else [])

/-- The step in progress reaches host or peer memory. -/
def State.stepOutside (s : State) (e : MosEntry) : Bool := (s.stepLocs e).any Loc.outside

/-- The copies, and WLOAD.img, which reads memory as they do (R223). -/
def MosEntry.moves (e : MosEntry) : Bool := e.instr.isCopy || (match e.instr with | .wloadImg _ => true | _ => false)

/-- A copy is over without having been completed: its chunks are failed; an OVLOAD leaves its slot empty, and a WLOAD no valid
image. -/
def State.failCopy (s : State) (e : MosEntry) : State :=
  match e.instr with
  | .ovload _ => s.ovFail e
  | .wloadImg _ =>
    let q := (s.core (s.coreOf e.crew)).endFill e.uid
    (s.putCore (s.coreOf e.crew) q).finishTile e 0
  | _ => s.endCopy e (.failed e.ipc e.step e.addr)

/-- A copy ends with a transport error (R273, R300, R308). -/
def State.transportError (s : State) (e : MosEntry) : State :=
  ((s.unpinTile e).failCopy { e with pins := [] }).log cXPORTERR (1 + s.dieOf e.crew) e.ipc.toNat 0

/-- The chiplet that holds a location. -/
def State.chipletOfLoc (s : State) (l : Loc) : Nat :=
  match l with
  | .phys p => s.chipletOf p.pa
  | .table pa => s.chipletOf pa
  | .spad b _ _ => s.spadDie b
  | .ended cl r _ _ => s.endedDie cl r

/-- The entries of every queue whose step in progress reaches a location that a test picks. -/
def State.inFlight (s : State) (test : MosEntry → Loc → Bool) : List MosEntry :=
  ((s.cores.flatMap (fun k => k.mos)) ++ s.ctls.flatMap (fun k => k.load)).filter (fun e =>
    e.moves && e.started && !e.fin && !e.held && e.met.isNone && !e.slow &&
    (s.stepLocs e).any (test e))

/-- The operations in flight that reach some bytes of memory end with a transport error (R308). -/
def State.failInFlight (s : State) (test : Nat → Bool) : State :=
  (s.inFlight (fun _ l => match l with | .phys p => test p.pa | .table pa => test pa | .spad _ _ _ => false | .ended _ _ _ _ => false)).foldl
    (fun s e => s.transportError e) s

/-- The abandoned copy starts again from its first step, which keeps its chunks and its done map. -/
def State.replayTile (s : State) (e : MosEntry) : State :=
  s.setTile { e with
    step := 0, met := none, part := none, pins := [], replay := e.replay + 1
    tsr := if e.isWriter then [] else e.tsr }

/-- COPY_ABANDON (R273, R325): a copy that has met a fault releases its pins, and is held for its crew's trap, replayed, handed to
the slow path, or, after a transport error, over with its chunks failed. -/
def execCopyAbandon (core k : Nat) (why : CopyFault) (s : State) : Out :=
  .next (
    match s.tileAtQ core k with
    | none => s
    | some e =>
      if !e.moves || s.stopped e || e.held then s
      else
        let s1 := s.unpinTile e
        let e1 : MosEntry := { e with pins := [] }
        match why, e.met with
        | .met, some (c, a) =>
          if c = cMEMERR then s
          else s1.holdTile e1 c a (match e.instr with | .wloadImg _ => e.step | _ => 0)
        | .readError, some (c, a) =>
          if c ≠ cMEMERR then s
          else if e.replay < 3 then s1.replayTile e1
          else (s1.setTile { e1 with met := none, slow := true }).log cMEMERR (1 + s.dieOf e.crew) e.ipc.toNat a.toNat
        | .transport, none =>
          if (e.started || s.hasStep e) && !e.fin && s.stepOutside e then
            (match s.beginStep e with | some (s1, e1) => s1.transportError e1 | none => s)
          else s
        | .met, none => s
        | .readError, none => s
        | .transport, some _ => s)

/-! ### The slow path (R273, R325) -/

/-- The steps of an entry that the slow path may have left to do. -/
def State.stepBound (s : State) (e : MosEntry) : Nat :=
  match e.instr with
  | .ovload _ => 17
  | .wloadImg _ => 514
  | _ => (s.geo e).steps

/-- The firmware performs the remaining steps of an entry, until it is done, or meets a fault that its crew must take. -/
def State.slowRun (u : Nat) (c : CrewRef) : Nat → State → State
  | 0, s => s
  | n + 1, s =>
    match (s.mosOf c).find? (fun x => x.uid == u) with
    | none => s
    | some e => if e.fin || e.held || e.met.isSome then s else State.slowRun u c n (s.tileStep e true)

/-- What the slow path does when its steps are done: the chunks flip, or the overlay arrives; a WLOAD has recorded its image. -/
def State.slowEnd (s : State) (u : Nat) (c : CrewRef) : State :=
  match (s.mosOf c).find? (fun x => x.uid == u) with
  | none => s
  | some e =>
    if e.fin then (match e.instr with | .ovload _ => s.ovArrive e | _ => s.endCopy e .held) else s

/-- SLOW_PATH (R325, R326): while it runs, the firmware finishes a copy from its saved step and done map, or, when it cannot read the data, ends it in
failure. -/
def execSlowPath (core k : Nat) (ok : Bool) (s : State) : Out :=
  .next (
    match s.tileAtQ core k with
    | none => s
    | some e =>
      if s.firmwareRuns && e.slow && !e.held && e.met.isNone && !s.stopped e then
        (if ok then (State.slowRun e.uid e.crew (s.stepBound e) s).slowEnd e.uid e.crew
         else match e.instr with
           | .wloadImg _ => s.wimgBad { e with slow := false, replay := 0 }
           | _ => s.failCopy e)
      else s)

/-- OVERLAY_ARRIVED (R55, R278): the body of an image has arrived in a slot. -/
def execOverlayArrived (st : StoreRef) (slot : Nat) (s : State) : Out :=
  .next (
    let q := match st with | .core k => (s.core k).mos | .ctl d => (s.ctl d).load
    match q.find? (fun e => (match e.instr with | .ovload _ => true | _ => false) && e.ovSlot == slot && e.fin) with
    | none => s
    | some e => if s.stopped e then s else s.ovArrive e)

end Sys2Proof.Machine
end

