-- ==== Sys2Proof/Machine/Serve.lean ====
section
/-!
DEFINITION. The serving instructions of the Foreman: binding (R134 to R136), request records (R137 to R139), admission (R140, R141,
R165), forming a phase (R142 to R147), retiring (R149), the page instructions (R156) and the handoff (R166).
-/

namespace Sys2Proof.Machine

/-! ### Request records (R138) -/

/-- A field of record i, and a write of it. -/
def State.reqF (s : State) (i w hi lo : Nat) : Nat := bitsN (s.req i w).toNat hi lo
def State.setReqF (s : State) (i w hi lo v : Nat) : State :=
  let m : W64 := BitVec.ofNat 64 ((2 ^ (hi + 1 - lo) - 1) * 2 ^ lo)
  s.setReq i w (maskMerge (s.req i w) (BitVec.ofNat 64 (v * 2 ^ lo)) m)

def State.rState (s : State) (i : Nat) : Nat := s.reqF i 0 63 61
def State.rPrio (s : State) (i : Nat) : Nat := s.reqF i 0 60 59
def State.rRid (s : State) (i : Nat) : Nat := s.reqF i 0 31 0
def State.rLen (s : State) (i : Nat) : Nat := s.reqF i 1 63 32
def State.rPlen (s : State) (i : Nat) : Nat := s.reqF i 1 31 0
def State.rMaxlen (s : State) (i : Nat) : Nat := s.reqF i 2 63 32
def State.rPfill (s : State) (i : Nat) : Nat := s.reqF i 2 31 0
def State.rBtab (s : State) (i : Nat) : Nat := s.reqF i 3 51 0
def State.rBtlen (s : State) (i : Nat) : Nat := s.reqF i 4 63 32
def State.rPgrp (s : State) (i : Nat) : Nat := s.reqF i 4 31 0
def State.rAge (s : State) (i : Nat) : Nat := s.reqF i 11 63 32
def State.rNdraft (s : State) (i : Nat) : Nat := s.reqF i 12 63 60
def State.setRState (s : State) (i v : Nat) : State := s.setReqF i 0 63 61 v
def State.setRLen (s : State) (i v : Nat) : State := s.setReqF i 1 63 32 v
def State.setRPfill (s : State) (i v : Nat) : State := s.setReqF i 2 31 0 v
def State.setRCause (s : State) (i v : Nat) : State := s.setReqF i 15 63 56 v

/-- Record states that are live. -/
def liveStates : List Nat := [1, 2, 3, 4, 6]

/-- The records that a context owns, in ascending order. -/
def State.owned (s : State) (x : Nat) : List Nat := (s.fore.owner.filter (fun p => p.2 == x + 1)).map (·.1)

/-- Its live records. -/
def State.liveRecs (s : State) (x : Nat) : List Nat := (s.owned x).filter (fun i => liveStates.contains (s.rState i))

/-- The context owns record i. -/
def State.owns (s : State) (x i : Nat) : Bool := decide (i < 8192) && sparseGet 0 s.fore.owner i == x + 1

/-- The open phase of a context exists (R139). -/
def State.phaseOpen (s : State) (x : Nat) : Bool :=
  match (s.sctx x).openPh with
  | none => false
  | some u => match s.unit? u with | some y => y.unfinished | none => false

/-- A record is in the open phase, or in the one that an SQNEXT which waits is forming. -/
def State.inPhase (s : State) (x i : Nat) : Bool :=
  (s.phaseOpen x && (s.sctx x).batch.contains i) ||
  (match (s.sctx x).forming with | some f => f.batch.any (fun e => e.i == i) | none => false)

/-- A handoff of the record is in progress (R166). -/
def State.sending (s : State) (i : Nat) : Bool := s.fore.sends.any (fun h => h.idx == i)

/-- A request that is being sent was ended meanwhile: the cause is kept until the end of the handoff (R139). -/
def State.endLater (s : State) (i cause : Nat) : State :=
  { s with fore := { s.fore with sends := s.fore.sends.map (fun h => if h.idx = i then { h with ended := some cause } else h) } }

/-! ### The mould of the serving instructions (R134) -/

/-- A serving instruction: ILLINS outside a control crew; SRVCFG while its context is frozen (R324). -/
def serveIns (s : State) (f : Nat → CrewRef → Crew → State) : Out :=
  scalarIns s (fun c k =>
    match c with
    | .blk _ _ => s.trap c cILLINS
    | .ctl d => if (s.sctx d).frozen then s.trap c cSRVCFG else f d c k)

/-- One that needs a bound context: SRVBIND (R136). -/
def boundIns (s : State) (f : Nat → CrewRef → Crew → State) : Out :=
  serveIns s (fun x c k => if (s.sctx x).bound.isNone then s.trap c cSRVBIND else f x c k)

/-- Its result: the effects are written, and rd is delivered later (R134). -/
def State.serveDone (s : State) (c : CrewRef) (sw : Bool) (rd : BitVec 7) (v : Nat) : State :=
  s.modCrew c (fun k => (k.pendS rd (BitVec.ofNat 64 v) 0).next sw)

/-- All ones. -/
def allOnes : Nat := 0xFFFFFFFFFFFFFFFF

/-- The effect of a serving instruction that reaches some ranges of memory: SRVCFG when the Foreman may not reach one of them (R291),
and a stall while a page that they lie in migrates (R252). -/
def State.served (s : State) (x : Nat) (c : CrewRef) (spans : List (Nat × Nat)) (f : State) : State :=
  if !s.unitReach x spans then s.trap c cSRVCFG else if s.unitWaits spans then s else f

/-- The ranges that the retiring of records reaches: their block tables, and what each page's drop reaches. -/
def State.retireSpans (s : State) (x : Nat) (is : List Nat) : List (Nat × Nat) :=
  is.flatMap (fun i =>
    let a := bitsN (s.req i 3).toNat 51 0
    let n := bitsN (s.req i 4).toNat 63 32
    (a, 4 * n) :: (s.pagesOf a n).flatMap (s.dropSpans x))

/-! ### Binding (R135, R136, R150) -/

/-- The base of a tier's range of R27, and its end. -/
def tierRange (t : Nat) : Nat × Nat :=
  if t = 0 then (0, 0x100000000) else if t = 1 then (0x010000000000, 0x01C000000000) else (0x100000000000, 0x140000000000)

/-- A serving record is well-formed (R135). -/
def SCtx.recordOk (c : SCtx) : Bool :=
  let rsv (w hi lo : Nat) : Bool := c.field w hi lo == 0
  c.field 0 7 0 == 1 && [1, 2, 4, 8, 16, 32, 64, 128, 256, 512, 1024, 2048, 4096].contains c.tpp &&
  decide (12 ≤ c.log2pb) && decide (c.log2pb ≤ 24) &&
  [1, 3, 5, 7, 9, 10, 12, 13, 14].all (fun w => rsv w 63 52) && c.desc % 4096 == 0 &&
  rsv 2 63 25 && decide (1 ≤ c.npg) && decide (c.npg ≤ 2 ^ 24) &&
  [4, 6, 8].all (fun w => rsv w 31 0) && decide (1 ≤ c.fn 1) &&
  (List.range 3).all (fun t => c.fb t % c.pb == 0 && decide ((tierRange t).1 ≤ c.fb t) &&
    decide (c.fb t < (tierRange t).2)) &&
  c.field 9 51 0 % 8 == 0 && c.intake % 128 == 0 && rsv 11 63 17 && decide (c.log2in ≤ 13) && c.tmpl % 8 == 0 && c.plan % 64 == 0 && c.input % 4 == 0 &&
  decide (1 ≤ c.budget) && decide (c.budget ≤ 16384) && decide (1 ≤ c.chunk) && decide (c.chunk ≤ 16384)

/-- A descriptor that binding accepts (R8, R150). -/
def Desc.bindable (d : Desc) : Bool := !d.rsv && (d.state == 0 || (d.state == 1 && d.ref != 0))

/-- Links the free descriptors in ascending page order (R150). -/
def State.linkFree (s : State) (x : Nat) : List Nat → State
  | [] => s
  | p :: t => (s.putDesc x p { s.desc x p with link := t.headD noPage }).linkFree x t

/-- Binds a record to an unbound context, or none for SRVCFG (R136). The latched tail starts at IHEAD (log entry 33). -/
def State.bind (s : State) (x a : Nat) : Option State :=
  if a % 128 != 0 || !s.reaches (s.ctxWorld x) a 128 then none
  else
    let old := s.sctx x
    let c : SCtx := { old with
      bound := some a
      words := (List.range 16).map (fun i => s.word64 (a + 8 * i))
      openPh := none
      batch := []
      stale := []
      forming := none }
    if !c.recordOk then none
    else
      let s1 := s.setSctx x { c with tail := BitVec.ofNat 32 (c.field 15 31 0) }
      if !s.reaches (s.ctxWorld x) c.desc (32 * c.npg) then none
      else if !(List.range c.npg).all (fun p => (s1.desc x p).bindable) then none
      else
        let free := (List.range c.npg).filter (fun p => (s1.desc x p).state == 0)
        some ((s1.putSctx x { s1.sctx x with freeHd := free.headD noPage }).linkFree x free)

/-- A bound context may be unbound (R136). -/
def State.mayUnbind (s : State) (x : Nat) : Bool :=
  (s.liveRecs x).isEmpty && (List.range (s.sctx x).npg).all (fun p => (s.desc x p).ref == 0) &&
  s.fore.rows.all (fun r => r.ctx != x)

/-! ### Retiring (R149) -/

/-- Drops every entry of a block table in ascending order; counts the pages whose REF reached 0. An entry past the pages of the context
is only emptied (log entry 47). -/
def State.dropEntries (s : State) (x btab : Nat) : Nat → Nat → Nat → State × Nat
  | 0, _, a => (s, a)
  | n + 1, j, a =>
    let p := s.entry btab j
    if p = noPage then s.dropEntries x btab n (j + 1) a
    else if p < (s.sctx x).npg then
      let r := s.dropPage x p
      (r.2.putEntry (s.ctxWorld x) btab j noPage).dropEntries x btab n (j + 1) (if r.1 = 0 then a + 1 else a)
    else (s.putEntry (s.ctxWorld x) btab j noPage).dropEntries x btab n (j + 1) a

/-- Posts a request's end to its bell word. -/
def State.noteReq (s : State) (i : Nat) : State :=
  if s.reqF i 0 57 57 = 1 then s.notePost (s.reqF i 0 56 45) (BitVec.ofNat 64 (s.reqF i 15 63 56 * 2 ^ 56 + s.rRid i)) else s

/-- Retires a record (R149): the state, and the pages released. -/
def State.retire (s : State) (x i : Nat) : State × Nat :=
  let r := s.dropEntries x (s.rBtab i) (s.rBtlen i) 0 0
  let s1 : State := { r.1 with fore := { r.1.fore with rows := r.1.fore.rows.filter (fun w => !(w.ctx == x && w.req == i)) } }
  ((s1.setRState i 5).noteReq i, r.2)

/-- Retires every stopping record outside the open phase (R139, R141, R147); one whose handoff is in progress waits for its end. -/
def State.retireStopping (s : State) (x : Nat) : State :=
  (s.owned x).foldl (fun s i => if s.rState i = 4 ∧ !s.inPhase x i ∧ !s.sending i then (s.retire x i).1 else s) s

/-! ### Admission (R140, R141, R165) -/

/-- The reserved bits of a request record are 0. -/
def reqRsvOk (e : List Nat) : Bool :=
  let f (w hi lo : Nat) : Bool := bitsN (listGet 0 e w) hi lo == 0
  f 0 44 32 && f 3 63 52 && f 8 63 48 && f 10 63 52 && f 12 59 52 && f 13 31 0 && f 14 63 52 && f 15 55 32

/-- A new request is well-formed, but for its block table (R138, R140). -/
def State.entryFits (s : State) (x : Nat) (e : List Nat) : Bool :=
  let f (w hi lo : Nat) : Nat := bitsN (listGet 0 e w) hi lo
  f 0 60 59 != 3 && f 1 31 0 != 0 && decide (f 1 31 0 ≤ f 2 63 32) && decide (f 2 63 32 + 15 ≤ f 4 63 32 * (s.sctx x).tpp) &&
  reqRsvOk e &&
  !(s.liveRecs x).any (fun i => s.rRid i == f 0 31 0)

/-- A new request is well-formed (R138, R140). -/
def State.entryOk (s : State) (x : Nat) (e : List Nat) : Bool :=
  let f (w hi lo : Nat) : Nat := bitsN (listGet 0 e w) hi lo
  s.entryFits x e && (List.range (f 4 63 32)).all (fun j => s.entry (f 3 51 0) j == noPage)

/-- The record that admission takes: the lowest index in state 0, else the lowest in state 5. -/
def State.freeRec (s : State) : Option Nat :=
  match firstFrom (fun i => s.rState i == 0) 8192 0 with
  | some i => some i
  | none => firstFrom (fun i => s.rState i == 5) 8192 0

/-- How long ago a record was admitted, in admissions of its context (R142). -/
def State.seniority (s : State) (x i : Nat) : Nat := ((s.sctx x).admitted + 2 ^ 32 - s.rAge i) % 2 ^ 32

/-- The donor of a shared prefix: the live record of the group with the lowest AGE (R165). -/
def State.donor (s : State) (x grp i : Nat) : Option Nat :=
  bestOf (fun a b => decide (s.rAge a < s.rAge b))
    ((s.owned x).filter (fun j => j != i && [2, 3, 6].contains (s.rState j) && s.rPgrp j == grp))

/-- Shares entries from j on, at most n of them; stops before a REF that would pass 65,535. Answers how many are shared. -/
def State.shareEntries (s : State) (x src dst : Nat) : Nat → Nat → State × Nat
  | 0, j => (s, j)
  | n + 1, j =>
    let p := s.entry src j
    let d := s.desc x p
    if 65535 ≤ d.ref then (s, j)
    else ((s.putDesc x p { d with ref := d.ref + 1 }).putEntry (s.ctxWorld x) dst j p).shareEntries x src dst n (j + 1)

/-- h of R165: how many entries a donor shares with a request of a prefix length and a prompt length. -/
def State.prefixPages (s : State) (x d pfx plen : Nat) : Nat :=
  let tpp := (s.sctx x).tpp
  min (min (pfx / tpp) ((plen - 1) / tpp)) (s.rPfill d / tpp)

/-- Shares a prefix with the donor of the group (R165). -/
def State.sharePrefix (s : State) (x i : Nat) : State :=
  let tpp := (s.sctx x).tpp
  let pfx := s.reqF i 13 63 32
  if s.rPgrp i = 0 ∨ pfx < tpp then s
  else match s.donor x (s.rPgrp i) i with
    | none => s
    | some d =>
      let r := s.shareEntries x (s.rBtab d) (s.rBtab i) (s.prefixPages x d pfx (s.rPlen i)) 0
      (r.1.setRPfill i (r.2 * tpp)).setRLen i (r.2 * tpp)

/-- Takes record i for a request (R141): LEN, PFILL, ACC and CAUSE 0, AGE the next admission number. -/
def State.takeRec (s : State) (x i : Nat) (e : List Nat) : State :=
  let c := s.sctx x
  let s1 := (List.range 16).foldl (fun s w => s.setReq i w (BitVec.ofNat 64 (listGet 0 e w))) s
  let s2 := ((s1.setRState i 1).setReqF i 0 58 58 (b2n (s.worlds.ctx.toNat.testBit x))).setRLen i 0
  let s3 := ((s2.setRPfill i 0).setReqF i 15 31 0 0).setRCause i 0
  let s4 := (s3.setReqF i 11 63 32 c.admitted).putSctx x { c with admitted := (c.admitted + 1) % 2 ^ 32 }
  { s4 with fore := { s4.fore with owner := sparseSet 0 s4.fore.owner i (x + 1) } }

/-- IHEAD in the bound record (R135). -/
def State.ihead (s : State) (x : Nat) : Nat := bitsN (s.foreWord x ((s.sctx x).bound.getD 0 + 0x78)).toNat 31 0

/-- Applies the intake bell word to the latched tail (R121, R140). -/
def State.latchTail (s : State) (x : Nat) : State :=
  let c := s.sctx x
  let w : W32 := (sparseGet 0 s.bells c.ibell).setWidth 32
  let d := (w - c.tail).toNat
  if d = 0 ∨ 2 ^ 31 ≤ d ∨ 2 ^ c.log2in < (w - BitVec.ofNat 32 (s.ihead x)).toNat then s else s.putSctx x { c with tail := w }

/-- A cancel entry (R141). -/
def State.cancelReq (s : State) (x rid : Nat) : State :=
  match (s.liveRecs x).find? (fun i => s.rRid i == rid) with
  | none => s
  | some i =>
    if s.sending i then s.endLater i 2
    else
      let s1 := s.setRCause i 2
      if s.inPhase x i then s1.setRState i 4 else (s1.retire x i).1

/-- The loop of SQADMIT (R141): at most n entries, of which left may be admitted; answers how many were. -/
def State.admitLoop (s : State) (x : Nat) : Nat → Nat → Nat → State × Nat
  | 0, _, k => (s, k)
  | n + 1, left, k =>
    let c := s.sctx x
    let h := s.ihead x
    if left ≤ k ∨ BitVec.ofNat 32 h = c.tail then (s, k)
    else
      let a := c.intake + 128 * (h % 2 ^ c.log2in)
      let e := (List.range 16).map (fun i => (s.word64 (a + 8 * i)).toNat)
      let w0 := listGet 0 e 0
      let go (s : State) (k : Nat) : State × Nat :=
        (s.foreWrite x (c.bound.getD 0 + 0x78) (bytesOf 4 ((h + 1) % 2 ^ 32))).admitLoop x n left k
      if bitsN w0 63 61 = 4 then go (s.cancelReq x (bitsN w0 31 0)) k
      else if bitsN w0 63 61 ≠ 1 ∨ !s.entryOk x e then
        go (if bitN w0 57 then s.notePost (bitsN w0 56 45) (BitVec.ofNat 64 (5 * 2 ^ 56 + bitsN w0 31 0)) else s) k
      else match s.freeRec with
        | none => (s, k)
        | some i => go ((s.takeRec x i e).sharePrefix x i) (k + 1)

/-- The ranges that the retiring of every record of a list that is stopping outside the open phase reaches. -/
def State.stopSpans (s : State) (x : Nat) : List (Nat × Nat) :=
  s.retireSpans x ((s.owned x).filter (fun i => s.rState i == 4 && !s.inPhase x i && !s.sending i))

/-- The ranges that the loop of SQADMIT and the retiring after it reach (R141), entry by entry as the loop takes them: an entry of the
ring and IHEAD; for a cancel, what the retiring of its record reaches; and for a new request that is otherwise well-formed its block
table, with that of the donor of its prefix and the pages that they share. An entry that the loop does not come to is not reached. -/
def State.admitReach (s : State) (x : Nat) : Nat → Nat → Nat → List (Nat × Nat)
  | 0, _, _ => s.stopSpans x
  | n + 1, left, k =>
    let c := s.sctx x
    let h := s.ihead x
    if left ≤ k ∨ BitVec.ofNat 32 h = c.tail then s.stopSpans x
    else
      let a := c.intake + 128 * (h % 2 ^ c.log2in)
      let e := (List.range 16).map (fun i => (s.word64 (a + 8 * i)).toNat)
      let f (w hi lo : Nat) : Nat := bitsN (listGet 0 e w) hi lo
      let next := (s.admitLoop x 1 (k + 1) k)
      (a, 128) :: ((
        if f 0 63 61 = 4 then
          match (s.liveRecs x).find? (fun i => s.rRid i == f 0 31 0) with
          | some i => if s.sending i || s.inPhase x i then [] else s.retireSpans x [i]
          | none => []
        else if f 0 63 61 ≠ 1 ∨ !s.entryFits x e then []
        else (f 3 51 0, 4 * f 4 63 32) :: (
          if !s.entryOk x e then []
          else match s.freeRec with
            | none => []
            | some i =>
              match (if f 4 31 0 = 0 then none else s.donor x (f 4 31 0) i) with
              | none => []
              | some d =>
                let m := s.prefixPages x d (f 13 63 32) (f 1 31 0)
                if m = 0 then [] else (s.rBtab d, 4 * m) :: (s.pagesOf (s.rBtab d) m).map (s.descSpan x))) ++
        (if s.ihead x = next.1.ihead x then next.1.stopSpans x else next.1.admitReach x n left next.2))

/-- The ranges that SQADMIT reaches: IHEAD, and what its loop does. -/
def State.admitSpans (s : State) (x n : Nat) : List (Nat × Nat) :=
  let c := s.sctx x
  (c.bound.getD 0 + 0x78, 4) :: s.admitReach x (2 ^ c.log2in + 1) n 0

/-- SQADMIT (R136, R141). -/
def execSqadmit (o : OpDAB) (s : State) : Out :=
  serveIns s (fun x c k =>
    let a := (s.sread c k o.ra).toNat
    let n := (s.sread c k o.rb).toNat
    let go (s : State) : State :=
      let s0 := s.latchTail x
      let r := s0.admitLoop x (2 ^ (s0.sctx x).log2in + 1) n 0
      (r.1.retireStopping x).serveDone c o.sw o.rd r.2
    let reach (s1 t : State) : State :=
      let spans := (s1.latchTail x).admitSpans x n
      if !s1.unitReach x spans then s.trap c cSRVCFG else if s1.unitWaits spans then s else t
    match (s.sctx x).bound with
    | none =>
      if a = 0 then s.serveDone c o.sw o.rd 0
      else match s.bind x a with | none => s.trap c cSRVCFG | some s1 => reach s1 (go s1)
    | some b =>
      if a = 0 then
        if s.mayUnbind x then (s.setSctx x { s.sctx x with bound := none, openPh := none, batch := [], stale := [], forming := none }).serveDone c o.sw o.rd 0
        else s.trap c cSRVBUSY
      else if a ≠ b then s.trap c cSRVBIND
      else reach s (go s))

/-! ### Forming a phase (R142 to R147) -/

/-- The order of two records in the service order (R142). -/
def State.before (s : State) (old i j : Nat) : Bool :=
  let a (k : Nat) : Nat := (s.rAge k + 2 ^ 32 - old) % 2 ^ 32
  decide (s.rPrio i < s.rPrio j) || (s.rPrio i == s.rPrio j && (decide (a i < a j) || (a i == a j && decide (i < j))))

/-- Inserts a record in service order. -/
def insertBy (lt : Nat → Nat → Bool) (i : Nat) : List Nat → List Nat
  | [] => [i]
  | j :: t => if lt i j then i :: j :: t else j :: insertBy lt i t

/-- The live records of a context in service order. -/
def State.serviceOrder (s : State) (x : Nat) : List Nat :=
  let l := s.liveRecs x
  let old := match bestOf (fun a b => decide (s.seniority x b < s.seniority x a)) l with | some i => s.rAge i | none => 0
  l.foldl (fun acc i => insertBy (s.before old) i acc) []

/-- What the test ready(i, e) answers, with the state as far as it has come: that it waits, perhaps while it evicts a victim; that the page
unit may not reach a frame (R291); or whether the record is ready (R143). -/
inductive Ready
  | wait (s : State) (evict : Option Nat)
  | refused
  | ans (ok : Bool) (s : State)

/-- Step 1 of R143: the pages that are in T2 or migrating. -/
def State.absent (s : State) (x btab n : Nat) : List Nat :=
  (s.pagesOf btab n).filter (fun p => let d := s.desc x p; d.tier == 2 || d.state == 2)

/-- Starts migrations to T1 of the pages of T2 that have REF = 1 and no pins. -/
def State.fetchPages (s : State) (x : Nat) (ps : List Nat) : State :=
  ps.foldl (fun s p =>
    let d := s.desc x p
    if d.tier = 2 ∧ d.state = 1 ∧ d.ref = 1 ∧ d.pin = 0 ∧ !s.migrating x p then (s.startMigration x p 1 0).getD s else s) s

/-- Starts the migrations to T1 of pages of a record that is restored (R143): of shared pages too, and of pinned ones once their pins
clear. -/
def State.bringBack (s : State) (x : Nat) (ps : List Nat) : State :=
  ps.foldl (fun s p => if s.migrating x p then s else (s.startMigration x p 1 0).getD s) s

/-- Step 2 of R143: every entry from j on that has no page receives one; false when none is free. -/
def State.fillEntries (s : State) (x btab : Nat) : Nat → Nat → State × Bool
  | 0, _ => (s, true)
  | n + 1, j =>
    if s.entry btab j = noPage then
      match s.allocPage x (if (s.freeFrame x 0).isSome then 0 else 1) with
      | none => (s, false)
      | some (p, s1) => (s1.putEntry (s.ctxWorld x) btab j p).fillEntries x btab n (j + 1)
    else s.fillEntries x btab n (j + 1)

/-- Moves the pages of a victim that have REF = 1 into T2 (R143): waits for their pins, and for a migration that is not over. Where T2
runs out of frames half-way, the pages moved before stay there (log entry 86). -/
def State.evictPages (s : State) (x : Nat) : List Nat → Moved
  | [] => .done s
  | p :: t =>
    let d := s.desc x p
    if d.ref = 1 ∧ (d.tier ≠ 2 ∨ s.migrating x p) then
      match s.moveNow x p 2 with
      | .done s1 => s1.evictPages x t
      | .noFrame s1 => .noFrame s1
      | .refused => .refused
      | .wait s1 w => .wait s1 w
    else s.evictPages x t

/-- Evicts a victim: its pages go to T2, and its state becomes 6 (R143). -/
def State.evict (s : State) (x v : Nat) : Moved :=
  match s.evictPages x (s.pagesOf (s.rBtab v) (s.rBtlen v)) with
  | .done s1 => .done (s1.setRState v 6)
  | .noFrame s1 => .noFrame s1
  | .refused => .refused
  | .wait s1 w => .wait s1 w

/-- ready(i, e) of R143: the list holds the records that may be evicted, the last in service order first; n is one more. -/
def State.ready (s : State) (x i e : Nat) : Nat → List Nat → Ready
  | 0, _ => .ans false s
  | left + 1, victims =>
    let tpp := (s.sctx x).tpp
    let btab := s.rBtab i
    let n := ceilDiv e tpp
    let away := s.absent x btab n
    if !away.isEmpty then .ans false (s.fetchPages x away)
    else
      let r := s.fillEntries x btab n 0
      let own := r.1.rLen i / tpp
      let cow : Moved := if !r.2 then .noFrame r.1 else if own < n then r.1.writeCheck x btab own else .done r.1
      match cow with
      | .done s1 => .ans true s1
      | .wait s1 _ => .wait s1 none
      | .refused => .refused
      | .noFrame s1 =>
        match victims with
        | [] => .ans false s1
        | v :: t =>
          if (s1.freeFrame x 2).isNone then .ans false s1
          else match s1.evict x v with
            | .wait s2 _ => .wait s2 (some v)
            | .refused => .refused
            | .noFrame s2 => .ans false s2
            | .done s2 => (s2.again x).ready x i e left t

/-- The records that may be evicted for record i, the last in service order first (R143). -/
def State.victims (s : State) (order : List Nat) (i : Nat) (b : List Batch) : List Nat :=
  (((order.dropWhile (fun j => j != i)).drop 1).filter (fun j =>
    (s.rState j == 2 || s.rState j == 3) && !b.any (fun e => e.i == j))).reverse

/-- What a pass of R142 comes to: the batch so far and T; a wait, with how far the forming of the phase has come; or a frame that the page
unit may not reach (R291). -/
inductive Passed
  | wait (s : State) (f : Forming)
  | refused
  | got (s : State) (b : List Batch) (t : Nat)

/-- The decode pass of R142 over records in service order. LEN of a record changes when the phase is opened. -/
def State.decodePass (s : State) (x : Nat) (order : List Nat) : List Nat → List Batch → Nat → Passed
  | [], b, t => .got s b t
  | i :: rest, b, t =>
    let n := 1 + s.rNdraft i
    let len := s.rLen i
    if s.rState i ≠ 3 ∨ s.rMaxlen i + 15 < len + n ∨ s.rMaxlen i ≤ len ∨ (s.sctx x).budget < t + n then
      (s.again x).decodePass x order rest b t
    else match s.ready x i (len + n) ((s.victims order i b).length + 1) (s.victims order i b) with
      | .wait s1 ev => .wait s1 ⟨b, t, order, false, i :: rest, ev⟩
      | .refused => .refused
      | .ans false s1 => (s1.again x).decodePass x order rest b t
      | .ans true s1 => (s1.again x).decodePass x order rest (b ++ [⟨i, false, len, n, 0⟩]) (t + n)

/-- The prefill pass of R142. -/
def State.prefillPass (s : State) (x : Nat) (order : List Nat) : List Nat → List Batch → Nat → Passed
  | [], b, t => .got s b t
  | i :: rest, b, t =>
    let c := s.sctx x
    let len := s.rLen i
    let fill := s.rPfill i
    let n := min (min (s.rPlen i - fill) c.chunk) (c.budget - t)
    if (s.rState i ≠ 1 ∧ s.rState i ≠ 2) ∨ n = 0 then (s.again x).prefillPass x order rest b t
    else match s.ready x i (len + n) ((s.victims order i b).length + 1) (s.victims order i b) with
      | .wait s1 ev => .wait s1 ⟨b, t, order, true, i :: rest, ev⟩
      | .refused => .refused
      | .ans false s1 => (s1.again x).prefillPass x order rest b t
      | .ans true s1 => (s1.again x).prefillPass x order rest (b ++ [⟨i, true, len, n, fill⟩]) (t + n)

/-- The record of a batch entry has the tokens in the phase (R142): LEN, and for a prefill PFILL and the state that follows; one that was
stopped meanwhile stays so (R139). -/
def State.enterBatch (s : State) (e : Batch) : State :=
  let s1 := s.setRLen e.i (e.start + e.n)
  if !e.pre then s1
  else
    let s2 := s1.setRPfill e.i (e.fill + e.n)
    if s.rState e.i = 4 then s2 else s2.setRState e.i (if e.fill + e.n = s.rPlen e.i then 3 else 2)

/-- Starts the restore of each evicted record whose pages all fit the free T1 frames (R143). -/
def State.restoreEvicted (s : State) (x : Nat) (order : List Nat) : State :=
  order.foldl (fun s i =>
    if s.rState i ≠ 6 then s
    else
      let ps := (s.pagesOf (s.rBtab i) (s.rBtlen i)).filter (fun p => (s.desc x p).tier == 2)
      if ps.length ≤ s.freeFrames x 1 then
        ((s.bringBack x ps).setRState i (if s.rPfill i < s.rPlen i then 2 else 3)).again x
      else s.again x) s

/-- Cuts a list into runs of at most 16. -/
def runsOf16 {α : Type} : Nat → List α → List (List α)
  | 0, _ => []
  | n + 1, l => if l.isEmpty then [] else l.take 16 :: runsOf16 n (l.drop 16)

/-- The sequence groups of a batch (R144): prefix groups of their own and the rest, in the order of their first members. -/
def State.groupsOf (s : State) (b : List Batch) : List (List Nat) :=
  let pos := List.range b.length
  let grp (p : Nat) : Nat := match b[p]? with | some e => s.rPgrp e.i | none => 0
  let keys := pos.foldl (fun acc p => if grp p = 0 ∨ acc.contains (grp p) then acc else acc ++ [grp p]) ([] : List Nat)
  let all := (keys ++ [0]).flatMap (fun g => runsOf16 b.length (pos.filter (fun p => grp p == g)))
  let lt (x y : List Nat) : Bool := decide (x.headD 0 < y.headD 0)
  let ins (g : List Nat) (acc : List (List Nat)) : List (List Nat) := acc.takeWhile (fun h => lt h g) ++ [g] ++ acc.dropWhile (fun h => lt h g)
  all.foldl (fun acc g => ins g acc) []

/-- The leading entries of block tables that hold the same page, from j on (R144). -/
def State.sharedFrom (s : State) (tabs : List (Nat × Nat)) : Nat → Nat → Nat
  | 0, j => j
  | n + 1, j =>
    let p := s.entry (tabs.headD (0, 0)).1 j
    if p ≠ noPage ∧ tabs.all (fun t => decide (j < t.2) && s.entry t.1 j == p) then s.sharedFrom tabs n (j + 1) else j

/-- SPLEN of a group of records (R144). -/
def State.splen (s : State) (x : Nat) (is : List Nat) : Nat :=
  if is.length ≤ 1 ∨ s.rPgrp (is.headD 0) = 0 then 0
  else (s.sctx x).tpp * s.sharedFrom (is.map (fun i => (s.rBtab i, s.rBtlen i))) (s.rBtlen (is.headD 0)) 0

/-- The tokens that a batch entry contributes (R145). -/
def State.tokensOf (s : State) (e : Batch) : List Byte :=
  if e.pre then sparseRead unlistedByte s.mem (s.reqF e.i 10 51 0 + 4 * e.fill) (4 * e.n)
  else
    bytesOf 4 (s.reqF e.i 11 31 0) ++
    (List.range (e.n - 1)).flatMap (fun k => sparseRead unlistedByte s.mem (s.reqF e.i 12 51 0 + 256 * k) 4)

/-- Writes the plan and INPUT (R145). -/
def State.writePlan (s : State) (x : Nat) (b : List Batch) (groups : List (List Nat)) (pid t : Nat) : State :=
  let c := s.sctx x
  let es := (groups.flatMap id).filterMap (fun p => b[p]?)
  let first (j : Nat) : Nat := ((es.take j).map (fun e => e.n)).sum
  let w8 (l : List Nat) : List Byte := l.flatMap (bytesOf 8)
  let s1 := (List.range es.length).foldl (fun s j =>
    match es[j]? with
    | none => s
    | some e => s.unitWrite (s.ctxWorld x) (c.plan + 0x20040 + 32 * j)
        (w8 [e.i + first j * 2 ^ 32, e.start + e.n * 2 ^ 32 + b2n e.pre * 2 ^ 48, s.rBtab e.i, s.rPgrp e.i])) s
  let s2 := s1.unitWrite (s.ctxWorld x) c.input (es.flatMap s1.tokensOf)
  let s3 := (List.range groups.length).foldl (fun s g =>
    let ps := listGet [] groups g
    let at' := ((groups.take g).map List.length).sum
    let is := ps.filterMap (fun p => (b[p]?).map (·.i))
    s.unitWrite (s.ctxWorld x) (c.plan + 0x40 + 16 * g)
      (w8 [at' + ps.length * 2 ^ 16 + s.splen x is * 2 ^ 32, s.rPgrp (is.headD 0) + first at' * 2 ^ 32])) s2
  s3.unitWrite (s.ctxWorld x) c.plan (w8 [pid + t * 2 ^ 32, groups.length + es.length * 2 ^ 16, 0, 0, 0, 0, 0, 0])

/-- Replaces bytes of a list from an offset. -/
def splice (l : List Byte) (off : Nat) (bs : List Byte) : List Byte := l.take off ++ bs ++ l.drop (off + bs.length)

/-- A template launch record, as the Foreman submits it (R146). -/
def templateRec (raw : List Byte) (g pid i : Nat) : List Byte :=
  let lid (k : Nat) : Nat := (pid * 16 + k) % 2 ^ 32
  let r1 := splice (splice raw 18 (bytesOf 2 g ++ bytesOf 2 1 ++ bytesOf 2 1)) 44 (bytesOf 4 pid)
  let r2 := splice r1 0 (bytesOf 4 (lid i))
  if (listGet 0 raw 48).toNat % 8 = 0 then r2 else splice r2 60 (bytesOf 4 (lid (ofBytes ((raw.drop 60).take 4))))

/-- Opens the units of a phase and submits its launches (R146). -/
def State.openPhaseUnits (s : State) (x : Nat) (pid g asid : Nat) (addrs : List Nat) (batch : List Nat) : State :=
  let c := s.sctx x
  let id := BitVec.ofNat 32 pid
  let world := s.worlds.ctx.toNat.testBit x
  match s.openPhase id c.job 1 asid none with
  | .err _ => s
  | .wait => s
  | .done s1 =>
    match s1.openGraph id id addrs.length asid none with
    | .err _ => s
    | .wait => s
    | .done s2 =>
      let s3 := s2.putSctx x { s2.sctx x with openPh := some s.nextUid, batch := batch }
      (List.range addrs.length).foldl (fun s i =>
        match s.submit (templateRec (sparseRead unlistedByte s.mem (listGet 0 addrs i) 256) g pid i) asid world with
        | .done t => t
        | .err _ => s
        | .wait => s) s3

/-- The two passes of R142, from where they stand. -/
def State.formPasses (s : State) (x : Nat) (f : Forming) : Passed :=
  if f.pre then s.prefillPass x f.order f.left f.batch f.toks
  else match s.decodePass x f.order f.left f.batch f.toks with
    | .wait s1 g => .wait s1 g
    | .refused => .refused
    | .got s1 b t => s1.prefillPass x f.order f.order b t

/-- The batch of a phase (R142, R143, R147): the stopping records are retired, evicted ones are restored, and the two passes are made.
An SQNEXT that has waited goes on where it stood: the eviction of its victim comes first (log entry 34); a victim that finds no
frame in T2 ends the test of the record that it was evicted for. -/
def State.formBatch (s : State) (x : Nat) : Passed :=
  match (s.sctx x).forming with
  | none =>
    let s1 := s.retireStopping x
    let order := s1.serviceOrder x
    (s1.restoreEvicted x order).formPasses x ⟨[], 0, order, false, order, none⟩
  | some g =>
    let f := { g with evict := none }
    match g.evict.filter (fun v => s.owns x v && (s.rState v == 2 || s.rState v == 3)) with
    | none => s.formPasses x f
    | some v =>
      match s.evict x v with
      | .done s1 => s1.formPasses x f
      | .noFrame s1 => s1.formPasses x { f with left := f.left.drop 1 }
      | .refused => .refused
      | .wait s1 _ => .wait s1 { f with evict := some v }

/-- The ranges that the forming of a phase reaches: the descriptors and bitmaps, the block tables of the live records, the tokens of the
batch, the plan, INPUT, and the launch records of the template (R142 to R146). -/
def State.nextSpans (s : State) (x : Nat) (b : List Batch) (addrs : List Nat) : List (Nat × Nat) :=
  let c := s.sctx x
  (c.desc, 32 * c.npg) :: ((List.range 3).filter (fun t => c.fn t != 0)).map (s.mapSpan x) ++
  (s.liveRecs x).map (fun i => (s.rBtab i, 4 * s.rBtlen i)) ++
  (if b.isEmpty then [] else
    (c.plan, 0x20040 + 32 * b.length) :: (c.input, 4 * (b.map (fun e => e.n)).sum) :: addrs.map (fun a => (a, 256))) ++
  b.flatMap (fun e =>
    if e.pre then [(s.reqF e.i 10 51 0 + 4 * e.fill, 4 * e.n)]
    else (List.range (e.n - 1)).map (fun k => (s.reqF e.i 12 51 0 + 256 * k, 4)))

/-- The frames of the migrations of one state that another has not (R291). -/
def State.newFrames (s t : State) : List (Nat × Nat) :=
  (t.fore.migs.filter (fun m => !s.fore.migs.contains m)).flatMap (fun m => [(m.src, m.size), (m.dst, m.size)])

/-- The phase of a batch is written and opened, and rd takes its word (R145 to R147). -/
def State.startPhase (s : State) (x : Nat) (c : CrewRef) (o : OpDA) (asid : Nat) (addrs : List Nat) (b : List Batch) (t : Nat) : State :=
  if t = 0 then s.serveDone c o.sw o.rd 0
  else
    let q0 := ((s.sctx x).phase + 1) % 2 ^ 30
    let q := if q0 = 0 then 1 else q0
    let pid := 2 ^ 31 + x * 2 ^ 30 + q
    let groups := s.groupsOf b
    let s1 := (s.putSctx x { s.sctx x with phase := q }).writePlan x b groups pid t
    (s1.openPhaseUnits x pid groups.length asid addrs (b.map (·.i))).serveDone c o.sw o.rd (t * 2 ^ 32 + pid)

/-- Sets how far the forming of a context's next phase has come. -/
def State.setForming (s : State) (x : Nat) (f : Option Forming) : State :=
  if (s.heldSctx x).forming = f then s else s.setSctx x { s.heldSctx x with forming := f }

/-- SQNEXT (R147). While it waits for pins or migrations (R143, R153) it stays at the record that it is at, and is executed again: what
the page unit has done stays, and no record enters the phase before all of it is formed (log entry 34). -/
def execSqnext (o : OpDA) (s : State) : Out :=
  boundIns s (fun x c k =>
    let a := (s.sread c k o.ra).toNat
    let sc := s.sctx x
    let q := s.setForming x none
    let t0 := (s.word64 sc.tmpl).toNat
    let nl := t0 % 32
    let addrs := (List.range nl).map (fun i => (s.word64 (sc.tmpl + 8 + 8 * i)).toNat)
    if some a ≠ sc.bound then s.trap c cSRVBIND
    else if s.phaseOpen x then s.trap c cSRVBUSY
    else match s.liveUnit .job sc.job with
      | none => q.trap c cSRVARG
      | some job =>
        if !job.live || job.closed || job.world != s.ctxWorld x then q.trap c cSRVARG
        else q.served x c [(sc.tmpl, 8)] (
          if nl = 0 ∨ 16 < nl ∨ t0 / 32 ≠ 0 then q.trap c cSRVARG
          else q.served x c [(sc.tmpl, 8 + 8 * nl)] (
            if addrs.any (fun x => x % 256 != 0) then q.trap c cSRVARG
            else if s.freeUnits .phs = 0 ∨ s.freeUnits .gph = 0 ∨ s.freeUnits .lch < nl then q.trap c cSRVBUSY
            else q.served x c (s.nextSpans x [] addrs) (
              match s.formBatch x with
              | .wait s1 f => q.served x c (s.newFrames s1) (s1.setForming x (some f))
              | .refused => q.trap c cSRVCFG
              | .got s1 b t =>
                q.served x c (s.nextSpans x b addrs ++ s.newFrames s1)
                  (((b.foldl State.enterBatch s1).setForming x none).startPhase x c o job.asid addrs b t)))))

/-- SQRET (R149); the end of a request that is being sent waits for the end of the handoff (R139). -/
def execSqret (o : OpDAB) (s : State) : Out :=
  boundIns s (fun x c k =>
    let i := (s.sread c k o.ra).toNat
    let cause := (s.sread c k o.rb).toNat
    if !s.owns x i then s.trap c cRQIDX
    else if s.rState i = 0 ∨ s.rState i = 5 then s.trap c cRQSTATE
    else if 4 < cause ∨ cause = 3 then s.trap c cSRVARG
    else if s.sending i then (s.endLater i cause).serveDone c o.sw o.rd 0
    else
      let s1 := s.setRCause i cause
      if s.inPhase x i then (s1.setRState i 4).serveDone c o.sw o.rd 0
      else s.served x c (s.retireSpans x [i]) (
        let r := s1.retire x i
        r.1.serveDone c o.sw o.rd r.2))

/-! ### The page instructions (R156) -/

/-- PGALLOC. -/
def execPgalloc (o : OpDA) (s : State) : Out :=
  boundIns s (fun x c k =>
    let t := (s.sread c k o.ra).toNat
    if 2 < t then s.trap c cSRVARG
    else s.served x c (s.allocSpans x t) (
      match s.allocPage x t with
      | none => s.serveDone c o.sw o.rd allOnes
      | some (p, s1) => s1.serveDone c o.sw o.rd p))

/-- The mould of the instructions on a page: PGIDX for a page that does not exist or is in no state from 1 to 4. -/
def pageIns (s : State) (c : CrewRef) (x p : Nat) (f : Desc → State) : State :=
  if (s.sctx x).npg ≤ p then s.trap c cPGIDX
  else s.served x c [s.descSpan x p] (if !s.pageOk x p then s.trap c cPGIDX else f (s.desc x p))

/-- PGREF. -/
def execPgref (o : OpDA) (s : State) : Out :=
  boundIns s (fun x c k =>
    let p := (s.sread c k o.ra).toNat
    pageIns s c x p (fun d =>
      if d.ref = 65535 then s.trap c cPGREFOV
      else (s.putDesc x p { d with ref := d.ref + 1 }).serveDone c o.sw o.rd (d.ref + 1)))

/-- PGDROP. -/
def execPgdrop (o : OpDA) (s : State) : Out :=
  boundIns s (fun x c k =>
    let p := (s.sread c k o.ra).toNat
    pageIns s c x p (fun d =>
      if d.ref = 0 then s.trap c cPGIDX
      else s.served x c (s.dropSpans x p) (
        let r := s.dropPage x p
        r.2.serveDone c o.sw o.rd r.1)))

/-- PGFORK: it waits, without effect, while the page cannot be pinned (R153). -/
def execPgfork (o : OpDA) (s : State) : Out :=
  boundIns s (fun x c k =>
    let p := (s.sread c k o.ra).toNat
    pageIns s c x p (fun d =>
      if (s.pinPage x p).isNone then s
      else s.served x c ((s.pageAt x p, (s.sctx x).pb) :: s.allocSpans x d.tier) (
        match s.allocPage x d.tier with
        | none => s.serveDone c o.sw o.rd allOnes
        | some (q, s1) => s.served x c [(s1.pageAt x q, (s.sctx x).pb)] ((s1.copyPage x p q).serveDone c o.sw o.rd q))))

/-- PGMOVE: it waits for PIN = 0 and STATE 1; its rd is delivered when the migration ends. -/
def execPgmove (o : OpDAB) (s : State) : Out :=
  boundIns s (fun x c k =>
    let p := (s.sread c k o.ra).toNat
    let t := (s.sread c k o.rb).toNat
    pageIns s c x p (fun d =>
      if 2 < t then s.trap c cSRVARG
      else if t = d.tier then s.serveDone c o.sw o.rd t
      else if d.state ≠ 1 ∨ d.pin ≠ 0 ∨ s.migrating x p then s
      else s.served x c ((if (s.sctx x).fn t = 0 then [] else [s.mapSpan x t]) ++ s.moveSpans x p t) (
        match s.startMigration x p t s.nextUid with
        | none => s.serveDone c o.sw o.rd d.tier
        | some s1 =>
          ({ s1 with nextUid := s.nextUid + 1 } : State).modCrew c (fun k =>
            (if o.rd.toNat < 96 then k.pend (.sreg o.rd.toNat) none 0 s.nextUid else k).next o.sw))))

/-! ### Handoff (R166) -/

/-- The pages that a record uses, and all of its pages. -/
def State.usedPages (s : State) (x i : Nat) : List Nat := s.pagesOf (s.rBtab i) (min (s.rBtlen i) (ceilDiv (s.rLen i) (s.sctx x).tpp))
def State.allPages (s : State) (i : Nat) : List Nat := s.pagesOf (s.rBtab i) (s.rBtlen i)

/-- The open endpoint of a port. -/
def State.endpoint? (s : State) (port ep : Nat) : Option Endpoint := s.peers.eps.find? (fun e => e.port == port && e.ep == ep)

/-- Changes an open endpoint. -/
def State.modEndpoint (s : State) (port ep : Nat) (f : Endpoint → Endpoint) : State :=
  { s with peers := { s.peers with eps := s.peers.eps.map (fun e => if e.port = port ∧ e.ep = ep then f e else e) } }

/-- A packet of an endpoint passes its authentication: the failures in a row are over (R308). -/
def State.packetPasses (s : State) (port ep : Nat) : State := s.modEndpoint port ep (fun e => { e with fails := 0 })

/-- An endpoint is open, on a port of the context's world (R292, R307, R308). -/
def State.epOpen (s : State) (x port ep : Nat) : Bool :=
  (s.endpoint? port ep).isSome && s.worlds.port.toNat.testBit port == s.ctxWorld x

/-- PGSEND (R166): the record goes to STATE 4, and every page of it as its pins clear; rd waits for the peer. A descriptor whose word 2 is
neither 0 nor 1 takes SRVARG (log entry 107). -/
def execPgsend (o : OpDAB) (s : State) : Out :=
  boundIns s (fun x c k =>
    let i := (s.sread c k o.ra).toNat
    let a := (s.sread c k o.rb).toNat
    let w (n : Nat) : Nat := (s.word64 (a + 8 * n)).toNat
    if !s.owns x i then s.trap c cRQIDX
    else if s.rState i ≠ 3 ∨ s.inPhase x i then s.trap c cRQSTATE
    else if !s.reaches (s.ctxWorld x) a 32 || decide (8 ≤ w 0) || decide (2 ≤ w 2) || w 3 != 0 then s.trap c cSRVARG
    else s.served x c ((a, 32) :: (s.rBtab i, 4 * s.rBtlen i) :: (s.allPages i).map (s.descSpan x)) (
      if !(s.usedPages x i).all (fun p => s.frameReach x (s.pageAt x p)) then s.trap c cSRVCFG else
      let s1 : State := { s.setRState i 4 with
        nextUid := s.nextUid + 1
        fore := { s.fore with sends := s.fore.sends ++ [⟨x, i, s.nextUid, w 0, w 1, none⟩] } }
      let s2 := (s.allPages i).foldl (fun s p => s.settlePage x p) s1
      s2.modCrew c (fun k => (if o.rd.toNat < 96 then k.pend (.sreg o.rd.toNat) none 0 s.nextUid else k).next o.sw)))

/-- A page returns to STATE 1 at the end of a handoff, unless another one sends it too; then what waited for it follows. -/
def State.unsend (s : State) (x p : Nat) : State :=
  let d := s.desc x p
  if d.state = 4 ∧ !s.pageSent x p then (s.putDesc x p { d with state := 1 }).settlePage x p else s

/-- The end of a handoff (R139, R166): code 0 is the peer's acknowledgement, which no used page that has yet to go to STATE 4 lets come;
any other is a transport error or a refusal, after which a request that was ended meanwhile is retired. It waits while the page unit
may not reach the record's pages (R291). -/
def State.endSend (s : State) (h : Handing) (code : Nat) : State :=
  let x := h.ctx
  let i := h.idx
  if (code == 0 && (s.usedPages x i).any (fun p => (s.desc x p).state == 1 || (s.desc x p).state == 2)) ||
      !(s.retireSpans x [i]).all (fun r => s.reaches (s.ctxWorld x) r.1 r.2) then s
  else
    let s1 : State := { s with fore := { s.fore with sends := s.fore.sends.filter (fun y => y != h) } }
    let s2 := (s.allPages i).foldl (fun s p => s.unsend x p) s1
    let s3 :=
      if code = 0 then ((s2.setRCause i 3).retire x i).1
      else match h.ended with
        | some cause => ((s2.setRCause i cause).retire x i).1
        | none => s2.setRState i 3
    s3.deliverTag h.tag code

/-- PGSEND_ACK (R166): the answer to the oldest handoff of a context; an answer of the peer comes only over an open endpoint, and is a
packet that has passed its authentication. -/
def execPgsendAck (x code : Nat) (s : State) : Out :=
  .next (
    match s.fore.sends.find? (fun h => h.ctx == x) with
    | none => s
    | some h =>
      if code = cXPORTERR then s.endSend h code
      else if !s.epOpen h.ctx h.port h.ep then s
      else (s.packetPasses h.port h.ep).endSend h code)

/-- Allocates pages for an inbound request in entry order, with their contents, in T0 or else in T1 (log entry 105). -/
def State.fillInbound (s : State) (x btab : Nat) : List (List Byte) → Nat → Option State
  | [], _ => some s
  | bs :: t, j =>
    match s.allocPage x (if (s.freeFrame x 0).isSome then 0 else 1) with
    | none => none
    | some (p, s1) =>
      let n := (s1.sctx x).pb
      ((s1.unitWrite (s.ctxWorld x) (s1.pageAt x p) ((bs ++ List.replicate n 0).take n)).putEntry (s.ctxWorld x) btab j p).fillInbound
        x btab t (j + 1)

/-- INBOUND_HANDOFF (R166 step 3): a peer's request, over an open endpoint of the context's world, is admitted as if from the intake,
with pages of its own, in STATE 3 with LEN and PFILL kept; one that cannot be taken is refused. -/
def execInboundHandoff (h : Handoff) (s : State) : Out :=
  .next (
    let x := h.ctx
    let e := h.words.map (·.toNat)
    let btab := bitsN (listGet 0 e 3) 51 0
    let spans := (btab, 4 * bitsN (listGet 0 e 4) 63 32) :: (s.allocSpans x 0 ++ s.allocSpans x 1)
    if x ≥ 2 ∨ (s.sctx x).bound.isNone ∨ (s.sctx x).frozen ∨ h.words.length ≠ 16 ∨ !s.epOpen x h.port h.ep ∨
        !s.unitReach x spans ∨ s.unitWaits spans ∨ !s.entryOk x e ∨
        h.pages.length ≠ ceilDiv (bitsN (listGet 0 e 1) 63 32) (s.sctx x).tpp then s
    else match s.freeRec with
      | none => s
      | some i =>
        let s1 := ((s.takeRec x i e).setRLen i (bitsN (listGet 0 e 1) 63 32)).setRPfill i (bitsN (listGet 0 e 2) 31 0)
        match s1.fillInbound x (s1.rBtab i) h.pages 0 with
        | none => s
        | some s2 =>
          if !s2.unitReach x ((s2.allPages i).map (s2.frameSpan x)) || s2.unitWaits ((s2.allPages i).map (s2.frameSpan x)) then s
          else (s2.setRState i 3).packetPasses h.port h.ep)

end Sys2Proof.Machine
end

