-- ==== Sys2Proof/Machine/Peers.lean ====
section
/-!
DEFINITION. Peer packages and the host's accesses to memory (R166, R291, R307, R308, R325).
-/

namespace Sys2Proof.Machine

/-- PEER_SESSION (R307, R308): an endpoint opens when both Porters have completed the session, the peer's measurements satisfy the
policy, and its port has the same world; its session names an address space and supplies a key for each direction, and the peer maps
the addresses from lo to hi of the host and peer window (R27). -/
def execPeerSession (port ep : Nat) (sameWorld policyOk : Bool) (o : SessionTerms) (s : State) : Out :=
  .next (
    if s.powered && s.porter.booted && decide (port < 8) && decide (o.asid < 32) && sameWorld && policyOk && (s.endpoint? port ep).isNone then
      let a := s.draw
      let b := a.2.draw
      { b.2 with peers := { b.2.peers with
          eps := b.2.peers.eps ++ [⟨port, ep, o.asid, 0, .keyedWith a.1, .keyedWith b.1⟩]
          maps := b.2.peers.maps.filter (fun m => m.port != port || m.ep != ep) ++ [⟨o.lo, o.hi, port, ep⟩] } }
    else s)

/-- An address that the peer of an endpoint maps. -/
def State.peerAddr (s : State) (port ep pa : Nat) : Bool :=
  s.peers.maps.any (fun m => m.port == port && m.ep == ep && decide (m.lo ≤ pa) && decide (pa < m.hi))

/-- An endpoint closes (R308): operations in flight on it complete with a transport error, which fails the chunks of a copy and fails a
handoff; an access from the peer that waits is answered no more. -/
def State.closeEndpoint (s : State) (port ep : Nat) : State :=
  let s0 := s.failInFlight (s.peerAddr port ep)
  let s1 : State := { s0 with peers := { s0.peers with
    eps := s0.peers.eps.filter (fun e => e.port != port || e.ep != ep)
    inbound := s0.peers.inbound.filter (fun x => x.port != port || x.ep != ep) } }
  (s.fore.sends.filter (fun h => h.port == port && h.ep == ep)).foldl (fun s h => s.endSend h cXPORTERR) s1

/-- ENDPOINT_CLOSE (R308). -/
def execEndpointClose (port ep : Nat) (s : State) : Out := .next (s.closeEndpoint port ep)

/-- A packet of an endpoint fails its authentication (R308): it is dropped and counted; sixteen in a row close the endpoint. -/
def State.packetFails (s : State) (e : Endpoint) : State :=
  let s1 : State := { s with peers := { s.peers with dropped := s.peers.dropped + 1 } }
  if 16 ≤ e.fails + 1 then s1.closeEndpoint e.port e.ep
  else s1.modEndpoint e.port e.ep (fun e => { e with fails := e.fails + 1 })

/-- PACKET_AUTHENTICATION_FAILURE (R308). -/
def execPacketAuthenticationFailure (port ep : Nat) (s : State) : Out :=
  .next (match s.endpoint? port ep with | none => s | some e => s.packetFails e)

/-- The parts of a range that lie in one 64 KiB page each. -/
def partsOf : Nat → Nat → Nat → List (Nat × Nat)
  | 0, _, _ => []
  | f + 1, va, n => if n = 0 then [] else
      let m := min n (0x10000 - va % 0x10000)
      (va, m) :: partsOf f ((va + m) % 2 ^ 64) (n - m)

/-- An inbound access of n bytes, translated in the address space that the endpoint's session names and checked as a crew's access is,
check by check over all its pages (R255, R308): its locations, or the cause of its fault. A peer has no scratchpad windows. -/
def State.inboundParts (s : State) (e : Endpoint) (kind : AccKind) (va n : Nat) : Except Nat (List Loc) :=
  match s.windows (.ctl 0) (partsOf (n / 0x10000 + 2) va n) with
  | .error c => .error c
  | .ok ws =>
    if kind == .atomic && va % n != 0 then .error cATALIGN
    else
      match (s.translateParts e.asid false (s.worlds.port.toNat.testBit e.port) kind ⟨[], [], 0, 0⟩ ws).1 with
      | .error c => .error c
      | .ok ls => if undecided ls || s.backedLocs ls then .ok ls else .error cPAHOLE

/-- The answer to an inbound access goes out: the access waits no more (R325). -/
def State.answered (s : State) (port ep tag : Nat) (a : Answer) : State :=
  { s with peers := { s.peers with
      inbound := s.peers.inbound.filter (fun x => x.port != port || x.ep != ep || x.tag != tag)
      last := some (port, ep, tag, a) } }

/-- An inbound access has no answer yet: it waits from its first attempt on. -/
def State.inboundWaits (s : State) (port ep tag : Nat) : State :=
  if s.peers.inbound.any (fun x => x.port == port && x.ep == ep && x.tag == tag) then s
  else { s with peers := { s.peers with inbound := s.peers.inbound ++ [⟨port, ep, tag, s.hclk⟩] } }

end Sys2Proof.Machine

namespace Sys2Proof

/-- The bytes that an access from outside reaches, and its kind (R64). -/
def ExtKind.size : ExtKind → Nat | .read n => n | .write bs => bs.length | .atomic _ wide _ _ => if wide then 8 else 4
def ExtKind.access : ExtKind → AccKind | .read _ => .read | .write _ => .write | .atomic _ _ _ _ => .atomic

end Sys2Proof

namespace Sys2Proof.Machine

/-- An access from outside is performed on its locations: its answer, and the state after it. -/
def State.extPerform (s : State) (k : ExtKind) (ls : List Loc) : Answer × State :=
  let old := s.readLocs (.ctl 0) ls
  match k with
  | .read _ => (.data old, s)
  | .write bs => (.data [], s.writeLocs (.ctl 0) false ls bs)
  | .atomic op wide b c =>
    let n := if wide then 8 else 4
    (.data old, s.writeLocs (.ctl 0) false ls
      (bytesOf n (atomNew op (8 * n) (ofBytes old) (b % 2 ^ (8 * n)) (c % 2 ^ (8 * n))).1))

/-- PEER_ACCESS (R308, R325): an authenticated inbound access, checked as a crew's is (R255). One that faults is logged with its cause
and answered with a transport error; one that stalls waits. -/
def execPeerAccess (port ep : Nat) (a : ExtAccess) (s : State) : Out :=
  .next (
    match s.endpoint? port ep with
    | none => s
    | some e =>
      let s0 := s.packetPasses port ep
      let n := a.kind.size
      let fault (c : Nat) : State := (s0.log c 0 0 a.addr.toNat).answered port ep a.tag .error
      match s0.inboundParts e a.kind.access a.addr.toNat n with
      | .error c => fault c
      | .ok ls =>
        if s0.stalledLocs 0 ls then s0.inboundWaits port ep a.tag
        else if a.kind.access != .write && s0.poisonedLocs ls then fault cMEMERR
        else let r := s0.extPerform a.kind ls; r.2.answered port ep a.tag r.1)

/-- PEER_ACCESS_TIMEOUT (R325): an inbound access without an answer for 2^30 aclk of the H-die is logged and answered with a
transport error. -/
def execPeerAccessTimeout (k : Nat) (s : State) : Out :=
  .next (
    match s.peers.inbound.drop k with
    | x :: _ =>
      if x.since + 2 ^ 30 ≤ s.hclk then (s.log cXPORTERR 0 0 0).answered x.port x.ep x.tag .error else s
    | [] => s)

/-- The answer to a host read. -/
def State.hostReads (s : State) (a : Answer) : State := { s with peers := { s.peers with host := some a } }

/-- The physical location of a host access. -/
def hostLoc (pa n : Nat) : List Loc := [.phys ⟨pa, n, false⟩]

/-- HOST_MEMORY_ACCESS (R291, R300): a host access through CXL.mem, or to the host's own memory. A write to a granule that the host
may not reach is discarded, and a read of one returns all-ones data marked poisoned; both are logged. A read that meets an
uncorrectable error returns its data marked poisoned (log entry 89). -/
def execHostMemoryAccess (a : ExtAccess) (s : State) : Out :=
  .next (
    let pa := a.addr.toNat
    let n := a.kind.size
    if n = 0 || isDev pa then s
    else if !s.backedRange pa n || !s.worldRange false pa n then
      let s1 := s.log cWORLDF (s.chipletOf pa) 0 pa
      (match a.kind with
       | .write _ => s1
       | .read _ => s1.hostReads (.poisoned (List.replicate n 0xFF))
       | .atomic _ _ _ _ => s1.hostReads (.poisoned (List.replicate n 0xFF)))
    else if s.stalledLocs 0 (hostLoc pa n) then s
    else if a.kind.access != .write && s.poisonedRange pa n then s.hostReads (.poisoned (s.readLocs (.ctl 0) (hostLoc pa n)))
    else
      let r := s.extPerform a.kind (hostLoc pa n)
      (match a.kind with | .write _ => r.2 | .read _ => r.2.hostReads r.1 | .atomic _ _ _ _ => r.2.hostReads r.1))

end Sys2Proof.Machine
end

