-- ==== Sys2Proof/Machine/FrontEnd.lean ====
section
/-!
DEFINITION. The front end (R120 to R132): submission queues, the fetch windows, packets and their effects, the rounds of the
firmware core, storage fetch, and the parser that survives a restart (R328).
-/

namespace Sys2Proof.Machine

/-! ### Where a parser stands (R122, R127, R328) -/

/-- The level that the parser is in: 0 the ring, 1 and 2 indirect buffers. -/
def Queue.depth (q : Queue) : Nat := q.levels.length

/-- The place in that level. -/
def Queue.cur (q : Queue) : Level1 := match q.levels.getLast? with | some l => l | none => q.ring

/-- Replaces the place in that level. -/
def Queue.setCur (q : Queue) (l : Level1) : Queue :=
  if q.levels.isEmpty then { q with ring := l } else { q with levels := q.levels.dropLast ++ [l] }

/-- The ring's size (R120). -/
def Queue.size (q : Queue) : Nat := 2 ^ q.log2sz.toNat

/-- Level d of the parser. -/
def Queue.lvl (q : Queue) (d : Nat) : Level1 := if d = 0 then q.ring else listGet .reset q.levels (d - 1)

/-- The offset of the next packet of level d: at a level whose buffer runs, the packet after the IND, which is in execution. -/
def Queue.nextOff (q : Queue) (d : Nat) : Nat := (q.lvl d).off + (if d < q.depth then 16 else 0)

/-- The key under which the window of level d holds the word at byte k past its next packet's first byte. -/
def Queue.keyAt (q : Queue) (d k : Nat) : Nat :=
  if d = 0 then (q.head.toNat + q.nextOff 0 + k) % 2 ^ 32 else q.nextOff d + k

/-- The physical address of that word. -/
def Queue.addrAt (q : Queue) (d k : Nat) : Nat :=
  if d = 0 then q.base.toNat + (q.head.toNat + q.nextOff 0 + k) % q.size else (q.lvl d).base + q.nextOff d + k

/-- The bytes of level d from its next packet on: up to TAIL at the ring, else up to the end of the buffer. -/
def Queue.availAt (q : Queue) (d : Nat) : Nat :=
  if d = 0 then (q.tail - q.head).toNat - q.nextOff 0 else (q.lvl d).len - q.nextOff d

/-- The key, address and bytes of the level that the parser is in. -/
def Queue.key (q : Queue) (k : Nat) : Nat := q.keyAt q.depth k
def Queue.addr (q : Queue) (k : Nat) : Nat := q.addrAt q.depth k
def Queue.avail (q : Queue) : Nat := q.availAt q.depth

/-- How far behind the next packet of level d its window begins: the body of an open LOOP that the window can hold stays in it, and
is reused by the next iteration (R127). -/
def Queue.behind (q : Queue) (d : Nat) : Nat :=
  match (q.lvl d).loop with
  | some (st, len, _) => if len ≤ 256 then q.nextOff d - st else 0
  | none => 0

/-- The bytes that remain of the open LOOP's body. -/
def Queue.bodyLeft (q : Queue) : Option Nat := q.cur.loop.map (fun l => l.1 + l.2.1 - q.cur.off)

/-- The byte offset of the next packet within its level, as ERROFF gives it (R120). -/
def Queue.offset (q : Queue) : Nat := if q.depth = 0 then (q.head.toNat + q.ring.off) % q.size else q.cur.off

/-- A level's window keeps words of 256 bytes, from its next packet on or from the body of an open LOOP that they hold (R127); words
of levels that are closed are dropped. -/
def Queue.trim (q : Queue) : Queue :=
  { q with window := q.window.filter (fun w =>
      decide (w.1 ≤ q.depth) && decide ((w.2.1 + q.behind w.1 + 2 ^ 32 - q.keyAt w.1 0 % 2 ^ 32) % 2 ^ 32 < 256)) }

/-- n bytes of the current level have been executed: an open LOOP goes round, a buffer that is finished completes its IND, and at
the ring HEAD advances past whole packets (R122, R125). -/
def Queue.pass : Nat → Queue → Nat → Queue
  | 0, q, _ => q
  | f + 1, q, n =>
    let l := q.cur
    let off := l.off + n
    let l1 : Level1 := match l.loop with
      | some (st, len, left) =>
        if st + len ≤ off then
          (if 1 < left then { l with off := st, loop := some (st, len, left - 1) } else { l with off := off, loop := none })
        else { l with off := off }
      | none => { l with off := off }
    let q1 := q.setCur l1
    if q.depth = 0 then
      (if l1.loop.isNone then { q1 with head := q.head + BitVec.ofNat 32 l1.off, ring := .reset } else q1)
    else if l1.loop.isNone ∧ l.len ≤ l1.off then Queue.pass f { q1 with levels := q1.levels.dropLast } 16
    else q1

/-- A packet of n bytes has completed. -/
def State.passPacket (s : State) (q n : Nat) : State :=
  s.putQueue q { Queue.pass 3 (s.queue q) n with predAt := none, sread := none }.trim

/-- The queue stops with a cause (R126): the failing packet has no effect. -/
def State.stopQueue (s : State) (q cause : Nat) : State :=
  let x := s.queue q
  s.putQueue q { x with
    stopped := true
    cause := BitVec.ofNat 8 cause
    level := BitVec.ofNat 2 x.depth
    erroff := BitVec.ofNat 32 x.offset
    predAt := none
    sread := none }

/-! ### Reading packets (R123, R124, R126, R127) -/

/-- The bytes at an address are backed and of the queue's world. -/
def State.frontOk (s : State) (q pa n : Nat) : Bool := s.backedRange pa n && s.worldRange (s.queue q).world pa n

/-- Who the front end is for the device registers. -/
def State.frontWho (s : State) (q : Nat) : Who := ⟨(s.queue q).world, none, false⟩

/-- A 64-bit word that the front end reads. -/
def State.frontRead (s : State) (q pa : Nat) : Nat := ofBytes (s.physRead (s.frontWho q) pa 8)

/-- The word at byte k past the next packet of level d: from the window, or from memory; none when it cannot be read. -/
def State.windowWord (s : State) (q d k : Nat) : Option Nat :=
  let x := s.queue q
  match x.window.find? (fun w => w.1 == d && w.2.1 == x.keyAt d k) with
  | some w => some w.2.2.toNat
  | none => if s.frontOk q (x.addrAt d k) 8 then some (s.frontRead q (x.addrAt d k)) else none

/-- That word is to be read from memory, and the read stalls (R252, R301). -/
def State.wordStalls (s : State) (q d k : Nat) : Bool :=
  let x := s.queue q
  !x.window.any (fun w => w.1 == d && w.2.1 == x.keyAt d k) && s.frontOk q (x.addrAt d k) 8 && s.stalledPa 0 (x.addrAt d k) 8

/-- The word at byte k of the next packet. -/
def State.packetWord (s : State) (q k : Nat) : Option Nat := s.windowWord q (s.queue q).depth k

/-- Reads that word into the window, if it can be read and is not there. -/
def State.fetchWord (s : State) (q d k : Nat) : State :=
  let x := s.queue q
  if x.window.any (fun w => w.1 == d && w.2.1 == x.keyAt d k) || s.wordStalls q d k then s
  else match s.windowWord q d k with
    | some v => s.putQueue q { x with window := x.window ++ [(d, x.keyAt d k, BitVec.ofNat 64 v)] }
    | none => s

/-- Header fields. -/
def hType (h : Nat) : Nat := bitsN h 7 0
def hFlags (h : Nat) : Nat := bitsN h 15 8
def hLen (h : Nat) : Nat := bitsN h 31 16
def hArg (h : Nat) : Nat := bitsN h 63 32

/-- A PRED with WAIT = 0. -/
def hSkips (h : Nat) : Bool := hType h == 0x20 && !bitN (hFlags h) 3

/-- A header word is ill-formed (R124). -/
def headBad (h : Nat) : Bool :=
  let f := hFlags h
  let n := hLen h
  let a := hArg h
  match hType h with
  | 0x01 => decide (n < 1) || f != 0 || a != 0
  | 0x10 => n != 2 || decide (1 < f) || bitN a 31
  | 0x11 => n != 2 || f != 0 || bitN a 31
  | 0x12 => n != 2 || f != 0 || bitN a 31
  | 0x13 => n != 2 || f != 0 || a != 0
  | 0x20 => n != 4 || decide (15 < f) || decide (3 < f % 8) || (if bitN f 3 then a == 0 else a % 8 != 0)
  | 0x21 => n != 2 || f != 0
  | 0x22 => n != 2 || f != 0 || a % 8 != 0 || decide (a < 8)
  | 0x23 => n != 1 || f != 0 || a != 0
  | 0x30 => n != 3 || decide (15 < f) || bitsN a 31 28 != 0
  | _ => true

/-- The place of the next packet makes it ill-formed: an IND at level 2, a LOOP in a LOOP's body, a packet or a skip that passes the
end of the body, or a skip that passes the end of the buffer (R124, R125). -/
def Queue.placeBad (q : Queue) (h : Nat) : Bool :=
  let n := 8 * hLen h + (if hSkips h then hArg h else 0)
  (hType h == 0x22 && q.depth == 2) || (hType h == 0x21 && q.cur.loop.isSome) ||
  (match q.bodyLeft with | some b => decide (b < n) | none => false) ||
  (hSkips h && q.depth != 0 && decide (q.avail < n))

/-- The bytes that must be there for the packet to be available (R123). -/
def Queue.needs (q : Queue) (h : Nat) : Nat := 8 * hLen h + (if hSkips h && q.depth = 0 then hArg h else 0)

/-- A packet with the words after its header. -/
inductive Packet
  | nop (len : Nat)
  | job (o : UnitPkt)
  | phase (o : UnitPkt)
  | graph (o : UnitPkt)
  | launch (addr : W64)
  | skip (o : PredPkt)
  | wait (o : PredPkt)
  | loop (count body : W32)
  | ind (len : W32) (addr : W64)
  | fence
  | sread (o : SreadPkt)
  | bad (cause : Nat)
  deriving DecidableEq, Repr

/-- A packet from its words; a nonzero field that the table leaves 0 is BADPKT (R124). -/
def packetOf (h w1 w2 w3 : Nat) : Packet :=
  let id := BitVec.ofNat 32 (hArg h)
  let unit (count parent : Nat) : UnitPkt :=
    ⟨bitN (hFlags h) 0, id, bitN w1 63, BitVec.ofNat 12 (bitsN w1 59 48), BitVec.ofNat 16 count, BitVec.ofNat 32 parent⟩
  let pred : PredPkt :=
    ⟨BitVec.ofNat 2 (hFlags h), id, BitVec.ofNat 64 w1, BitVec.ofNat 64 w2, BitVec.ofNat 64 w3⟩
  match hType h with
  | 0x01 => .nop (hLen h)
  | 0x10 => if bitsN w1 62 60 ≠ 0 ∨ bitsN w1 47 0 ≠ 0 then .bad cBADPKT else .job (unit 0 0)
  | 0x11 => if bitsN w1 62 60 ≠ 0 then .bad cBADPKT else .phase (unit (bitsN w1 47 32) (bitsN w1 31 0))
  | 0x12 => if bitsN w1 62 60 ≠ 0 then .bad cBADPKT else .graph (unit (bitsN w1 47 32) (bitsN w1 31 0))
  | 0x13 => .launch (BitVec.ofNat 64 w1)
  | 0x20 => if bitN (hFlags h) 3 then .wait pred else .skip pred
  | 0x21 => if bitsN w1 63 32 ≠ 0 then .bad cBADPKT else .loop id (BitVec.ofNat 32 w1)
  | 0x22 => .ind id (BitVec.ofNat 64 w1)
  | 0x23 => .fence
  | 0x30 => .sread ⟨BitVec.ofNat 3 (hFlags h), bitN (hFlags h) 3, BitVec.ofNat 12 (bitsN (hArg h) 27 16),
      BitVec.ofNat 16 (hArg h), BitVec.ofNat 64 w1, BitVec.ofNat 64 w2⟩
  | _ => .bad cBADPKT

/-- The words after the header that a type reads. -/
def wordsRead (h : Nat) : Nat := if hType h = 0x01 then 0 else hLen h - 1

/-- The next packet of a queue, when it is available (R123): a bad one as soon as its header is. A packet whose words stall is not
there yet. -/
def State.nextPacket (s : State) (q : Nat) : Option Packet :=
  let x := s.queue q
  if x.avail < 8 || s.wordStalls q x.depth 0 then none
  else match s.packetWord q 0 with
    | none => some (.bad cPKTADDR)
    | some h =>
      if headBad h || x.placeBad h then some (.bad cBADPKT)
      else if x.avail < x.needs h || (List.range (1 + wordsRead h)).any (fun i => s.wordStalls q x.depth (8 * i)) then none
      else
        let w (i : Nat) : Option Nat := if i ≤ wordsRead h then s.packetWord q (8 * i) else some 0
        match w 1, w 2, w 3 with
        | some a, some b, some c => some (packetOf h a b c)
        | _, _, _ => some (.bad cPKTADDR)

/-- The lane of a queue takes part in a round (R123). -/
def State.laneReady (s : State) (q : Nat) : Bool :=
  decide (q < 32) && (s.queue q).en && !(s.queue q).stopped && (s.nextPacket q).isSome

/-- Reads the header of the next packet into the window. -/
def State.fetchHeader (s : State) (q : Nat) : State :=
  if 8 ≤ (s.queue q).avail ∧ (s.queue q).en ∧ !(s.queue q).stopped then s.fetchWord q (s.queue q).depth 0 else s

/-- Reads the words of the next packet into the window. -/
def State.fetchPacket (s : State) (q : Nat) : State :=
  if s.laneReady q then
    match s.packetWord q 0 with
    | some h => 
      let d := (s.queue q).depth
      if headBad h then s.fetchWord q d 0 else (List.range (1 + wordsRead h)).foldl (fun s i => s.fetchWord q d (8 * i)) s
    | none => s
  else s

/-- The word of level d at byte 8 × i from its next packet is read ahead, where the window extends so far (R127). -/
def State.readAhead (s : State) (q d i : Nat) : State :=
  let x := s.queue q
  if x.en ∧ !x.stopped ∧ d ≤ x.depth ∧ 8 * i + 8 ≤ x.availAt d ∧ x.behind d + 8 * i < 256 then s.fetchWord q d (8 * i) else s

/-- An idle turn may read any words of one window of a queue ahead: a free choice of the queue, the level and the words. -/
def State.prefetch (s : State) : State :=
  let d := s.draw
  if d.2.mbox.state = 0 ∧ d.2.powered then
    (maskList 32 (d.1 / 128)).foldl (fun s i => s.readAhead (d.1 % 32) (d.1 / 32 % 4) i) d.2
  else d.2

/-! ### Rounds (R123) -/

/-- The place of a type in a round; a packet that is ill-formed goes first. -/
def Packet.rank : Packet → Nat
  | .bad _ => 0 | .fence => 1 | .ind _ _ => 2 | .loop _ _ => 3 | .skip _ => 4 | .wait _ => 4 | .job _ => 5 | .phase _ => 6
  | .graph _ => 7 | .sread _ => 8 | .launch _ => 9 | .nop _ => 10

/-- The queues of a round: by the types of their packets, then in ascending number. -/
def State.roundQueues (s : State) : List Nat :=
  (List.range 11).flatMap (fun r => (List.range 32).filter (fun q =>
    s.laneReady q && (match s.nextPacket q with | some p => p.rank == r | none => false)))

/-- The round goes on: queues that can act no longer leave it, and a new round begins when it is over. -/
def State.goRound (s : State) : State :=
  let rest := s.round.dropWhile (fun q => !s.laneReady q)
  if rest.isEmpty then
    let s1 := (List.range 32).foldl (fun s q => s.fetchHeader q) s
    { s1 with round := s1.roundQueues }
  else { s with round := rest }

/-- The turn of a lane begins: the round goes on, and when it is this queue's place in it, its packet's words are read. -/
def State.beginLane (s : State) (q : Nat) : State :=
  if s.firmwareRuns then
    let s1 := s.goRound
    if s1.round.head? = some q then s1.fetchPacket q else s1
  else s

/-! ### The effects of packets (R125) -/

/-- The bell word that a unit's notification names. -/
def unitBell (o : UnitPkt) : Option Nat := if o.note then some o.bell.toNat else none

/-- What opening a unit leaves: the queue stops, the packet waits, or it completes. -/
def State.openDone (s : State) (q n : Nat) : Opened → State
  | .err c => s.stopQueue q c
  | .wait => s
  | .done s1 => s1.passPacket q n

/-- Closes a job, leaves it, or releases its counter; none when no held job has the identifier (R125). -/
def State.closeJob (s : State) (id : W32) (note : Option Nat) : Option State :=
  match s.liveUnit .job id with
  | none => none
  | some j =>
    if !j.unfinished then
      let s1 := s.dropBelow j.uid
      some { s1 with units := s1.units.filter (fun u => u.uid != j.uid) }
    else if j.closed then some s
    else
      let j1 : CUnit := { j with closed := true, note := (match note with | some b => some b | none => j.note) }
      let s1 := s.modUnit j.uid (fun _ => j1)
      if j1.live ∧ j1.whole then
        let j2 : CUnit := match j1.failed with
          | some c => { j1 with state := .error, cause := c }
          | none => { j1 with state := .done }
        some (((s1.modUnit j.uid (fun _ => j2)).dropBelow j.uid).noteUnit j2)
      else some s1

/-- JOB. -/
def State.jobPacket (s : State) (q : Nat) (o : UnitPkt) : State :=
  if o.id.toNat.testBit 31 then s.stopQueue q cBADPKT
  else if o.close then
    match s.closeJob o.id (unitBell o) with
    | none => s.stopQueue q cNOUNIT
    | some s1 => s1.passPacket q 16
  else s.openDone q 16 (s.openJob o.id (s.queue q).world q (unitBell o))

/-- PHASE. -/
def State.phasePacket (s : State) (q : Nat) (o : UnitPkt) : State :=
  if o.id.toNat.testBit 31 then s.stopQueue q cBADPKT
  else s.openDone q 16 (s.openPhase o.id o.parent o.count.toNat q (unitBell o))

/-- GRAPH. -/
def State.graphPacket (s : State) (q : Nat) (o : UnitPkt) : State :=
  if o.id.toNat.testBit 31 then s.stopQueue q cBADPKT
  else s.openDone q 16 (s.openGraph o.id o.parent o.count.toNat q (unitBell o))

/-- LAUNCH: the distributor takes its own copy of the record. The read of a record on a page that migrates waits (R252). -/
def State.launchPacket (s : State) (q : Nat) (addr : W64) : State :=
  let a := addr.toNat
  if a % 256 ≠ 0 ∨ !s.frontOk q a 256 then s.stopQueue q cPKTADDR
  else if s.stalledPa 0 a 256 then s
  else s.openDone q 16 (s.submit (s.physRead (s.frontWho q) a 256) q (s.queue q).world)

/-- The test of a PRED. -/
def State.predHolds (s : State) (q : Nat) (o : PredPkt) : Bool :=
  let w := s.frontRead q o.addr.toNat &&& o.mask.toNat
  let r := o.ref.toNat &&& o.mask.toNat
  match o.cond.toNat with
  | 0 => w == r
  | 1 => w != r
  | 2 => decide (w < r)
  | _ => decide (r ≤ w)

/-- The address of a PRED may be read. -/
def State.predOk (s : State) (q : Nat) (o : PredPkt) : Bool := o.addr.toNat % 8 == 0 && s.frontOk q o.addr.toNat 8

/-- PRED with WAIT = 0. -/
def State.predSkip (s : State) (q : Nat) (o : PredPkt) : State :=
  if !s.predOk q o then s.stopQueue q cPKTADDR
  else if s.stalledPa 0 o.addr.toNat 8 then s
  else s.passPacket q (if s.predHolds q o then 32 else 32 + o.arg.toNat)

/-- The time of a waiting PRED has passed since its first test. -/
def State.predLate (s : State) (q : Nat) (arg : Nat) : Bool :=
  match (s.queue q).predAt with | some t => decide (t + arg * 1024 ≤ s.hclk) | none => false

/-- PRED with WAIT = 1: a false test is made again in the next round, until its time has passed. -/
def State.predWait (s : State) (q : Nat) (o : PredPkt) : State :=
  if !s.predOk q o then s.stopQueue q cPKTADDR
  else if s.stalledPa 0 o.addr.toNat 8 then s
  else if s.predHolds q o then s.passPacket q 32
  else if s.predLate q o.arg.toNat then s.stopQueue q cPREDTO
  else
    let x := s.queue q
    s.putQueue q { x with predAt := (match x.predAt with | some t => some t | none => some s.hclk) }

/-- LOOP: an iteration count of 0 skips the body; at the ring the skip waits until the body lies before TAIL. -/
def State.loopPacket (s : State) (q : Nat) (count body : W32) : State :=
  let x := s.queue q
  let b := body.toNat
  if b % 8 ≠ 0 ∨ (x.depth ≠ 0 ∧ x.avail < 16 + b) ∨ x.cur.loop.isSome then s.stopQueue q cBADPKT
  else if b = 0 then s.passPacket q 16
  else if count = 0 then (if x.avail < 16 + b then s else s.passPacket q (16 + b))
  else
    let l := x.cur
    s.putQueue q { x.setCur { l with off := l.off + 16, loop := some (l.off + 16, b, count.toNat) } with predAt := none }.trim

/-- IND: the buffer is the next level. -/
def State.indPacket (s : State) (q : Nat) (len : W32) (addr : W64) : State :=
  let x := s.queue q
  let a := addr.toNat
  let n := len.toNat
  if 2 ≤ x.depth ∨ n % 8 ≠ 0 ∨ n < 8 then s.stopQueue q cBADPKT
  else if a % 8 ≠ 0 ∨ !s.frontOk q a 8 ∨ !s.frontOk q (a + n - 8) 8 then s.stopQueue q cPKTADDR
  else s.putQueue q { x with levels := x.levels ++ [⟨a, n, 0, none⟩], predAt := none }

/-- FFENCE: the windows of every level are emptied (R127). -/
def State.fencePacket (s : State) (q : Nat) : State :=
  (s.putQueue q { s.queue q with window := [] }).passPacket q 8

/-! ### Storage fetch (R131, R132) -/

/-- The bytes of an SREAD. -/
def sreadBytes (d : Drive) (o : SreadPkt) : Nat := (o.nblk.toNat + 1) * 2 ^ (d.lbash.toNat + 9)

/-- The PRP list of an SREAD, which H-die memory holds: the host-visible addresses of the pages of its destination after the first, where
there are more than one (R132; a command with one such page names it itself). -/
def prpEntries (d : Drive) (o : SreadPkt) : List W64 :=
  let n := sreadBytes d o
  if n ≤ 8192 then [] else
    (List.range ((n + 4095) / 4096 - 1)).map (fun i => BitVec.ofNat 64 (Config.hostVisible (o.dest.toNat + 4096 * (i + 1))))

/-- The NVMe Read command of an SREAD (log entry 13). -/
def nvmeRead (d : Drive) (drive cid : Nat) (o : SreadPkt) : List Byte :=
  let n := sreadBytes d o
  let dest := o.dest.toNat
  let prp2 := if n ≤ 4096 then 0 else if n ≤ 8192 then Config.hostVisible (dest + 4096) else Config.prpList drive cid
  bytesOf 4 (2 + cid * 2 ^ 16) ++ bytesOf 4 d.nsid.toNat ++ bytesOf 16 0 ++ bytesOf 8 (Config.hostVisible dest) ++ bytesOf 8 prp2 ++
  bytesOf 8 o.lba.toNat ++ bytesOf 4 o.nblk.toNat ++ bytesOf 12 0

/-- Where the next command of a drive lies. -/
def Drive.place (d : Drive) : Nat := d.sq.toNat + 64 * d.sqTail
/-- The completion head doorbell of a drive. -/
def Drive.headBell (d : Drive) : Nat := d.db.toNat + 4 * 2 ^ d.dstrd.toNat

/-- SREAD: the command and the doorbell are written, once the pages in which they lie migrate no more (R252); with WAIT = 1 the packet
goes on waiting. The submission queue is full when as many commands are without a completion as it may hold (log entry 85), always with
QSIZE = 0 (log entry 114); the destination is any that the queue may reach (log entry 104). -/
def State.sreadPacket (s : State) (q : Nat) (o : SreadPkt) : State :=
  let x := s.queue q
  let dn := o.drive.toNat
  let d := s.drive dn
  let n := sreadBytes d o
  if x.sread.isSome then s
  else if !d.en || o.dest.toNat % 4096 != 0 || decide (0x100000 < n) then s.stopQueue q cBADPKT
  else if x.world || !s.frontOk q o.dest.toNat n then s.stopQueue q cPKTADDR
  else if d.qsize.toNat ≤ d.cmds.length || s.unitStalls d.place 64 || s.unitStalls d.db.toNat 4 then s
  else
    let cid := d.nextId % 2 ^ 16
    let tail := (d.sqTail + 1) % (d.qsize.toNat + 1)
    let s1 := s.unitWrite false d.place (nvmeRead d dn cid o)
    let s2 := s1.unitWrite false d.db.toNat (bytesOf 4 tail)
    let c : DriveCmd := ⟨cid, o.bell.toNat, s.hclk, if o.wait then some q else none, prpEntries d o⟩
    let s3 := s2.putDrive dn { d with sqTail := tail, nextId := d.nextId + 1, cmds := d.cmds ++ [c] }
    if o.wait then s3.putQueue q { s3.queue q with sread := some (dn, cid) } else s3.passPacket q 24

/-- A command ends with a status: the bell word takes it and is posted, and a queue that waits goes on. -/
def State.endRead (s : State) (dn : Nat) (c : DriveCmd) (status : Nat) (en : Bool) : State :=
  let d := s.drive dn
  let s1 := s.putDrive dn { d with cmds := d.cmds.filter (fun x => x.cid != c.cid), en := d.en && en }
  let s2 := s1.notePost c.bell (BitVec.ofNat 64 status)
  match c.queue with
  | some q => if (s2.queue q).sread = some (dn, c.cid) then s2.passPacket q 24 else s2
  | none => s2

/-- SREAD_COMPLETION: the drive's completion entry has arrived, and the completion head doorbell is written (log entry 13). The
drive's data has come through the host port before. An entry for a command that has timed out is ignored (log entry 103). -/
def execSreadCompletion (drive cid : Nat) (status : BitVec 16) (s : State) : Out :=
  .next (
    let d := s.drive drive
    match d.cmds.find? (fun c => c.cid == cid) with
    | none => s
    | some c =>
      if s.postFull || s.unitStalls d.headBell 4 then s
      else
        let head := (d.cqHead + 1) % (d.qsize.toNat + 1)
        let s1 := s.putDrive drive { d with cqHead := head }
        let s2 := s1.unitWrite false d.headBell (bytesOf 4 head)
        s2.endRead drive c status.toNat true)

/-- SREAD_TIMEOUT: a command without a completion for 2^34 aclk ends with status 0xFFFF, and the drive is disabled. -/
def execSreadTimeout (drive cid : Nat) (s : State) : Out :=
  .next (
    match (s.drive drive).cmds.find? (fun c => c.cid == cid) with
    | none => s
    | some c => if c.since + 2 ^ 34 ≤ s.hclk ∧ !s.postFull then s.endRead drive c 0xFFFF false else s)

/-! ### Packets as steps -/

/-- A bad packet stops its queue. -/
def State.badPacket (s : State) (q : Nat) : State :=
  match s.nextPacket q with | some (.bad c) => s.stopQueue q c | _ => s

/-- The effect of a packet, whoever executes it. -/
def State.runPacket (s : State) (q : Nat) : Packet → State
  | .nop n => s.passPacket q (8 * n)
  | .job o => s.jobPacket q o
  | .phase o => s.phasePacket q o
  | .graph o => s.graphPacket q o
  | .launch a => s.launchPacket q a
  | .skip o => s.predSkip q o
  | .wait o => s.predWait q o
  | .loop c b => s.loopPacket q c b
  | .ind n a => s.indPacket q n a
  | .fence => s.fencePacket q
  | .sread o => s.sreadPacket q o
  | .bad _ => s.badPacket q

/-- The instruction of a packet. -/
def Packet.instr (q : Nat) : Packet → Instr
  | .nop n => .nopPacket q n
  | .job o => .jobPacket q o
  | .phase o => .phasePacket q o
  | .graph o => .graphPacket q o
  | .launch a => .launchPacket q a
  | .skip o => .predSkip q o
  | .wait o => .predWait q o
  | .loop c b => .loopPacket q c b
  | .ind n a => .indPacket q n a
  | .fence => .ffence q
  | .sread o => .sread q o
  | .bad _ => .illFormedPacket q

/-- The packet that a lane's turn executes. -/
def State.lanePacket (s : State) (q : Nat) : Option Packet :=
  if s.firmwareRuns && s.round.head? == some q && s.laneReady q then s.nextPacket q else none

/-- NOP (R124). -/
def execNopPacket (q len : Nat) (s : State) : Out := .next (s.passPacket q (8 * len))
/-- JOB (R125). -/
def execJobPacket (q : Nat) (o : UnitPkt) (s : State) : Out := .next (s.jobPacket q o)
/-- PHASE (R125). -/
def execPhasePacket (q : Nat) (o : UnitPkt) (s : State) : Out := .next (s.phasePacket q o)
/-- GRAPH (R125). -/
def execGraphPacket (q : Nat) (o : UnitPkt) (s : State) : Out := .next (s.graphPacket q o)
/-- LAUNCH (R125). -/
def execLaunchPacket (q : Nat) (addr : W64) (s : State) : Out := .next (s.launchPacket q addr)
/-- PRED with WAIT = 0 (R125). -/
def execPredSkip (q : Nat) (o : PredPkt) (s : State) : Out := .next (s.predSkip q o)
/-- PRED with WAIT = 1 (R125). -/
def execPredWait (q : Nat) (o : PredPkt) (s : State) : Out := .next (s.predWait q o)
/-- LOOP (R125). -/
def execLoopPacket (q : Nat) (count body : W32) (s : State) : Out := .next (s.loopPacket q count body)
/-- IND (R125). -/
def execIndPacket (q : Nat) (len : W32) (addr : W64) (s : State) : Out := .next (s.indPacket q len addr)
/-- FFENCE (R127). -/
def execFfence (q : Nat) (s : State) : Out := .next (s.fencePacket q)
/-- SREAD (R132). -/
def execSread (q : Nat) (o : SreadPkt) (s : State) : Out := .next (s.sreadPacket q o)
/-- ILL_FORMED_PACKET (R124, R126). -/
def execIllFormedPacket (q : Nat) (s : State) : Out := .next (s.badPacket q)

/-- PRED_TIMEOUT (R125): a waiting PRED whose time has passed without a true result stops its queue. -/
def execPredTimeout (q : Nat) (s : State) : Out :=
  .next (
    if s.firmwareRuns && s.laneReady q then
      match s.nextPacket q with
      | some (.wait o) => if s.predLate q o.arg.toNat then s.stopQueue q cPREDTO else s
      | _ => s
    else s)

/-- The parser is taken up from the progress words (R328): the windows are empty, and no packet is half done. -/
def State.takeUp (s : State) : State :=
  { s with round := [], queues := s.queues.map (fun q => { q with window := [], predAt := none, sread := none }) }

end Sys2Proof.Machine
end

