-- ==== Sys2Proof/Machine/Registers.lean ====
section
/-!
DEFINITION. The register BAR (R119): host writes to queue pages (R120, R121, R280, R316), the notification ring (R129, R130),
drive blocks (R131), the mailbox's plain registers (R327), the identity page (R23) and bell words (R128); what host reads return;
and BELL_POST.
-/

namespace Sys2Proof.Machine

/-! ### Queue pages (R120, R121) -/

/-- A write of TAIL under the monotonic-maximum rule (R121). -/
def Queue.tailWrite (q : Queue) (w : W32) : Queue :=
  let d := (w - q.tail).toNat
  if d = 0 ∨ 2 ^ 31 ≤ d then q
  else if w.toNat % 8 ≠ 0 then { q with tailerr := true }
  else if q.size < (w - q.head).toNat then { q with ovf := true }
  else { q with tail := w }

/-- A write of QCFG (R120): LOG2SZ first, under its own rule, then EN with the LOG2SZ that results. -/
def Queue.cfgWrite (q : Queue) (v : W32) : Queue :=
  let q1 : Queue := if !q.en && q.head == q.tail then { q with log2sz := v.setWidth 5 } else q
  if !v.toNat.testBit 8 then { q1 with en := false }
  else if 12 ≤ q1.log2sz.toNat ∧ q1.log2sz.toNat ≤ 24 ∧ q1.base.toNat % q1.size = 0 then { q1 with en := true }
  else q1

/-- RESUME (R120): the stop is cleared, and the failing packet is executed again from its first byte, which is read again. -/
def Queue.resume (q : Queue) : Queue :=
  if !q.stopped then q
  else { q with stopped := false, cause := 0, level := 0, erroff := 0, window := [], predAt := none, sread := none }

/-- TAILERR and OVF are cleared by writing 1 (R120). -/
def Queue.clearFlags (q : Queue) (tailerr ovf : Bool) : Queue :=
  { q with tailerr := q.tailerr && !tailerr, ovf := q.ovf && !ovf }

/-- Changes a queue that exists. -/
def State.modQueue (s : State) (q : Nat) (f : Queue → Queue) : State := s.putQueue q (f (s.queue q))

/-- QTAIL_WRITE (R121). -/
def execQtailWrite (q : Nat) (w : W32) (s : State) : Out := .next (s.modQueue q (fun x => x.tailWrite w))
/-- QCFG_WRITE (R120). -/
def execQcfgWrite (q : Nat) (v : W32) (s : State) : Out := .next (s.modQueue q (fun x => x.cfgWrite v))
/-- QSTAT_RESUME (R120). -/
def execQstatResume (q : Nat) (s : State) : Out := .next (s.modQueue q Queue.resume)
/-- QSTAT_FLAG_CLEAR (R120). -/
def execQstatFlagClear (q : Nat) (tailerr ovf : Bool) (s : State) : Out :=
  .next (s.modQueue q (fun x => x.clearFlags tailerr ovf))

/-! ### Address spaces (R280, R288) -/

/-- A 64-bit value with the halves that a write covers replaced (R119). -/
def RegPart.merge (old v : W64) : RegPart → W64
  | .whole => v
  | .low => maskMerge old v 0x00000000FFFFFFFF
  | .high => maskMerge old v 0xFFFFFFFF00000000

/-- QROOT as it reads. -/
def Space.rootReg (p : Space) : W64 := BitVec.ofNat 64 (p.root.toNat * 2 ^ 16 + b2n p.en)

/-- A write of QROOT changes the root and raises GEN (R280). -/
def Space.rootWrite (p : Space) (part : RegPart) (v : W64) : Space :=
  let r := (RegPart.merge p.rootReg v part).toNat
  { p with root := BitVec.ofNat 36 (bitsN r 51 16), en := bitN r 0, gen := p.gen + 1 }

/-- A raise of GEN (R280). -/
def Space.raise (p : Space) : Space := { p with gen := p.gen + 1 }

/-- Changes an address space of a non-secure queue; host writes to that of a secure queue are ignored (R280). -/
def State.modSpace (s : State) (q : Nat) (f : Space → Space) : State :=
  if q < 32 ∧ (s.queue q).world = false then s.putSpace q (f (s.space q)) else s

/-- QROOT_WRITE (R280). -/
def execQrootWrite (q : Nat) (part : RegPart) (v : W64) (s : State) : Out := .next (s.modSpace q (fun p => p.rootWrite part v))
/-- QGEN_WRITE (R280). -/
def execQgenWrite (q : Nat) (s : State) : Out := .next (s.modSpace q Space.raise)

/-! ### The notification ring (R129, R130) -/

/-- Entries of the ring. -/
def Notify.size (n : Notify) : Nat := 2 ^ n.log2n.toNat

/-- Replaces the notification ring's state. -/
def State.withNotify (s : State) (n : Notify) : State := { s with notify := n }

/-- A write of NTHEAD (R130). -/
def Notify.headWrite (n : Notify) (w : W32) : Notify :=
  let d := (w - n.head).toNat
  if d = 0 ∨ 2 ^ 31 ≤ d then n
  else if n.size < (w - (n.tail - BitVec.ofNat 32 n.size)).toNat then n
  else { n with head := w }

/-- A write of NTCFG (R130). -/
def Notify.cfgWrite (n : Notify) (v : W32) : Notify :=
  let n1 : Notify := if n.en then n else { n with log2n := v.setWidth 5 }
  if !v.toNat.testBit 8 then { n1 with en := false }
  else if 4 ≤ n1.log2n.toNat ∧ n1.log2n.toNat ≤ 16 ∧ n1.base.toNat % (16 * n1.size) = 0 then { n1 with en := true }
  else n1

/-- NTHEAD_WRITE (R130). -/
def execNtheadWrite (w : W32) (s : State) : Out := .next { s with notify := s.notify.headWrite w }
/-- NTCFG_WRITE (R130). -/
def execNtcfgWrite (v : W32) (s : State) : Out := .next { s with notify := s.notify.cfgWrite v }

/-- The 16 bytes of the entry posted at count n (R129, R130). -/
def Notify.entry (n : Notify) (bell : Nat) (v : W64) : List Byte :=
  bytesOf 8 (bell + b2n (bitN n.tail.toNat n.log2n.toNat) * 2 ^ 63) ++ bytesOf 8 v.toNat

/-- The ring takes an entry: it is enabled and not full. -/
def Notify.takes (n : Notify) : Bool := n.en && (n.tail - n.head).toNat != n.size

/-- Where the next entry of the ring lies. -/
def Notify.place (n : Notify) : Nat := n.base.toNat + 16 * (n.tail.toNat % n.size)

/-- BELL_POST (R129): the oldest waiting post becomes an entry of the ring; it waits while the entry's page migrates (R252). -/
def execBellPost (s : State) : Out :=
  .next (
    let n := s.notify
    match n.waiting with
    | [] => s
    | (i, v) :: t =>
      if n.takes && !s.unitStalls n.place 16 then
        ((s.unitWrite false n.place (n.entry i v)).withNotify
          { n with tail := n.tail + 1, waiting := t }).noteStalled
      else s)

/-! ### Host writes and reads (R23, R119) -/

/-- Drive register r: SQ, CQ, DB and DCFG (R131). -/
def Drive.reg (d : Drive) (r : Nat) : W64 :=
  match r with
  | 0 => d.sq
  | 1 => d.cq
  | 2 => d.db
  | 3 => BitVec.ofNat 64 (b2n d.en * 2 ^ 52 + d.dstrd.toNat * 2 ^ 48 + d.lbash.toNat * 2 ^ 44 + d.nsid.toNat * 2 ^ 12 + d.qsize.toNat)
  | _ => 0

/-- Writes drive register r. The device's place in its queues and the commands under way stay as they are, whatever the write changes
(log entry 84); QSIZE takes 0 like any other value (log entry 114). -/
def Drive.putReg (d : Drive) (r : Nat) (v : W64) : Drive :=
  match r with
  | 0 => { d with sq := v }
  | 1 => { d with cq := v }
  | 2 => { d with db := v }
  | 3 => { d with
      en := v.toNat.testBit 52
      dstrd := BitVec.ofNat 4 (bitsN v.toNat 51 48)
      lbash := BitVec.ofNat 4 (bitsN v.toNat 47 44)
      nsid := BitVec.ofNat 32 (bitsN v.toNat 43 12)
      qsize := BitVec.ofNat 12 v.toNat }
  | _ => d

/-- QPOOL as it reads (R316). -/
def Space.poolReg (p : Space) : W64 := BitVec.ofNat 64 (b2n p.poolEn * 2 ^ 63 + p.pool.toNat)

/-- QSTAT as it reads (R120). -/
def Queue.statReg (q : Queue) : Nat :=
  q.erroff.toNat * 2 ^ 32 + q.cause.toNat * 2 ^ 24 + q.level.toNat * 2 ^ 16 + b2n q.tailerr * 8 + b2n q.ovf * 4 + b2n q.stopped * 2

/-- Register r of queue page q as it reads (R120, R280, R316). -/
def State.queueReg (s : State) (q r : Nat) : Nat :=
  let x := s.queue q
  let p := s.space q
  match r with
  | 0 => x.base.toNat
  | 1 => b2n x.world * 2 ^ 9 + b2n x.en * 2 ^ 8 + x.log2sz.toNat
  | 2 => x.tail.toNat
  | 3 => x.head.toNat
  | 4 => x.statReg
  | 5 => p.rootReg.toNat
  | 6 => p.ack.toNat * 2 ^ 16 + p.gen.toNat
  | 7 => p.poolReg.toNat
  | _ => 0

/-- Register r of the front-end control page (R130, R131). -/
def State.frontReg (s : State) (r : Nat) : Nat :=
  let n := s.notify
  match r with
  | 0 => n.base.toNat
  | 1 => b2n n.en * 2 ^ 8 + n.log2n.toNat
  | 2 => n.head.toNat
  | 3 => n.tail.toNat
  | _ => if 32 ≤ r ∧ r < 96 then ((s.drive ((r - 32) / 8)).reg ((r - 32) % 8)).toNat else 0

/-- Register r of the recovery mailbox (R327). -/
def State.mailReg (s : State) (r : Nat) : Nat :=
  let m := s.mbox
  match r with
  | 0 => m.restarts.toNat * 2 ^ 16 + m.mode.toNat * 2 ^ 8 + m.state.toNat
  | 2 => m.arg.toNat
  | 3 => m.len.toNat * 2 ^ 32 + m.queue.toNat
  | 4 => m.cause.toNat * 2 ^ 8 + b2n m.adv * 2 + b2n m.busy
  | 6 => m.elBase.toNat
  | 7 => b2n m.elEn * 2 ^ 8 + m.elLog2.toNat
  | 8 => m.elTail.toNat
  | _ => 0

/-- What a host read of n bytes at a BAR offset returns (R23, R119). -/
def State.barRead (s : State) (off n : Nat) : Nat :=
  if off < 0x1000 then regRead s.idReg off n
  else if off < 0x2000 then regRead s.frontReg (off - 0x1000) n
  else if off < 0x3000 then regRead s.mailReg (off - 0x2000) n
  else if 0x10000 ≤ off ∧ off < 0x12000 then
    regRead (s.queueReg ((off - 0x10000) / 256)) ((off - 0x10000) % 256) n
  else if 0x100000 ≤ off ∧ off < 0x108000 then s.devRead ⟨false, none, false⟩ off n
  else 0

/-- A host write of the whole or a half of register r of queue page q (R119, R120, R280, R316): each field takes the bits that the
write covers. A write of QBASE leaves the words that the fetch window holds (log entry 101). -/
def State.queueWrite (s : State) (q r : Nat) (part : RegPart) (v : W64) : State :=
  let low := v.setWidth 32
  let hasLow := part != .high
  match r with
  | 0 => s.modQueue q (fun x =>
      if x.en then x else { x with base := (RegPart.merge (x.base.setWidth 64) v part).setWidth 52 })
  | 1 => if hasLow then s.modQueue q (fun x => x.cfgWrite low) else s
  | 2 => if hasLow then s.modQueue q (fun x => x.tailWrite low) else s
  | 4 => if hasLow then s.modQueue q (fun x =>
        let x1 := x.clearFlags (low.toNat.testBit 3) (low.toNat.testBit 2)
        if low.toNat.testBit 0 then x1.resume else x1) else s
  | 5 => s.modSpace q (fun p => p.rootWrite part v)
  | 6 => if hasLow then s.modSpace q Space.raise else s
  | 7 =>
    let p := s.space q
    let w := RegPart.merge p.poolReg v part
    s.putSpace q { p with poolEn := w.toNat.testBit 63, pool := w.setWidth 52 }
  | _ => s

/-- A host write to register r of the front-end control page (R130, R131). -/
def State.frontWrite (s : State) (r : Nat) (part : RegPart) (v : W64) : State :=
  let low := v.setWidth 32
  let hasLow := part != .high
  match r with
  | 0 => s.withNotify { s.notify with base := (RegPart.merge (s.notify.base.setWidth 64) v part).setWidth 52 }
  | 1 => if hasLow then s.withNotify (s.notify.cfgWrite low) else s
  | 2 => if hasLow then s.withNotify (s.notify.headWrite low) else s
  | _ =>
    if 32 ≤ r ∧ r < 96 then
      let d := (r - 32) / 8
      let x := (r - 32) % 8
      s.putDrive d ((s.drive d).putReg x (RegPart.merge ((s.drive d).reg x) v part))
    else s

/-- A host write to a plain register of the mailbox (R327); a write of MBCMD is the step of its command. -/
def State.mailWrite (s : State) (r : Nat) (part : RegPart) (v : W64) : State :=
  let m := s.mbox
  match r with
  | 2 => { s with mbox := { m with arg := (RegPart.merge (m.arg.setWidth 64) v part).setWidth 52 } }
  | 3 =>
    let w := (RegPart.merge (BitVec.ofNat 64 (m.len.toNat * 2 ^ 32 + m.queue.toNat)) v part).toNat
    { s with mbox := { m with len := BitVec.ofNat 32 (bitsN w 63 32), queue := BitVec.ofNat 5 w } }
  | 6 => { s with mbox := { m with elBase := (RegPart.merge (m.elBase.setWidth 64) v part).setWidth 52 } }
  | 7 =>
    if part == .high then s
    else
      let lg : BitVec 5 := if m.elEn then m.elLog2 else v.setWidth 5
      { s with mbox := { m with elEn := v.toNat.testBit 8, elLog2 := lg } }
  | _ => s

/-- A host write of n bytes at a BAR offset (R119): a register of a page takes a whole write or an aligned half, a bell word 1, 2,
4 or 8 aligned bytes; anything else is ignored. -/
def State.barWrite (s : State) (off n : Nat) (v : W64) : State :=
  let part : Option RegPart :=
    if n = 8 ∧ off % 8 = 0 then some .whole
    else if n = 4 ∧ off % 8 = 0 then some .low
    else if n = 4 ∧ off % 8 = 4 then some .high
    else none
  let w : W64 := if n = 4 ∧ off % 8 = 4 then v <<< 32 else v
  if 0x100000 ≤ off ∧ off < 0x108000 then
    if (n = 1 ∨ n = 2 ∨ n = 4 ∨ n = 8) ∧ off % n = 0 then s.bellWrite (off - 0x100000) n (v.toNat % 2 ^ (8 * n)) else s
  else match part with
    | none => s
    | some p =>
      if off < 0x1000 then
        (if off / 8 = 8 then { s with ident := { s.ident with stamp := RegPart.merge s.ident.stamp w p } } else s)
      else if off < 0x2000 then s.frontWrite ((off - 0x1000) / 8) p w
      else if off < 0x3000 then s.mailWrite ((off - 0x2000) / 8) p w
      else if 0x10000 ≤ off ∧ off < 0x12000 then s.queueWrite ((off - 0x10000) / 256) ((off - 0x10000) % 256 / 8) p w
      else s

/-- REGISTER_WRITE (R119): a host write to the BAR. -/
def execRegisterWrite (off width : Nat) (v : W64) (s : State) : Out := .next (s.barWrite off width v)

end Sys2Proof.Machine
end

