-- ==== Sys2Proof/Machine/Porter.lean ====
section
/-!
DEFINITION. The Porter (R290 to R299): power-up, attestation, the tenant's requests, the worlds of granules and hardware blocks,
the state of a package without power, and the start of a control crew (R17, R280).
-/

namespace Sys2Proof.Machine

/-! ### The identity page (R24, R25, R330) -/

/-- An update of the identity page: GEN is raised to an odd value before it and to an even one after it (R25). -/
def State.idUpdate (s : State) (f : Ident → Ident) : State :=
  let x := f { s.ident with gen := s.ident.gen + 1 }
  { s with ident := { x with gen := x.gen + 1 } }

/-- Sets REPL with a reason (R330); the error log keeps every reason, in word 2 of an entry without a cause (log entry 37). -/
def State.replace (s : State) (reason chiplet : Nat) : State :=
  (s.idUpdate (fun x => { x with reasons := x.reasons.filter (fun r => r != reason) ++ [reason] })).log 0 chiplet 0 reason

/-- Sets the SHUT bits of chiplets (R300). -/
def State.shut (s : State) (l : List Nat) : State :=
  s.idUpdate (fun x => { x with shut := x.shut ||| BitVec.ofNat 17 (listMask l) })

/-- Clears the SHUT bit of a chiplet (R24). -/
def State.unshut (s : State) (i : Nat) : State :=
  s.idUpdate (fun x => { x with shut := x.shut &&& ~~~(BitVec.ofNat 17 (listMask [i])) })

/-! ### Power (R34, R295) -/

/-- A package that has just lost or regained power, or has been reset (R34, R305): nothing of its state is left; the fuses, the
host's memory and the model's schedule stay (log entry 38). The cores are those that the fuses enable (R22). -/
def State.cold (s : State) (powered : Bool) : State :=
  { State.reset with
    turn := s.turn, agenda := s.agenda, draws := s.draws, nextUid := s.nextUid, fuses := s.fuses, hostMap := s.hostMap
    mem := s.mem.filter (fun p => decide (0x8000000000000 ≤ p.1))
    poison := s.poison.filter (fun g => decide (0x8000000000000 ≤ 8 * g))
    cores := List.replicate s.fuses.cores .reset
    powered := powered }

/-- Adds an entry of the measurement log, whose digest is a free value (R298). -/
def State.measure (s : State) (entry : Nat) : State :=
  let d := s.draw
  { d.2 with porter := { d.2.porter with log := d.2.porter.log ++ [(entry, [d.1])] } }

/-- The Porter accepts a firmware image: its key and signature are good, and its security version is not below the fused minimum
(R295). -/
def State.imageOk (s : State) (x : ImageCheck) : Bool := x.signed && decide (s.fuses.minVersion ≤ x.version)

/-- The save areas of a world that the firmware image provides (R322, log entry 17): as many as it names, of 39 pages of 64 KiB each. -/
def firstAreas (w : Bool) : List Nat :=
  (List.range (Config.saveCount w)).map (fun i => (Config.saveBase w / 65536 + 39 * i) * 65536)

/-- The firmware core starts (R295, R327): its chiplet is no longer shuttered; at its first start it sets up the save areas (R322), and
it places its supervisor image if none is placed (log entry 19). -/
def State.firmwareStart (s : State) : State :=
  let s0 := if s.porter.booted then s else (s.measure 2).measure 3
  let s1 := if s0.shuttered 0 then s0.unshut 0 else s0
  { s1.takeUp with
    mbox := { s1.mbox with state := 0, wdStart := s1.clk.h }
    porter := { s1.porter with booted := true, askedAt := s1.hclk }
    saves := if s.porter.booted then s1.saves else ⟨firstAreas false, firstAreas true⟩
    sup := if s1.sup.valid then s1.sup else ⟨Config.supImage, true, Config.supEntry, []⟩ }

/-- Copy 0 of the firmware image, and then copy 1, is tried (R295, R327): the first that the Porter accepts is started. A copy 0 that
fails is reported (R330). -/
def State.tryFlash (s : State) (copy0 copy1 : ImageCheck) : Bool × State :=
  if s.imageOk copy0 then (true, s) else (s.imageOk copy1, s.replace 8 0)

/-- POWER_UP (R34, R295): the Porter starts from its boot ROM, and starts the firmware core on the first copy of its image that
verifies. -/
def execPowerUp (copy0 copy1 : ImageCheck) (s : State) : Out :=
  .next (
    if s.powered && !s.porter.log.isEmpty then s
    else
      let r := ((s.cold true).measure 1).tryFlash copy0 copy1
      if r.1 then r.2.firmwareStart else r.2)

/-- POWER_OFF (R34): no state of any kind is retained. -/
def execPowerOff (s : State) : Out := .next (s.cold false)

/-- PACKAGE_RESET (R305): the H-die is reset, and the package with it; the Porter starts again. -/
def execPackageReset (s : State) : Out := .next (s.cold true)

/-! ### Attestation (R296, R297, R306) -/

/-- The C-die that the route of a chiplet's messages passes through (R30, R296). -/
def routeOf (i : Nat) : Option Nat :=
  if i = 3 then some 1 else if i = 4 then some 2 else if 5 ≤ i ∧ i < 11 then some 1 else if 11 ≤ i ∧ i < 17 then some 2 else none

/-- A chiplet's route is open. -/
def State.routeOpen (s : State) (i : Nat) : Bool := match routeOf i with | some c => !s.shuttered c | none => true

/-- Whether the Porter now attests chiplet i: it is shuttered and has not failed, its route is open, and every chiplet before it in
the order of R296 has been attested, has failed, or cannot be reached. -/
def State.attestNow (s : State) (i : Nat) : Bool :=
  s.powered && s.porter.booted && decide (1 ≤ i) && decide (i ≤ 16) && s.shuttered i && !s.ident.failed.contains i && s.routeOpen i &&
  (List.range i).all (fun j => j == 0 || !s.shuttered j || s.ident.failed.contains j || !s.routeOpen j)

/-- A chiplet that fails stays shuttered, with REPL set (R297, R306). -/
def State.failChiplet (s : State) (i : Nat) : State :=
  (s.idUpdate (fun x => { x with failed := x.failed ++ [i] })).replace 5 i

/-- The links that are keyed when a chiplet has been attested (R296, R306): a C-die's link to the H-die, the bridge once both C-dies
are there, and, when the C-die rejoins after a tamper event, the link of its F-die, which was erased with it; an F-die's link. -/
def State.keyChiplet (s : State) (i : Nat) : State :=
  if i = 1 ∨ i = 2 then
    let s1 := s.keyLink (2 + i)
    let s2 := if s.shuttered (3 - i) then s1 else s1.keyLink 0
    if s.shuttered (2 + i) then s2 else s2.keyLink i
  else if i = 3 ∨ i = 4 then s.keyLink (i - 2)
  else s

/-- The measurements of a chiplet (R297): its fused serial number, the stepping, and the digest of its ROM. -/
def State.measured (s : State) (i digest : Nat) : List Nat :=
  [(listGet default s.fuses.chips i).serial, s.fuses.step.toNat, digest]

/-- The outcome of an attestation (R297, R298, R306 steps 4, 5 and 7): measurements that differ from those recorded fail it. The session
is made under the identity key of the chiplet (R15), and its responses end the misses before it. -/
def State.attest (s : State) (i : Nat) (r : Attest) : State :=
  let p := s.porter
  let s0 : State := { s with porter := { p with askedAt := s.hclk, misses := p.misses.filter (fun x => x.1 != i) } }
  match r with
  | .bad => s0.failChiplet i
  | .ok d =>
    let m := s.measured i d
    let s1 : State := { s0 with porter := { s0.porter with
      keys := assocPut p.keys i (listGet default s.fuses.chips i).pub
      recorded := if (assocGet p.recorded i).isSome then p.recorded else p.recorded ++ [(i, m)]
      log := if (assocGet p.recorded i).isSome then p.log else p.log ++ [(16 + i, m)] } }
    match assocGet p.recorded i with
    | some old => if old = m then (s1.keyChiplet i).unshut i else s0.failChiplet i
    | none => (s1.keyChiplet i).unshut i

/-- ATTEST_CHIPLET (R296, R297). -/
def execAttestChiplet (i : Nat) (r : Attest) (s : State) : Out := .next (if s.attestNow i then s.attest i r else s)

/-- SPDM_TIMEOUT (R297): a response that is missing after 2^28 aclk of the H-die is asked for again; the third miss fails the
chiplet. -/
def execSpdmTimeout (i : Nat) (s : State) : Out :=
  .next (
    if s.attestNow i && decide (s.porter.askedAt + 2 ^ 28 ≤ s.hclk) then
      let n := (assocGet s.porter.misses i).getD 0 + 1
      let s1 : State := { s with porter := { s.porter with askedAt := s.hclk, misses := assocPut s.porter.misses i n } }
      if 3 ≤ n then s1.failChiplet i else s1
    else s)

/-- DECLARE_SERVICE (R310): in start-up, once every chiplet that has not failed has been attested. -/
def execDeclareService (s : State) : Out :=
  .next (
    if s.firmwareRuns && s.mbox.mode == 1 && (List.range 17).all (fun i =>
        !s.shuttered i || s.ident.failed.contains i || !s.routeOpen i) then
      { s with mbox := { s.mbox with mode := 0 } }
    else s)

/-! ### Worlds (R290 to R294, R299) -/

/-- A granule that the world map covers (R290). -/
def granuleOk (g : Nat) : Bool := mapped (g * 0x1000000)

/-- Sets or clears a bit. -/
def setBitTo {w : Nat} (x : BitVec w) (i : Nat) (b : Bool) : BitVec w :=
  if b then x ||| BitVec.ofNat w (2 ^ i) else x &&& ~~~(BitVec.ofNat w (2 ^ i))

/-- The Porter fixes the world of a hardware block (R292); a drive of the secure world is refused (R297). -/
def State.assignBlock (s : State) (b : WorldBlock) (secure : Bool) : State :=
  match b with
  | .queue q => if q < 32 then (s.putQueue q { s.queue q with world := secure }).measure 3 else s
  | .context c => if c < 2 then ({ s with worlds := { s.worlds with ctx := setBitTo s.worlds.ctx c secure } } : State).measure 3 else s
  | .bells g => if g < 16 then ({ s with worlds := { s.worlds with bell := setBitTo s.worlds.bell g secure } } : State).measure 3 else s
  | .drive d =>
    if d < 8 ∧ !secure then ({ s with worlds := { s.worlds with drive := setBitTo s.worlds.drive d false } } : State).measure 3 else s
  | .port p => if p < 8 then ({ s with worlds := { s.worlds with port := setBitTo s.worlds.port p secure } } : State).measure 3 else s

/-- Step 1 of a change of a granule's world (R294): it closes. -/
def State.closeGranule (s : State) (g : Nat) (secure : Bool) : State :=
  if granuleOk g && (s.worlds.secure.contains g != secure) && !s.worlds.closed.contains g then
    { s with worlds := { s.worlds with closed := s.worlds.closed ++ [g] } }
  else s

/-- TENANT_REQUEST (R299): a request is served over a secured session only; over any other path it is refused. A session is made under
the identity key of the H-die (R298). -/
def execTenantRequest (viaSession : Bool) (r : TenantReq) (s : State) : Out :=
  .next (
    if !s.powered || !s.porter.booted then s
    else match r with
      | .openSession => { s with porter := { s.porter with
          session := true, keys := assocPut s.porter.keys 0 (listGet default s.fuses.chips 0).pub } }
      | .readLog => if viaSession && s.porter.session then { s with porter := { s.porter with sent := s.porter.log } } else s
      | .assignGranule g secure => if viaSession && s.porter.session then s.closeGranule g secure else s
      | .assignBlock b secure => if viaSession && s.porter.session then s.assignBlock b secure else s
      | .writeRoot q v =>
        if viaSession && s.porter.session && s.firmwareRuns && decide (q < 32) && (s.queue q).world then
          s.putSpace q ((s.space q).rootWrite .whole v)
        else s
      | .writeGen q =>
        if viaSession && s.porter.session && s.firmwareRuns && decide (q < 32) && (s.queue q).world then
          s.putSpace q (s.space q).raise
        else s)

/-- WORLD_CHANGE (R294 steps 2 to 4): a closed granule is scrubbed, its world bit flips, and it opens. -/
def execWorldChange (g : Nat) (secure : Bool) (s : State) : Out :=
  .next (
    if s.powered && s.worlds.closed.contains g && (s.worlds.secure.contains g != secure) then
      let lo := g * 0x1000000
      let hi := lo + 0x1000000
      ({ s with
        mem := sparseClear s.mem lo hi
        poison := s.poison.filter (fun p => decide (8 * p < lo) || decide (hi ≤ 8 * p))
        worlds := { s.worlds with
          closed := s.worlds.closed.filter (fun x => x != g)
          secure := if secure then s.worlds.secure ++ [g] else s.worlds.secure.filter (fun x => x != g) } } : State).measure 3
    else s)

/-! ### Control crews (R17, R280) -/

/-- CONTROL_CREW_START (R17, R278, R280, R313): the firmware sets the root of the crew's address space, the overlay table and the
handler's entry, places overlay 0, and starts the crew at its entry. -/
def execControlCrewStart (o : CtlStart) (s : State) : Out :=
  .next (
    let d := o.die
    if s.firmwareRuns && decide (d < 2) && !s.shuttered (1 + d) && !(s.ctl d).started then
      let s1 := s.putSpace (32 + d) ((s.space (32 + d)).rootWrite .whole o.root)
      let s2 := s1.putCtl d { s1.ctl d with
        table := o.ovtab, entries := o.entries, entry := o.entry, tvec := o.tvec, started := true }
      let slot : OvSlot := ⟨some (s2.ovTag (.ctl d) 0), true, sparseWrite 0 [] 0 (o.image.take 0x10000), none⟩
      (s2.putCtl d { s2.ctl d with slots := [slot, .empty, .empty, .empty] }).startCtl d
    else s)

end Sys2Proof.Machine
end

