-- ==== Sys2Proof/Machine/Save.lean ====
section
/-!
DEFINITION. Pre-emption and resumption (R89, R214, R322, R323): the save area, the save of a block or a cluster, and the kill of a
block (R324).
-/

namespace Sys2Proof.Machine

/-! ### The save area (R322) -/

/-- A piece of the save area: its offset and its bytes. -/
abbrev Piece := Nat × List Byte

/-- A 64-bit word at an offset. -/
def word8 (off v : Nat) : Piece := (off, bytesOf 8 v)

/-- A barrier entry: 64 bytes. -/
def Barrier.piece (off : Nat) (b : Barrier) : Piece :=
  (off, bytesOf 8 (b.phase.toNat * 2 ^ 48 + b.members % 1024 * 2 ^ 38 + b.arrivals % 1024 * 2 ^ 28 + b.deferred % 1024 * 2 ^ 18 +
      b.op.code.toNat * 2 ^ 15) ++
    bytesOf 8 (b.result.toNat * 2 ^ 32 + b.acc.toNat) ++ bytesOf 32 (listMask b.arrived) ++ bytesOf 16 0)

/-- Reads a barrier entry; rd n off reads n bytes of the area. -/
def Barrier.unpiece (rd : Nat → Nat → Nat) (off : Nat) (b : Barrier) : Barrier :=
  let w := rd 8 off
  let v := rd 8 (off + 8)
  { members := bitsN w 47 38
    arrivals := bitsN w 37 28
    arrived := maskList 256 (rd 32 (off + 16))
    phase := BitVec.ofNat 16 (bitsN w 63 48)
    acc := BitVec.ofNat 32 v
    op := (BarOp.ofCode (BitVec.ofNat 3 (bitsN w 17 15))).getD b.op
    result := BitVec.ofNat 32 (bitsN v 63 32)
    deferred := bitsN w 27 18 }

/-- The state code of a run. -/
def RunState.code : RunState → Nat | .executing => 1 | .queued => 2 | .ended => 3

/-- The words of a mask stack entry. -/
def MaskEntry.word (m : MaskEntry) : Nat :=
  m.join.toNat + m.target.toNat * 2 ^ 16 + m.restore.toNat * 2 ^ 32 + m.pending.toNat * 2 ^ 36 + b2n m.ran * 2 ^ 40

/-- Reads one. -/
def MaskEntry.ofWord (w : Nat) : MaskEntry :=
  ⟨BitVec.ofNat 16 w, BitVec.ofNat 4 (bitsN w 35 32), BitVec.ofNat 16 (bitsN w 31 16), BitVec.ofNat 4 (bitsN w 39 36), bitN w 40⟩

/-- The slice record. -/
def Slice.pieces (off : Nat) (x : Slice) : List Piece :=
  word8 off (x.pc.toNat + x.cur.toNat * 2 ^ 24 + x.stack.length * 2 ^ 28 + x.gang * 2 ^ 32 + b2n (!x.live) * 2 ^ 40 +
    b2n x.atRegang * 2 ^ 41) ::
  (List.range 8).map (fun e => word8 (off + 8 + 8 * e) (match x.stack.reverse[e]? with | some m => m.word | none => 0))

/-- Restores a slice. -/
def Slice.restore (rd : Nat → Nat → Nat) (off : Nat) (x : Slice) : Slice :=
  let w := rd 8 off
  { x with
    pc := BitVec.ofNat 24 w
    cur := BitVec.ofNat 4 (bitsN w 27 24)
    stack := ((List.range (bitsN w 31 28)).map (fun e => MaskEntry.ofWord (rd 8 (off + 8 + 8 * e)))).reverse
    gang := bitsN w 39 32
    live := !bitN w 40
    atRegang := bitN w 41 }

/-- The run record. -/
def Run.pieces (off : Nat) (r : Run) : List Piece :=
  let ops := (List.range 4).foldl (fun a k =>
    match listGet none r.ops k with | some o => a + o.code.toNat * 2 ^ (4 * k) + 2 ^ (16 + k) | none => a) 0
  (List.range 32).map (fun i => word8 (off + 8 * i) (sparseGet 0 r.consts i).toNat) ++
  [word8 (off + 0x100) (r.state.code + r.mask.toNat * 2 ^ 8 + r.groups * 2 ^ 16 + r.start.toNat * 2 ^ 24),
   word8 (off + 0x108) ops,
   (off + 0x110, (List.range 4).flatMap (fun k => bytesOf 4 (listGet 0 r.x k).toNat))] ++
  (List.range 8).map (fun j => (off + 0x120 + 16 * j,
    (List.range 4).flatMap (fun k => bytesOf 4 ((listGet none (r.slice j).parts k).getD 0).toNat))) ++
  (List.range 8).flatMap (fun j => (r.slice j).pieces (off + 0x200 + 0x80 * j))

/-- Restores a run. -/
def Run.restore (rd : Nat → Nat → Nat) (off : Nat) (r : Run) : Run :=
  let h := rd 8 (off + 0x100)
  let o := rd 8 (off + 0x108)
  let part (j k : Nat) (p : Option W32) : Option W32 := p.map (fun _ => BitVec.ofNat 32 (rd 4 (off + 0x120 + 16 * j + 4 * k)))
  { r with
    consts := (List.range 32).foldl (fun m i => sparseSet 0 m i (BitVec.ofNat 64 (rd 8 (off + 8 * i)))) []
    mask := BitVec.ofNat 8 (bitsN h 15 8)
    groups := bitsN h 22 16
    start := BitVec.ofNat 24 (bitsN h 47 24)
    state := if h % 4 = 1 then .executing else if h % 4 = 2 then .queued else .ended
    x := (List.range 4).map (fun k => BitVec.ofNat 32 (rd 4 (off + 0x110 + 4 * k)))
    ops := (List.range 4).map (fun k =>
      if bitN o (16 + k) then some (XOp.ofCode (BitVec.ofNat 3 (bitsN o (4 * k + 2) (4 * k)))) else none)
    slices := (List.range 8).map (fun j =>
      let x := r.slice j
      { x.restore rd (off + 0x200 + 0x80 * j) with
        parts := (List.range 4).map (fun k => part j k (listGet none x.parts k)) }) }

/-- Run slot n of a crew record: 0 the oldest, 1 the younger, 2 the handler's. -/
def Crew.runAt (k : Crew) (n : Nat) : Option Run := if n = 2 then k.hrun else k.runs[n]?

/-- The crew record; ctx is the saved context that the crew holds, from 1, or 0. -/
def Crew.pieces (k : Crew) (off ctx : Nat) : List Piece :=
  (List.range 96).map (fun i => word8 (off + 8 * i) (sparseGet 0 k.s i).toNat) ++
  (List.range 16).map (fun i => word8 (off + 0x300 + 8 * i) (sparseGet 0 k.bank i).toNat) ++
  [word8 (off + 0x380) (k.q.toNat + ctx * 2 ^ 22 + b2n k.h * 2 ^ 24 + k.groups * 2 ^ 25 + k.flags.toNat * 2 ^ 32),
   word8 (off + 0x388) (k.gangw.toNat + k.grant.toNat * 2 ^ 32),
   word8 (off + 0x390) (k.pc.toNat + b2n (k.blocked || k.blk) * 2 ^ 25),
   word8 (off + 0x398) k.tr.tcause.toNat, word8 (off + 0x3A0) k.tr.tpc.toNat, word8 (off + 0x3A8) k.tr.fmask.toNat,
   word8 (off + 0x3B0) k.tr.faddr.toNat, word8 (off + 0x3B8) k.tr.finfo.toNat, word8 (off + 0x3C0) k.tr.trep.toNat,
   word8 (off + 0x3C8) k.tr.tspc.toNat] ++
  (List.range 32).map (fun l => (off + 0x400 + 4 * l, bytesOf 4 (listMask ((List.range 16).filter (fun i => k.pread l i))))) ++
  (List.range 3).flatMap (fun n =>
    match k.runAt n with | some r => r.pieces (off + 0x800 + 0x600 * n) | none => [word8 (off + 0x900 + 0x600 * n) 0])

/-- The vector registers of a crew. -/
def Crew.vpieces (k : Crew) (off : Nat) : List Piece :=
  (List.range k.groups).map (fun i =>
    (off + 0x400 * i, (List.range 256).flatMap (fun j => bytesOf 4 (sparseGet 0 k.v (256 * i + j)).toNat)))

/-- Restores a crew record and its vector registers. -/
def Crew.restore (rd : Nat → Nat → Nat) (off voff : Nat) (k : Crew) : Crew :=
  let w := rd 8 (off + 0x380)
  let g := rd 8 (off + 0x388)
  let t (i : Nat) : Nat := rd 8 (off + 0x398 + 8 * i)
  { k with
    s := (List.range 96).foldl (fun m i => sparseSet 0 m i (BitVec.ofNat 64 (rd 8 (off + 8 * i)))) []
    bank := (List.range 16).foldl (fun m i => sparseSet 0 m i (BitVec.ofNat 64 (rd 8 (off + 0x300 + 8 * i)))) []
    q := BitVec.ofNat 8 w
    h := bitN w 24
    groups := bitsN w 31 25
    flags := BitVec.ofNat _ (bitsN w 47 32)
    gangw := BitVec.ofNat 19 g
    grant := BitVec.ofNat 32 (bitsN g 63 32)
    pc := BitVec.ofNat 24 (rd 8 (off + 0x390))
    tr := ⟨BitVec.ofNat 64 (t 0), BitVec.ofNat 24 (t 1), BitVec.ofNat 32 (t 2), BitVec.ofNat 64 (t 3), BitVec.ofNat 64 (t 4),
      BitVec.ofNat 32 (t 5), BitVec.ofNat 24 (t 6)⟩
    p := (List.range 16).foldl (fun m i => sparseSet 0 m i
      (BitVec.ofNat 32 (listMask ((List.range 32).filter (fun l => bitN (rd 4 (off + 0x400 + 4 * l)) i))))) []
    v := (List.range (256 * bitsN w 31 25)).foldl (fun m i => sparseSet 0 m i (BitVec.ofNat 32 (rd 4 (voff + 4 * i)))) []
    runs := (List.range k.runs.length).map (fun n => (listGet default k.runs n).restore rd (off + 0x800 + 0x600 * n))
    hrun := k.hrun.map (fun r => r.restore rd (off + 0x1400)) }

/-- The mode code of a saved context. -/
def CtxMode.code : CtxMode → Nat | .none => 0 | .f => 1 | .i => 2 | .d => 3

/-- A saved context. rowmax is kept relative to minus infinity in the model's map. -/
def Ctx.pieces (off : Nat) (c : Ctx) : List Piece :=
  (List.range 128).map (fun i => (off + 512 * i, (List.range 128).flatMap (fun j => bytesOf 4 (sparseGet 0 c.c (128 * i + j)).toNat))) ++
  [(off + 0x10000, (List.range 128).flatMap (fun i => bytesOf 4 (sparseGet f32NegInf c.rowmax i).toNat)),
   (off + 0x10200, (List.range 128).flatMap (fun i => bytesOf 4 (sparseGet 0 c.rowsum i).toNat)),
   word8 (off + 0x10400) (c.mode.code + c.k * 2 ^ 8)]

/-- Restores a context. -/
def Ctx.restore (rd : Nat → Nat → Nat) (off : Nat) (c : Ctx) : Ctx :=
  let w := rd 8 (off + 0x10400)
  { c with
    c := (List.range 16384).foldl (fun m i => sparseSet 0 m i (BitVec.ofNat 32 (rd 4 (off + 4 * i)))) []
    rowmax := (List.range 128).foldl (fun m i => sparseSet f32NegInf m i (BitVec.ofNat 32 (rd 4 (off + 0x10000 + 4 * i)))) []
    rowsum := (List.range 128).foldl (fun m i => sparseSet 0 m i (BitVec.ofNat 32 (rd 4 (off + 0x10200 + 4 * i)))) []
    mode := if w % 4 = 1 then .f else if w % 4 = 2 then .i else if w % 4 = 3 then .d else .none
    k := bitsN w 13 8 }

/-- The operand words of a MOS record: s[rd], s[ra], s[rb], s[rb + 1], s[rb + 2]; a word that the instruction does not capture is
0. Copies capture all five, other tile instructions s[ra] and s[rb]. -/
def MosEntry.words (e : MosEntry) : List W64 :=
  if e.vals.length = 5 then e.vals else [0, listGet 0 e.vals 0, listGet 0 e.vals 1, 0, 0]

/-- The MOS record at an index; map is its done map. -/
def MosEntry.pieces (e : MosEntry) (off map : Nat) : List Piece :=
  word8 off (e.ipc.toNat + e.crew.index * 2 ^ 24 + e.step * 2 ^ 32) ::
  (List.range 5).map (fun i => word8 (off + 8 + 8 * i) (listGet 0 e.words i).toNat) ++
  [word8 (off + 48) e.grant.toNat, word8 (off + 56) map, (off + 64, (e.tsr ++ List.replicate 64 0).take 64)]

/-- Restores a tile instruction from its record. -/
def MosEntry.restore (rd : Nat → Nat → Nat) (off : Nat) (e : MosEntry) : MosEntry :=
  let w := rd 8 off
  let v (i : Nat) : W64 := BitVec.ofNat 64 (rd 8 (off + 8 + 8 * i))
  { e with
    ipc := BitVec.ofNat 24 w
    step := bitsN w 63 32
    vals := if e.vals.length = 5 then (List.range 5).map v else if e.vals.length = 2 then [v 1, v 2] else e.vals
    grant := BitVec.ofNat 32 (rd 8 (off + 48))
    tsr := (List.range e.tsr.length).map (fun i => if i < 64 then BitVec.ofNat 8 (rd 1 (off + 64 + i)) else listGet 0 e.tsr i) }

/-- The tile instruction is a TRED, which has a done map. -/
def MosEntry.isTred (e : MosEntry) : Bool := match e.instr with | .tred _ => true | _ => false

/-- The code of a chunk's state. -/
def Chunk.code : Chunk → Nat | .idle => 0 | .held => 1 | .engaged _ => 2 | .failed _ _ _ => 3

/-- The bytes of the chunk states. -/
def chunkBytes (m : Sparse Chunk) : List Byte :=
  (List.range 512).map (fun i => BitVec.ofNat 8 ((List.range 4).foldl (fun a j => a + (sparseGet .idle m (4 * i + j)).code * 4 ^ j) 0))

/-- Restores the chunk states; an engaged chunk stays engaged by its copy, and a failed one names the copy that failed. -/
def restoreChunks (rd : Nat → Nat → Nat) (m : Sparse Chunk) : Sparse Chunk :=
  (List.range 2048).foldl (fun a i =>
    let st := rd 1 (0x65000 + i / 4) / 4 ^ (i % 4) % 4
    let old := sparseGet .idle m i
    sparseSet .idle a i (if st = 0 then .idle else if st = 1 then .held else if st = old.code then old
      else if st = 3 then .failed 0 0 0 else old)) []

/-- The done maps in use: the TREDs of a saved block that have started, in the order of its records. At most four of a core have, and
one that has not holds no map yet (R277). -/
def Saved.treds (v : Saved) : List Nat :=
  (List.range v.mos.length).filter (fun i => (v.mos[i]?).elim false (fun e => e.isTred && e.started))

/-- The done map of a record, or 0xF. -/
def Saved.mapOf (v : Saved) (i : Nat) : Nat := ((List.range v.treds.length).find? (fun d => listGet 99 v.treds d == i)).getD 0xF

/-- The bytes of a done map. -/
def doneBytes (m : Sparse Bool) : List Byte :=
  (List.range 32768).map (fun i => BitVec.ofNat 8 (listMask ((List.range 8).filter (fun j => sparseGet false m (8 * i + j)))))

/-- Reads a done map. -/
def restoreDone (rd : Nat → Nat → Nat) (off : Nat) : Sparse Bool :=
  (List.range 262144).foldl (fun m i => sparseSet false m i (bitN (rd 1 (off + i / 8)) (i % 8))) []

/-- What is written at the save of a block (R322 step 4). -/
def Saved.pieces (v : Saved) (l : Launch) (bars : List Barrier) (ctx : Nat → Ctx) : List Piece :=
  let b := v.block
  let maps := (2 : Nat) ^ v.treds.length - 1
  let crewCtx (j : Nat) : Nat :=
    ((List.range v.ctxs.length).find? (fun t => (listGet (9, .ctl 0) v.ctxs t).2 == .blk v.bid j &&
      (v.crews.any (fun p => p.1 == j && p.2.ctx == some (listGet (9, .ctl 0) v.ctxs t).1)))).elim 0 (· + 1)
  [word8 0 (0xC7C05356 + l.lr.lid.toNat * 2 ^ 32),
   word8 8 (b.index / l.lr.csize + b.index * 2 ^ 32),
   word8 16 (b2n l.lr.world + l.asid * 2 ^ 2 + maps % 16 * 2 ^ 28 + v.mos.length * 2 ^ 32 + v.ctxs.length * 2 ^ 40 +
     listMask (v.crews.map (·.1)) * 2 ^ 48)] ++
  (List.range b.bars.length).map (fun i => (listGet (.start 0) b.bars i).piece (0x400 + 64 * i)) ++
  (if b.index % l.lr.csize = 0 then (List.range bars.length).map (fun i => (listGet (.start 0) bars i).piece (0x800 + 64 * i)) else []) ++
  (List.range b.combine.length).map (fun i =>
    let c := listGet ⟨[], .none, 0⟩ b.combine i
    word8 (0xA00 + 16 * i) (listMask c.arrived + c.op.code.toNat * 2 ^ 16)) ++
  v.crews.flatMap (fun p => p.2.pieces (0x1000 + 0x2000 * p.1) (crewCtx p.1) ++ p.2.vpieces (0x170000 + 0x10000 * p.1)) ++
  (List.range v.ctxs.length).flatMap (fun t => (ctx (listGet (9, .ctl 0) v.ctxs t).1).pieces (0x21000 + 0x11000 * t)) ++
  (List.range v.mos.length).flatMap (fun i =>
    match v.mos[i]? with | some e => e.pieces (0x43000 + 128 * i) (v.mapOf i) | none => []) ++
  (List.range v.treds.length).map (fun d => (0x45000 + 0x8000 * d,
    match v.mos[listGet 99 v.treds d]? with | some e => doneBytes e.done | none => [])) ++
  [(0x65000, chunkBytes b.chunks)] ++
  (List.range l.lr.scrch).map (fun i => (0x70000 + 512 * i, sparseRead 0 b.spad (512 * i) 512))

/-- A save area lies in backed granules of a world (R291). -/
def State.areaReach (s : State) (world : Bool) (a : Nat) : Bool := [a, a + 0x26FFFF].all (fun x => s.backed x && s.worldOk world x)

/-- The way between a core and a save area is not open, or a page of the area migrates (R252, R301). -/
def State.areaStalls (s : State) (core a : Nat) : Bool := s.stalledPa (1 + s.dieOfCore core) a 0x270000

/-- Writes pieces into an area of a world; one that has left the world takes none of them (R291, R294). -/
def State.writePieces (s : State) (world : Bool) (area : Nat) (ps : List Piece) : State :=
  if s.areaReach world area then ps.foldl (fun s p => s.memWrite (area + p.1) p.2) s else s

/-! ### The save (R322) -/

/-- A resident block waits for BLOCK_RESUME (R323). -/
def State.resuming (s : State) (b : Nat) : Bool := s.launches.any (fun l => l.saved.any (fun v => v.bid == b)) && (s.block? b).isSome

/-- The free save areas of a world. -/
def SavePool.free (p : SavePool) (world : Bool) : List Nat := if world then p.free1 else p.free0
def SavePool.put (p : SavePool) (world : Bool) (l : List Nat) : SavePool := if world then { p with free1 := l } else { p with free0 := l }

/-- An area that a save may take: aligned to 64 KiB, and whole in backed HBM4E granules of the world (R322). -/
def State.areaLegal (s : State) (world : Bool) (a : Nat) : Bool :=
  a % 65536 == 0 && [a, a + 0x26FFFF].all (fun x => tierOf x == 1) && s.areaReach world a

/-- The areas of a world that are free. -/
def State.freeAreas (s : State) (world : Bool) : List Nat := (s.saves.free world).filter (s.areaLegal world)

/-- Steps 1 and 2 of a save for one block: it takes an area, its streams stop, a stream that waits is recorded, and members that
wait leave the latch. -/
def State.stopForSave (s : State) (world : Bool) (b : Nat) : State :=
  let a := (s.freeAreas world).headD 0
  let s1 : State := { s with saves := s.saves.put world ((s.saves.free world).filter (fun x => x != a)) }
  let s2 := s1.modBlock b (fun x => { x with saving := true, area := a, shrink := false })
  let s3 : State := { s2 with
    cores := s2.cores.map (fun k =>
      { k with
        shrink := match k.shrink with | some h => (if h.block = b then none else some h) | none => none
        mos := k.mos.map (fun e => if e.crew.blockId = b ∧ e.joint.isNone then { e with arrived := none } else e) }) }
  (s3.crewsOf b).foldl (fun s j =>
    match s.crew? (.blk b j) with
    | some k => (s.stopStreams (.blk b j)).modCrew (.blk b j) (fun x => { x with wait := k.blocked, word := none })
    | none => s) s3

/-- Starts the save of a block, or of its whole cluster, when areas are free for all of it; else the save waits (R322 step 1). -/
def State.startSave (s : State) (b : Nat) : State :=
  match (s.block? b).bind (fun k => s.launch? k.unit) with
  | none => s
  | some l =>
    let g := s.saveGroup b
    let ok := s.servable l && g.all (fun x => !s.resuming x && (match s.block? x with | some k => !k.saving | none => false)) &&
      decide (g.length ≤ (s.freeAreas l.lr.world).length)
    if ok then g.foldl (fun s x => s.stopForSave l.lr.world x) s else s

/-- A crew may be saved: no destination is outstanding, no trap is being taken, every MEMERR of its streams has been taken, those of the
code that a handler has interrupted too, and none of its tile instructions is inside a rendezvous or inside a step (R48, R225, R234,
R256). -/
def State.crewSaveable (s : State) (c : CrewRef) (k : Crew) : Bool :=
  k.out.isEmpty && k.trapping.isNone && !k.anyErr &&
  (s.mosOf c).all (fun e => e.crew != c || (e.joint.isNone && e.part.isNone))

/-- A tile instruction on its new core: it continues at its saved step (R234, R272). What a WLOAD or an OVLOAD had filled lies in
stores that no save keeps (R214, R222): a WLOAD waits for the readers of its regions again and brings the bytes before its step with that
step, and an OVLOAD takes its slot anew (R278, log entry 31). -/
def MosEntry.resumed (e : MosEntry) : MosEntry :=
  match e.instr with
  | .wloadImg _ => { e with started := false, tsr := if e.step = 0 then [] else e.tsr }
  | .wloadTile _ => { e with started := false }
  | .ovload _ => { e with step := 0, started := false, fin := false }
  | _ => e

/-- Steps 4 to 6 of the save of one block. -/
def State.saveBlock (s : State) (l : Launch) (b : Nat) : State :=
  match s.block? b with
  | none => s
  | some k =>
    let es0 := (s.core k.core).mos.filter (fun e => e.crew.blockId == b)
    let s1 := es0.foldl (fun s e => s.unpinTile e) s
    let es := es0.map (fun e => { e with pins := [], arrived := none })
    let q := s1.core k.core
    let held := (List.range q.ctxs.length).filterMap (fun i =>
      match (listGet (.clear none) q.ctxs i).holder with
      | some h => if h.blockId = b then some (i, h) else none
      | none => none)
    let crews : List (Nat × Crew) :=
      s1.crews.filterMap (fun p => match p.1 with | .blk b' j => (if b' = b then some (j, p.2) else none) | .ctl _ => none)
    let v : Saved := ⟨b, k.index, k.area, crews, k, held, es⟩
    let bars := match s1.cluster? k.cluster with | some c => c.bars | none => []
    let s2 := s1.writePieces l.lr.world k.area (v.pieces l bars (fun i => listGet (.clear none) q.ctxs i))
    let uids := es.map (·.uid)
    let q2 : Core := { q with
      mos := q.mos.filter (fun e => e.crew.blockId != b)
      filling := q.filling.filter (fun f => !uids.contains f.2.2)
      ctxs := q.ctxs.map (fun c => match c.holder with
        | some h => if h.blockId = b then { c with holder := none } else c
        | none => c) }
    let drop (o : OvSlot) : OvSlot := match o.loading with | some u => (if uids.contains u then .empty else o) | none => o
    let s3 := s2.putCore k.core { q2 with slots := q2.slots.map drop }
    let s4 : State := { s3 with
      crews := s3.crews.filter (fun p => match p.1 with | .blk b' _ => b' != b | .ctl _ => true)
      blocks := assocDel s3.blocks b }
    s4.modLaunch l.uid (fun x =>
      { x with saved := x.saved ++ [v], blocks := sparseSet .waiting x.blocks k.index .saved })

/-- The shrink request of a core whose grace time has passed with no detach (R107). -/
def State.graceOver (s : State) (k : Nat) : Option Shrink :=
  match (s.core k).shrink with
  | none => none
  | some h =>
    match (s.block? h.block).bind (fun b => s.launch? b.unit) with
    | none => none
    | some l =>
      let g := if l.lr.sgrace = 0 then 64 else l.lr.sgrace
      if h.since + g * 1024 ≤ s.cclk (s.dieOfCore k) then some h else none

/-- A block is to be pre-empted: it, or a member of its cluster, is the target of a request whose grace time has passed (R107). A core
that is being retired starts its saves itself (R330). -/
def State.preemptDue (s : State) (b : Nat) : Bool :=
  (s.saveGroup b).any (fun x =>
    match s.block? x with
    | some k => (match s.graceOver k.core with | some h => h.block == x | none => false)
    | none => false)

/-- PREEMPT (R322): the save of a block or cluster starts when it is due; a save that has started completes once every stream has
stopped and its area can be reached. -/
def execPreempt (b : Nat) (s : State) : Out :=
  .next (
    match s.block? b with
    | none => s
    | some k =>
      if !k.saving then (if s.preemptDue b then s.startSave b else s)
      else if s.resuming b then s
      else match s.launch? k.unit with
        | none => s
        | some l =>
          let g := s.saveGroup b
          if g.any (fun x => match s.block? x with | some y => s.areaStalls y.core y.area | none => false) then s
          else if g.all (fun x => (s.crewsOf x).all (fun j =>
              match s.crew? (.blk x j) with | some c => s.crewSaveable (.blk x j) c | none => true)) then
            g.foldl (fun s x => s.saveBlock l x) s
          else s)

/-- SHRINK_GRACE_EXPIRY (R107): the target of a request whose grace time has passed is pre-empted, with its whole cluster. -/
def execShrinkGraceExpiry (k : Nat) (s : State) : Out :=
  .next (match s.graceOver k with | none => s | some h => s.startSave h.block)

/-! ### Killing a block (R324) -/

/-- Kills a block: an idempotent one is placed again from the start, its whole cluster with it (log entry 54; the completion bits that
are set stay set, log entry 108); else its launch completes with error. -/
def State.killBlock (s : State) (b cause : Nat) : State :=
  match s.block? b with
  | none => s
  | some k =>
    match s.launch? k.unit with
    | none => s
    | some l =>
      if !s.servable l then s
      else if l.lr.idem && l.lr.nlb == 0 then
        let first := k.index / l.lr.csize * l.lr.csize
        let members := (List.range l.lr.csize).map (fun r => first + r)
        let ended := (members.filter (fun i => sparseGet .waiting l.blocks i == .ended)).length
        let savedOnes := l.saved.filter (fun v => members.contains v.index)
        let saving := (s.saveGroup b).filterMap (fun x =>
          match s.block? x with | some y => (if y.saving && !s.resuming x then some y.area else none) | none => none)
        let areas := savedOnes.map (·.area) ++ saving
        let s1 : State := { s with saves := s.saves.put l.lr.world (s.saves.free l.lr.world ++ areas) }
        let s2 := s1.modLaunch l.uid (fun x =>
          { x with
            saved := x.saved.filter (fun v => !members.contains v.index)
            chosen := x.chosen.filter (fun c => !members.contains c.1)
            blocks := members.foldl (fun m i => sparseSet .waiting m i .waiting) x.blocks })
        let s3 := s2.modUnit l.uid (fun u => { u with out := u.out + ended })
        let s4 := (s.saveGroup b).foldl State.clearBlock s3
        { s4 with clusters := assocDel s4.clusters k.cluster }
      else s.failLaunch cause l.uid

/-! ### Resumption (R323) -/

/-- Reads n bytes of a save area. -/
def State.areaRead (s : State) (area n off : Nat) : Nat := ofBytes (sparseRead unlistedByte s.mem (area + off) n)

/-- The area may be read for the block's world, its header matches the block, and no granule of it is poisoned. -/
def State.areaOk (s : State) (l : Launch) (v : Saved) : Bool :=
  let rd := s.areaRead v.area 8
  s.areaReach l.lr.world v.area && !s.poison.any (fun g => decide (v.area ≤ 8 * g) && decide (8 * g < v.area + 0x270000)) &&
  rd 0 % 2 ^ 32 == 0xC7C05356 && rd 0 / 2 ^ 32 == l.lr.lid.toNat && bitsN (rd 16) 7 2 == l.asid && bitN (rd 16) 0 == l.lr.world

/-- Restores a block on its new core from its area. The combining state of a launch barrier whose phase has completed since the save
stays clear (R86, R89). Its saved tile instructions join the new core's queue though it may then hold more than 64 (log entry 80). -/
def State.restoreBlock (s : State) (l : Launch) (v : Saved) (core : Nat) : State :=
  let rd := s.areaRead v.area
  let b := v.bid
  let s1 := s.modBlock b (fun k =>
    { k with
      bars := (List.range k.bars.length).map (fun i => (listGet (.start 0) k.bars i).unpiece rd (0x400 + 64 * i))
      combine := (List.range k.combine.length).map (fun i =>
        let w := rd 8 (0xA00 + 16 * i)
        let c := listGet ⟨[], .none, 0⟩ k.combine i
        if c.arrived.isEmpty then c
        else { c with arrived := maskList 16 (w % 2 ^ 16), op := (BarOp.ofCode (BitVec.ofNat 3 (bitsN w 18 16))).getD c.op })
      chunks := restoreChunks rd k.chunks
      spad := sparseWrite 0 [] 0 ((List.range (512 * l.lr.scrch)).map (fun i => BitVec.ofNat 8 (rd 1 (0x70000 + i))))
      saving := false })
  let s2 := if v.index % l.lr.csize = 0 then
      s1.modCluster v.block.cluster (fun c => { c with
        bars := (List.range c.bars.length).map (fun i => (listGet (.start 0) c.bars i).unpiece rd (0x800 + 64 * i)) })
    else s1
  let s3 := v.crews.foldl (fun s p =>
    s.modCrew (.blk b p.1) (fun k => k.restore rd (0x1000 + 0x2000 * p.1) (0x170000 + 0x10000 * p.1))) s2
  let q := s3.core core
  let ctxOf (i : Nat) (c : Ctx) : Ctx :=
    match (List.range v.ctxs.length).find? (fun t => (listGet (9, .ctl 0) v.ctxs t).1 == i) with
    | some t => c.restore rd (0x21000 + 0x11000 * t)
    | none => c
  let mos := (List.range v.mos.length).filterMap (fun i => (v.mos[i]?).map (fun e =>
    let e1 := (e.restore rd (0x43000 + 128 * i)).resumed
    { e1 with
      order := 2 * (s3.nextUid + (v.mos.filter (fun x => decide (x.order < e.order))).length)
      done := if e.isTred && e.started then restoreDone rd (0x45000 + 0x8000 * v.mapOf i) else e.done }))
  let s4 := s3.putCore core { q with
    ctxs := (List.range q.ctxs.length).map (fun i => ctxOf i (listGet (.clear none) q.ctxs i))
    mos := q.mos ++ mos }
  let s5 : State := { s4 with
    nextUid := s4.nextUid + v.mos.length
    saves := s4.saves.put l.lr.world (s4.saves.free l.lr.world ++ [v.area]) }
  s5.modLaunch l.uid (fun x => { x with saved := x.saved.filter (fun w => w.bid != b) })

/-- BLOCK_RESUME (R323): a saved block that has been placed is restored, with the members of its cluster that were saved with it, all
in one step, so that no crew of the cluster issues before every field is back, once its area can be reached; a bad area kills its block with
SAVEERR. -/
def execBlockResume (b : Nat) (s : State) : Out :=
  .next (
    match s.block? b with
    | none => s
    | some k =>
      match s.launch? k.unit with
      | none => s
      | some l =>
        let vs := l.saved.filter (fun v => v.block.cluster == k.cluster)
        if !vs.any (fun v => v.bid == b) ||
            vs.any (fun v => match s.block? v.bid with | some x => s.areaStalls x.core v.area | none => true) then s
        else match vs.find? (fun v => !s.areaOk l v) with
          | some v => s.killBlock v.bid cSAVEERR
          | none => vs.foldl (fun s v => match s.block? v.bid with | some x => s.restoreBlock l v x.core | none => s) s)

end Sys2Proof.Machine
end

