-- ==== Sys2Proof/Machine/Errors.lean ====
section
/-!
DEFINITION. Errors in on-chip state, degradation, health and die resets (R304 to R306, R324, R329, R330).
-/

namespace Sys2Proof.Machine

/-! ### Soft errors (R324) -/

/-- SOFT_ERROR_CORRECTED (R324): repaired in place, counted and logged (log entry 37). -/
def execSoftErrorCorrected (i : Nat) (s : State) : Out :=
  .next (({ s with mbox := { s.mbox with corrected := s.mbox.corrected + 1 } } : State).log 0 i 0 0)

/-- Records the time of an uncorrectable error in a core (R330). -/
def State.coreError (s : State) (k : Nat) : State :=
  if k < s.cores.length then
    let q := s.core k
    s.putCore k { q with errors := q.errors ++ [s.cclk (s.dieOfCore k)] }
  else s

/-- SRAM_UNCORRECTABLE (R324): by where it lies, the owning block is killed, images or an overlay are lost, the supervisor store is
loaded again, a granule is poisoned, or a serving context is frozen. An error in a core's own SRAM, its slice of tile memory among it,
counts for the core (R12, R330). -/
def execSramUncorrectable (loc : SramLoc) (s : State) : Out :=
  .next (
    match loc with
    | .scratchpad b =>
      match s.block? b with | some k => (s.coreError k.core).killBlock b cSPMERR | none => s
    | .registers c =>
      match c with
      | .ctl _ => s
      | .blk b _ => match s.block? b with | some k => (s.coreError k.core).killBlock b cSPMERR | none => s
    | .context core i =>
      let s1 := s.coreError core
      match (listGet (.clear none) (s.core core).ctxs i).holder with
      | some (.blk b _) => s1.killBlock b cSPMERR
      | some (.ctl _) => s1
      | none => s1
    | .weights core off =>
      let s1 := s.coreError core
      let q := s1.core core
      s1.putCore core { q with images := q.images.filter (fun x => decide (off < x.off) || decide (x.off + x.size ≤ off)) }
    | .store st slot =>
      let lose (l : List OvSlot) : List OvSlot := listSet l slot { listGet OvSlot.empty l slot with resident := false }
      match st with
      | .core k => let s1 := s.coreError k; s1.putCore k { s1.core k with slots := lose (s1.core k).slots }
      | .ctl d => s.putCtl d { s.ctl d with slots := lose (s.ctl d).slots }
    | .supervisor core => { s.coreError core with sup := { s.sup with lost := s.sup.lost ++ [core] } }
    | .memory pa =>
      if mapped pa && s.backed pa then
        let s1 := if pa < 0x100000000 then s.coreError (pa / 0x03000000) else s
        if s1.poison.contains (pa / 8) then s1 else { s1 with poison := s1.poison ++ [pa / 8] }
      else s
    | .foreman x => if x < 2 then (s.putSctx x { s.sctx x with frozen := true }).replace 7 0 else s)

/-! ### Taking work off cores (R330) -/

/-- Starts the save of a block into an area that satisfies a test (R322, R330). -/
def State.startSaveIn (s : State) (ok : Nat → Bool) (b : Nat) : State :=
  match (s.block? b).bind (fun k => s.launch? k.unit) with
  | none => s
  | some l =>
    let w := l.lr.world
    let free := s.saves.free w
    let s1 : State := { s with saves := s.saves.put w (free.filter ok) }
    let s2 := s1.startSave b
    { s2 with saves := s2.saves.put w (s2.saves.free w ++ free.filter (fun a => !ok a)) }

/-- A save of the blocks that are saved with a block ends before it is complete: the areas are free again, and the blocks run (log
entry 97). -/
def State.cancelSave (s : State) (b : Nat) : State :=
  (s.saveGroup b).foldl (fun s x =>
    match s.block? x with
    | none => s
    | some k =>
      if k.saving && !s.resuming x then
        let w := (s.recOf (.blk x 0)).world
        { s with saves := s.saves.put w (s.saves.free w ++ [k.area]) }.modBlock x (fun k => { k with saving := false, area := 0 })
      else s) s

/-- A save goes to an area that a test refuses. -/
def State.savesBadly (s : State) (ok : Nat → Bool) (b : Nat) : Bool :=
  (s.saveGroup b).any (fun x => match s.block? x with | some k => k.saving && !s.resuming x && !ok k.area | none => false)

/-- Takes blocks off cores: a free value says whether each can be saved; one that cannot is killed (R330). A save that has started
ends by PREEMPT; one into an area that will not do starts anew. -/
def State.evacuate (s : State) (ok : Nat → Bool) (cause : Nat) (bs : List Nat) : State :=
  bs.foldl (fun s b =>
    match s.block? b with
    | none => s
    | some _ =>
      let d := s.draw
      if d.1 % 2 = 0 then
        let s1 := if d.2.savesBadly ok b then d.2.cancelSave b else d.2
        (match s1.block? b with | some k => (if k.saving then s1 else s1.startSaveIn ok b) | none => s1)
      else d.2.killBlock b cause) s

/-- The blocks that are saved with a block will resume on a die: it is chosen for them in advance (R330). -/
def State.steer (s : State) (d b : Nat) : State :=
  (s.saveGroup b).foldl (fun s x =>
    match s.block? x with
    | none => s
    | some k => s.modLaunch k.unit (fun l => { l with chosen := l.chosen.filter (fun c => c.1 != k.index) ++ [(k.index, d, s.cclk d)] })) s

/-! ### Retiring a core (R21, R28, R330) -/

/-- A live page of a serving context whose frame lies in a slice. -/
def State.slicePage (s : State) (k : Nat) : Option (Nat × Nat) :=
  ([0, 1] : List Nat).foldl (fun r x =>
    match r with
    | some p => some p
    | none =>
      if (s.sctx x).bound.isNone then none
      else (firstFrom (fun p => (s.desc x p).state != 0 && (s.desc x p).tier == 0 && inSlice k (s.pageAt x p)) (s.sctx x).npg 0).map
        (fun p => (x, p))) none

/-- The 64 KiB frames of a slice that page tables map, at any level, or that hold a node of one, and whose migration has not begun. -/
def State.sliceFrames (s : State) (k : Nat) : List Nat :=
  let ls := s.leavesOver (sliceBase k) (sliceBase (k + 1))
  let ns := s.nodesOver (sliceBase k) (sliceBase (k + 1))
  if ls.isEmpty && ns.isEmpty then []
  else ((List.range 768).map (fun i => sliceBase k + 0x10000 * i)).filter (fun f =>
    (ls.any (fun l => l.maps f (f + 0x10000)) || ns.any (fun n => n.node == f)) && !s.fore.migs.any (fun m => m.src == f))

/-- A migration out of the slice is in progress. -/
def State.sliceMoves (s : State) (k : Nat) : Bool := s.fore.migs.any (fun m => inSlice k m.src)

/-- The migration of one frame out of a slice begins (R28, R252); the firmware takes a frame of its own for it (log entry 39). -/
def State.moveFrame (s : State) (f : Nat) : State :=
  match s.firmwareFrame (s.worlds.secure.contains (granule f)) with
  | (none, s1) => s1
  | (some g, s1) => { s1 with fore := { s1.fore with migs := s1.fore.migs ++ [⟨2, 0, tierOf g, 0, f, g, 0x10000, 0, .quiet⟩] } }

/-- CORE_RETIRE (R330): the core's blocks are saved or killed, its slice is emptied, and it leaves the package. -/
def execCoreRetire (k : Nat) (s : State) : Out :=
  .next (
    if !s.firmwareRuns || !s.coreIn k || !threeErrors (s.core k).errors then s
    else
      let bs := (s.blocksOn k).map (·.1)
      if !bs.isEmpty then s.evacuate (fun _ => true) cSPMERR bs
      else match s.slicePage k with
        | some (x, p) =>
          if s.migrating x p then s
          else match ([1, 2].find? (fun t => (s.freeFrame x t).isSome && s.moveReach x p t)).bind (fun t => s.startMigration x p t 0) with
            | some t => t
            | none => s
        | none =>
          match s.sliceFrames k with
          | f :: _ => s.moveFrame f
          | [] => if s.sliceMoves k then s else (s.idUpdate (fun x => { x with retired := x.retired ++ [k] })).replace 1 (1 + s.dieOfCore k))

/-! ### Die resets and tamper events (R304 to R306, R330) -/

/-- The chiplets that a reset of a chiplet shutters (R305). -/
def resetGroup (i : Nat) : List Nat :=
  if i = 1 then [1, 3, 5, 6, 7, 8, 9, 10] else if i = 2 then [2, 4, 11, 12, 13, 14, 15, 16] else [i]

/-- An area behind the other C-die (R330). -/
def State.behind (s : State) (d pa : Nat) : Bool :=
  let c := s.chipletOf pa
  c == 1 + d || routeOf c == some (1 + d)

/-- The counter of the die restarts, and its field of ID_EPOCH is raised (R31, R306 step 3); the time since the last change of its clock
goes on (R329). -/
def State.restartClock (s : State) (i : Nat) : State :=
  let c := s.clk
  let j := i - 1
  let e := s.ident.epoch.toNat
  let b := bitsN e (8 * j + 7) (8 * j)
  let since : Option Int := (listGet none s.ident.stepAt i).map (fun t => t - (s.clockOf i : Int))
  { s with
    clk := if i = 1 then { c with c0 := 0 } else if i = 2 then { c with c1 := 0 } else if i = 3 then { c with f0 := 0 } else { c with f1 := 0 }
    ident := { s.ident with
      stepAt := listSet s.ident.stepAt i since
      epoch := BitVec.ofNat 32 (e - b * 2 ^ (8 * j) + (b + 1) % 256 * 2 ^ (8 * j)) } }

/-- What a reset of C-die d loses: its cores' stores, weight buffers and contexts, its control crew, and the contents of its slices,
which the firmware zero-fills (R222, R306 steps 3 and 6). Translation engines keep the generations that they have adopted. -/
def State.resetCores (s : State) (d : Nat) : State :=
  let mine (k : Nat) : Bool := s.dieOfCore k == d
  let pa (k : Nat) : Bool := decide (k < 0x100000000) && mine (k / 0x03000000)
  let cores := (List.range s.cores.length).map (fun k =>
    if mine k then { Core.reset with gens := (s.core k).gens } else s.core k)
  let s1 := s.stopCtl d
  { s1.putCtl d { Ctl.reset with gens := (s.ctl d).gens } with
    cores := cores
    mem := s.mem.filter (fun p => !pa p.1)
    poison := s.poison.filter (fun g => !pa (8 * g))
    sup := { s.sup with lost := s.sup.lost ++ (List.range s.cores.length).filter mine } }

/-- The direction of a link in which a crew's requests leave it, and the die that sends in it. -/
def State.wayOut (s : State) (e : MosEntry) (l : Nat) : Nat × Nat :=
  if l = 0 ∧ s.seat e.crew = 2 then (1, 2) else (2 * l, (linkEnds l).1)

/-- A request in flight over a link whose ends lose their keys: a discarded flit ends it with a transport error (R306 step 2); a flit
that the sender still holds waits (R300). Which of the two it is, is free, unless the sender itself is shuttered. -/
def State.loseFlit (s : State) (shut : List Nat) (l : Nat) (e : MosEntry) : State :=
  let d := s.draw
  let w := s.wayOut e l
  if shut.contains w.2 || d.1 % 2 == 0 then d.2.transportError e
  else d.2.putDir w.1 ((d.2.dir w.1).hold (.tile e.uid) (s.clockOf w.2))

/-- Chiplets are shuttered (R300, R306 steps 1 and 2): their links, and one link that was tampered with, lose their keys and the flits
in flight, the misses of an attestation that was under way count no more, and the Porter's next request is sent now (R297). -/
def State.shutDown (s : State) (shut : List Nat) (link : Option Nat) : State :=
  let cut := (List.range 5).filter (fun l => shut.contains (linkEnds l).1 || shut.contains (linkEnds l).2 || link == some l)
  let lostOn (l : Nat) : List MosEntry := s.inFlight (fun e p => (linkPath (s.seat e.crew) (s.chipletOfLoc p)).find? cut.contains == some l)
  let s1 := (List.range 10).foldl (fun s k => if link = some (k / 2) then s.putDir k .reset else s) s
  let s1 := { s1 with porter := { s1.porter with
    askedAt := s1.hclk, misses := s1.porter.misses.filter (fun x => !shut.contains x.1) } }
  let s2 := (s1.shut shut).eraseLinks shut
  cut.foldl (fun s' l => (lostOn l).foldl (fun s' e => s'.loseFlit shut l e) s') s2

/-- A flit of a tile instruction that the sender has held for 2^20 aclk. -/
def heldTooLong (now : Nat) (h : Requester × Nat) : Option Nat :=
  match h.1 with | .tile u => (if h.2 + 2 ^ 20 ≤ now then some u else none) | .stream _ _ _ => none

/-- SHUTTER_FLIT_TIMEOUT (R300): flits of tile instructions that a direction has held for 2^20 aclk of the sending die are given up, and
their requests complete with a transport error; the request of a stream does so when the stream next tries (State.stallStream). -/
def execShutterFlitTimeout (k : Nat) (s : State) : Out :=
  .next (
    let x := s.dir k
    let e := linkEnds (k / 2)
    let now := s.clockOf (if k % 2 = 0 then e.1 else e.2)
    let tooLong := x.held.filterMap (heldTooLong now)
    if k < 10 then
      (((s.cores.flatMap (fun k => k.mos)) ++ s.ctls.flatMap (fun k => k.load)).filter (fun m => tooLong.contains m.uid)).foldl
        (fun s m => s.transportError m) (s.putDir k { x with held := x.held.filter (fun h => (heldTooLong now h).isNone) })
    else s)

/-- SINGLE_DIE_RESET (R305, R306, R330): the firmware resets a C-die or an F-die alone. The blocks of a C-die are first saved behind
the other C-die, on which they resume, or killed with DIELOST. -/
def execSingleDieReset (i : Nat) (r : Attest) (s : State) : Out :=
  .next (
    if !s.firmwareRuns || !s.porter.booted || decide (i = 0) || decide (4 < i) || s.ident.failed.contains i then s
    else
      let d := i - 1
      let bs := if i ≤ 2 then (s.blocks.filter (fun p => s.dieOfCore p.2.core == d)).map (·.1) else []
      if !bs.isEmpty then bs.foldl (fun s b => s.steer (1 - d) b) (s.evacuate (s.behind (1 - d)) cDIELOST bs)
      else
        let g := resetGroup i
        let s1 := s.shutDown g none
        let s2 := if i ≤ 2 then s1.replace 4 i else s1
        let s3 := s2.restartClock i
        let s4 := if i ≤ 2 then s3.resetCores d else s3
        if s4.routeOpen i then s4.attest i r else s4)

/-- A tamper event on a link (R304, R306): both ends erase every key, and the chiplet farther from the H-die is shuttered, to be
attested and keyed again. On the bridge either C-die may be taken as the farther one: a free value (log entry 40). -/
def State.tamper (s : State) (l : Nat) : State :=
  let d := s.draw
  let far := if l = 0 then 1 + d.1 % 2 else if l ≤ 2 then 2 + l else l - 2
  (d.2.shutDown [far] (some l)).replace 6 far

/-- TAMPER_EVENT (R304). -/
def execTamperEvent (k : Nat) (s : State) : Out :=
  .next (if s.powered && decide (k < 10) && (s.dir k).isKeyed then s.tamper (k / 2) else s)

/-- FLIT_GROUP_ACCEPTED (R301 to R304): the receiver checks the tag of a group of four flits. A group that it has accepted before is
discarded without being decrypted; the next group is accepted, or is a tamper event. -/
def execFlitGroupAccepted (k seq : Nat) (tagOk : Bool) (s : State) : Out :=
  .next (
    let x := s.dir k
    if !s.powered || !x.isKeyed || seq % 4 != 0 || seq != x.acked then s
    else
      let y := x.sendMany (seq + 4 - x.sent)
      if y.sent < seq + 4 then s.putDir k y
      else if tagOk then
        let s1 := s.putDir k (y.accept seq)
        if k < 10 then s1 else match s1.peers.eps[(k - 10) / 2]? with | some e => s1.packetPasses e.port e.ep | none => s1
      else if k < 10 then (s.putDir k y).tamper (k / 2)
      else match s.peers.eps[(k - 10) / 2]? with
        | some e => (s.putDir k y).packetFails e
        | none => s)

/-! ### Health (R5, R35, R329) -/

/-- The clock of a die in MHz. -/
def Ident.mhz (x : Ident) (i : Nat) : Nat :=
  (if i = 0 then x.hclk else if i = 1 then x.c0clk else if i = 2 then x.c1clk else if i = 3 then x.f0clk else x.f1clk).toNat

/-- Sets the clock of a die. -/
def Ident.setMhz (x : Ident) (i v : Nat) : Ident :=
  let v := BitVec.ofNat 16 v
  if i = 0 then { x with hclk := v } else if i = 1 then { x with c0clk := v } else if i = 2 then { x with c1clk := v }
  else if i = 3 then { x with f0clk := v } else { x with f1clk := v }

/-- The reasons that stay in force when clocks have changed: 2 and 3 only while some die runs slower for that reason (R329). -/
def Ident.settled (x : Ident) : Ident :=
  { x with reasons := x.reasons.filter (fun r => (r != 2 && r != 3) || x.cut.contains r) }

/-- THERMAL_THROTTLE (R329): the firmware lowers a die's clock by 100 MHz, for temperature or for its voltage margin, or raises it
again, at most once in 2^22 aclk. The reason stays in force while the die runs below its nominal clock (log entry 41). -/
def execThermalThrottle (i : Nat) (up voltage : Bool) (s : State) : Out :=
  .next (
    let m := s.ident.mhz i
    let soon := match listGet none s.ident.stepAt i with | some t => decide ((s.clockOf i : Int) < t + 2 ^ 22) | none => false
    if !s.firmwareRuns || decide (4 < i) || s.shuttered i || soon then s
    else
      let why := if voltage then 3 else 2
      let set (v cut : Nat) : State :=
        s.idUpdate (fun x => ({ x.setMhz i v with
          stepAt := listSet x.stepAt i (some (s.clockOf i : Int)), cut := listSet x.cut i cut } : Ident).settled)
      if up then
        if 3300 ≤ m then s else set (m + 100) (if m + 100 = 3300 then 0 else listGet 0 s.ident.cut i)
      else if m ≤ 100 then s
      else (set (m - 100) why).replace why i)

/-- CRITICAL_TEMPERATURE (R329): the Porter asks the platform to remove power, and logs the request. -/
def execCriticalTemperature (i : Nat) (s : State) : Out := .next (if s.powered then s.log 0 i 0 0 else s)

end Sys2Proof.Machine
end

