-- ==== Sys2Proof/Machine/FirstTouch.lean ====
section
/-!
DEFINITION. The page unit's first-touch mapping (R316, R283, R287).
-/

namespace Sys2Proof.Machine

/-- A physical range that the page unit may reach for an address space: backed, and in the space's world (R28, R291). -/
def State.unitOk (s : State) (q pa n : Nat) : Bool :=
  s.backedRange pa n && s.worldRange (s.spaceWorld q) pa n && !s.poisonedRange pa n

/-- The table entry of a level that lies in a node: its address and its value. -/
def State.tableEntry (s : State) (node va level : Nat) : Nat × Nat :=
  let a := node + 8 * vaIndex va level
  (a, (s.word64 a).toNat)

/-- The address of the level-0 entry of va, when level 2 and level 1 are well-formed table entries (R316). -/
def State.leafSlot (s : State) (q va : Nat) : Option Nat :=
  let ok (a e level : Nat) : Bool := s.unitOk q a 8 && pteV e && !pteBad (s.spaceWorld q) level e && !pteLeaf e
  let e2 := s.tableEntry ((s.space q).root.toNat * 2 ^ 16) va 2
  if ok e2.1 e2.2 2 then
    let e1 := s.tableEntry (pteFrame e2.2) va 1
    if ok e1.1 e1.2 1 then
      let a := (s.tableEntry (pteFrame e1.2) va 0).1
      if s.unitOk q a 8 then some a else none
    else none
  else none

/-- A 64 KiB frame that a pool may hand out (R316). -/
def State.frameOk (s : State) (q f tier : Nat) : Bool :=
  f % 0x10000 == 0 && decide (f < 2 ^ 52) && tierOf f == tier &&
  (List.range 16).all (fun i => s.backed (f + 4096 * i) && s.backed (f + 4096 * i + 4095)) &&
  s.worldOk (s.spaceWorld q) f

/-- One request (R316): FTSTAT and the state after it. A pool record, a frame array or a table node that the page unit may not
reach gives a status that the manual does not state: a free value among those that map nothing (log entry 36). -/
def State.firstTouch (s : State) (c : CrewRef) (va : Nat) : Nat × State :=
  let q := s.asidOf c
  let p := s.space q
  let r := p.pool.toNat
  let w (i : Nat) : Nat := (s.word64 (r + 8 * i)).toNat
  let d := s.draw
  let free : Nat × State := (listGet 2 [2, 4, 6] (d.1 % 3), d.2)
  if c.isCtl || !p.poolEn || !p.en then (5, s)
  else if !s.unitOk q r 64 then free
  else if bitsN (w 1) 63 52 != 0 || bitsN (w 2) 63 10 != 0 || bitsN (w 2) 1 0 != 0 || (List.range 5).any (fun i => w (3 + i) != 0) then
    (6, s)
  else match s.leafSlot q va with
    | none => (2, s)
    | some a =>
      if pteV (s.word64 a).toNat then (1, s)
      else
        let next := bitsN (w 0) 63 32
        let count := bitsN (w 0) 31 0
        let fa := bitsN (w 1) 51 0 + 8 * next
        if count ≤ next then (3, s)
        else if !s.unitOk q fa 8 then free
        else
          let f := (s.word64 fa).toNat
          let leaf := bitsN (w 2) 9 2 * 4
          if !s.frameOk q f (bitsN leaf 9 8) then (4, s)
          else
            let s1 := s.putWord64 r (BitVec.ofNat 64 ((next + 1) * 2 ^ 32 + count))
            let s2 := s1.physWrite ⟨s.spaceWorld q, none, false⟩ f (List.replicate 0x10000 0)
            (0, s2.putWord64 a (BitVec.ofNat 64 (f + leaf + 3)))

/-- A request must wait: a page that holds its pool record, the frame array, a node of its walk or the frame itself migrates (R252). -/
def State.touchStalls (s : State) (c : CrewRef) (va : Nat) : Bool :=
  let p := s.space (s.asidOf c)
  let r := p.pool.toNat
  let e2 := s.tableEntry (p.root.toNat * 2 ^ 16) va 2
  let e1 := s.tableEntry (pteFrame e2.2) va 1
  let e0 := s.tableEntry (pteFrame e1.2) va 0
  let fa := bitsN (s.word64 (r + 8)).toNat 51 0 + 8 * bitsN (s.word64 r).toNat 63 32
  !c.isCtl && p.poolEn && p.en &&
  [(r, 64), (e2.1, 8), (e1.1, 8), (e0.1, 8), (fa, 8), ((s.word64 fa).toNat, 0x10000)].any (fun x => s.stalledPa 0 x.1 x.2)

/-- FTMAP_REQUEST (R316): the page unit performs the oldest request, sets FTSTAT, and the crew goes on. -/
def execFtmapRequest (s : State) : Out :=
  .next (
    match s.fore.ftq with
    | [] => s
    | c :: rest =>
      let s1 : State := { s with fore := { s.fore with ftq := rest } }
      match s1.crew? c with
      | none => s1
      | some k =>
        match k.ftReq with
        | none => s1
        | some (va, sw) =>
          if s1.touchStalls c va.toNat then s
          else
            let r := s1.firstTouch c va.toNat
            r.2.modCrew c (fun k => ({ k with ftstat := BitVec.ofNat 3 r.1, ftReq := none }).next sw))

end Sys2Proof.Machine
end

