-- ==== Sys2Proof/Machine/Glazier.lean ====
section
/-!
DEFINITION. The Glazier and sampling: windows (R157), the armed row and its summary (R158 to R160), the generator (R161), a draw
(R162), a verify (R163), and SIEVE and SAMPLE (R160, R164). The watch of writes (R158) is in Phys.
-/

namespace Sys2Proof.Machine

/-! ### binary32 helpers (R10, R159) -/

/-- rn of a difference, a product and a sum of binary32 codes, and of exp2. -/
def rnSub (a b : Nat) : Nat := (rn32 ((val32 a).sub false (val32 b))).code
def rnMul (a b : Nat) : Nat := (rn32 ((val32 a).mul (val32 b))).code
def rnSum (a b : Nat) : Nat := (rn32 ((val32 a).add false (val32 b))).code
def rnDiv (a b : Nat) : Nat := (rn32 ((val32 a).div (val32 b))).code
/-- exp2(rn(rn(x − m) × c)) of R159 and R162. -/
def expWeight (x m c : Nat) : Nat := (exp2R (val32 (rnMul (rnSub x m) c))).code
/-- a < b as values. -/
def ltCode (a b : Nat) : Bool := (val32 a).lt (val32 b)

/-! ### Windows (R157) -/

/-- A window descriptor. -/
structure Window where
  row : Nat
  cnt : Nat
  req : Nat
  res : Nat
  deriving DecidableEq, Repr

/-- The window at a physical address, when it is well-formed and within R157's limits. -/
def State.window? (s : State) (x a : Nat) : Option Window :=
  let sec := s.ctxWorld x
  let w (i : Nat) : Nat := (s.word64 (a + 8 * i)).toNat
  let d : Window := ⟨bitsN (w 0) 51 0, bitsN (w 1) 63 32, bitsN (w 1) 31 0, bitsN (w 2) 51 0⟩
  let last := d.row + 4 * d.cnt - 1
  let stack (p : Nat) : Nat := (p - 0x010000000000) / 0x001000000000
  let at' (p : Nat) : Bool := tierOf p == 1 && s.backed p && s.worldOk sec p
  if a % 32 == 0 && s.reaches sec a 32 && w 0 / 2 ^ 52 == 0 && w 2 / 2 ^ 52 == 0 && w 3 == 0 && d.row % 4096 == 0 &&
      decide (1 ≤ d.cnt) && decide (d.cnt ≤ 2 ^ 20) && at' d.row && at' last && stack d.row == stack last &&
      d.res % 64 == 0 && s.reaches sec d.res 528 && s.owns x d.req then some d
  else none

/-- c and the greedy choice, from TEMP (R157): log2(e) ÷ TEMP = 1 ÷ (ln 2 × TEMP), rounded once. -/
def coefOf (temp : Nat) : Nat × Bool :=
  match val32 temp with
  | .fin false n d => if n = 0 then (0x3F800000, true) else ((rn32 (.fin false (2 ^ fixBits * d) (ln2Fix * n))).code, false)
  | .fin true _ _ => (0x3F800000, true)
  | .inf _ => (0x3F800000, true)
  | .nan => (0x3F800000, true)

/-! ### The result of a row (R159, R160) -/

/-- The included elements of a granule, in ascending order: index and code. -/
def GlazierRow.granule (r : GlazierRow) (g : Nat) : List (Nat × Nat) :=
  (r.incl.filter (fun p => p.2 && p.1 / 1024 == g)).map (fun p => (p.1, (sparseGet 0 r.vals p.1).toNat))

/-- The largest code of a list, the first on a tie. -/
def largest (l : List Nat) : Option Nat := bestOf (fun a b => ltCode b a) l

/-- Keeps the n largest entries, ties to the lower index: e is after every entry of the list in index order. -/
def insertTop (n : Nat) (l : List (Nat × Nat)) (e : Nat × Nat) : List (Nat × Nat) :=
  (l.takeWhile (fun x => !ltCode x.2 e.2) ++ [e] ++ l.dropWhile (fun x => !ltCode x.2 e.2)).take n

/-- The summary of a granule (R159): m, s and its 64 largest; none when nothing is included. -/
def GlazierRow.summary (r : GlazierRow) (g : Nat) : Option (Nat × Nat × List (Nat × Nat)) :=
  let es := r.granule g
  (largest (es.map (·.2))).map (fun m =>
    (m, es.foldl (fun s e => rnSum s (expWeight e.2 m r.coef.toNat)) 0, es.foldl (insertTop 64) []))

/-- The flags DUP, PART and NF. -/
def GlazierRow.flags (r : GlazierRow) : Nat := b2n r.dup + 2 * b2n r.part + 4 * b2n r.nf

/-- The row is closed (R158). -/
def GlazierRow.closed (r : GlazierRow) : Bool := (r.seen.filter (fun p => p.2)).length == r.cnt

/-- The 528 bytes of the result (R160); those past its entries are 0 (log entry 106). -/
def GlazierRow.result (r : GlazierRow) : List Byte :=
  let gs := (List.range (ceilDiv r.cnt 1024)).filterMap r.summary
  let m := (largest (gs.map (·.1))).getD 0
  let s := gs.foldl (fun a g => rnSum a (rnMul g.2.1 (expWeight g.1 m r.coef.toNat))) 0
  let top := (gs.flatMap (fun g => g.2.2)).foldl (fun l e => insertTop 64 l e) []
  let es := top.flatMap (fun e => bytesOf 4 e.1 ++ bytesOf 4 e.2)
  bytesOf 4 m ++ bytesOf 4 s ++
  bytesOf 4 (top.length + r.flags * 2 ^ 8 + b2n r.greedy * 2 ^ 11) ++ bytesOf 4 r.coef.toNat ++
  (es ++ List.replicate 512 0).take 512

/-- Replaces the armed rows. -/
def State.putRows (s : State) (l : List GlazierRow) : State := { s with fore := { s.fore with rows := l } }

/-- A SIEVE instruction: SRVARG for an ill-formed window (R160); it stalls while the page that holds the window migrates (R252). -/
def sieveIns (o : OpDA) (s : State) (f : Nat → Window → CrewRef → State) : Out :=
  boundIns s (fun x c k =>
    let a := (s.sread c k o.ra).toNat
    match s.window? x a with
    | none => s.trap c cSRVARG
    | some w => if s.stalledPa 0 a 32 then s else f x w c)

/-- SIEVE.arm (R157, R160): a row that is armed, or a unit with 256 armed rows, answers 0. -/
def execSieveArm (o : OpDA) (s : State) : Out :=
  sieveIns o s (fun x w c =>
    let stack (p : Nat) : Nat := (p - 0x010000000000) / 0x001000000000
    if s.fore.rows.any (fun r => r.row == w.row) ||
        decide (256 ≤ (s.fore.rows.filter (fun r => stack r.row == stack w.row)).length) then s.serveDone c o.sw o.rd 0
    else
      let t := coefOf (s.reqF w.req 7 63 32)
      let r : GlazierRow := ⟨x, w.row, w.cnt, w.req, BitVec.ofNat 32 t.1, t.2, [], [], [], false, false, false⟩
      (s.putRows (s.fore.rows ++ [r])).serveDone c o.sw o.rd 1)

/-- SIEVE.read (R160). -/
def execSieveRead (o : OpDA) (s : State) : Out :=
  sieveIns o s (fun x w c =>
    match s.fore.rows.find? (fun r => r.ctx == x && r.row == w.row) with
    | none => s.trap c cSRVARG
    | some r =>
      if !r.closed then s.serveDone c o.sw o.rd 0
      else if s.stalledPa 0 w.res 528 then s
      else
        ((s.putRows (s.fore.rows.filter (fun y => !(y.ctx == x && y.row == w.row)))).unitWrite (s.ctxWorld x) w.res r.result).serveDone c o.sw o.rd
          (1 + r.flags * 2 ^ 8))

/-- SIEVE.disarm (R160). -/
def execSieveDisarm (o : OpDA) (s : State) : Out :=
  sieveIns o s (fun x w c =>
    (s.putRows (s.fore.rows.filter (fun y => !(y.ctx == x && y.row == w.row)))).serveDone c o.sw o.rd 0)

/-! ### The generator and a draw (R161, R162) -/

/-- The generator's value (R161). -/
def mix64 (seed pos draw : Nat) : Nat :=
  let m := 2 ^ 64
  let z0 := (seed ^^^ (pos * 0x9E3779B97F4A7C15 % m) ^^^ (draw * 0xD1B54A32D192ED03 % m)) % m
  let z1 := (z0 ^^^ (z0 >>> 30)) * 0xBF58476D1CE4E5B9 % m
  let z2 := (z1 ^^^ (z1 >>> 27)) * 0x94D049BB133111EB % m
  z2 ^^^ (z2 >>> 31)

/-- u as a binary32 code (R161): exact. -/
def drawU (seed pos draw : Nat) : Nat := (rn32 (.fin false (bitsN (mix64 seed pos draw) 63 40) (2 ^ 24))).code

/-- A result that holds a shortlist (R160). -/
structure Short where
  m      : Nat
  s      : Nat
  n      : Nat
  greedy : Bool
  c      : Nat
  list   : List (Nat × Nat)
  ok     : Bool
  deriving DecidableEq, Repr

/-- Reads a result; ok says that n is at most 64 and the reserved bits of word 1 are 0 (R164). -/
def State.readShort (s : State) (a : Nat) : Short :=
  let w (i : Nat) : Nat := (s.word64 (a + 8 * i)).toNat
  let n := w 1 % 256
  ⟨bitsN (w 0) 31 0, bitsN (w 0) 63 32, n, bitN (w 1) 11, bitsN (w 1) 63 32,
   (List.range (min n 64)).map (fun k => (bitsN (w (2 + k)) 31 0, bitsN (w (2 + k)) 63 32)),
   decide (n ≤ 64) && bitsN (w 1) 31 12 == 0⟩

/-- The running sums of weights. -/
def runSums : Nat → List Nat → List Nat
  | _, [] => []
  | a, w :: t => let b := rnSum a w; b :: runSums b t

/-- The kept entries of a shortlist with their weights (R162 steps 1 to 5); of a greedy one, its first admissible entry with
weight 1 (log entry 35). -/
def State.kept (s : State) (i : Nat) (l : Short) : List (Nat × Nat) :=
  let adm := l.list.filter (fun e => decide (e.1 < s.reqF i 8 31 0))
  if l.greedy then (adm.take 1).map (fun e => (e.1, 0x3F800000))
  else
    let topk := s.reqF i 8 47 32
    let es := (adm.take (if topk = 0 then 64 else topk)).map (fun e => (e.1, expWeight e.2 l.m l.c))
    let topp := s.reqF i 7 31 0
    if ltCode 0 topp && ltCode topp 0x3F800000 then
      let target := rnMul topp l.s
      let sums := runSums 0 (es.map (·.2))
      let k := (sums.takeWhile (fun x => ltCode x target)).length + 1
      es.take k
    else es

/-- The first entry whose running sum exceeds t, else the last (R162 step 6). -/
def pickBy (es : List (Nat × Nat)) (t : Nat) : Nat :=
  let sums := runSums 0 (es.map (·.2))
  let k := (sums.takeWhile (fun x => !ltCode t x)).length
  (listGet (0xFFFFFFFF, 0) es (min k (es.length - 1))).1

/-- The last running sum of weights. -/
def totalOf (es : List (Nat × Nat)) : Nat := (runSums 0 (es.map (·.2))).getLast?.getD 0

/-- A draw at a position from a shortlist (R162). -/
def State.drawAt (s : State) (i pos : Nat) (l : Short) : Nat :=
  let es := s.kept i l
  if es.isEmpty then 0xFFFFFFFF
  else if l.greedy then (es.headD (0, 0)).1
  else pickBy es (rnMul (drawU (s.req i 9).toNat pos 1) (totalOf es))

/-- The probability of a token in a draft block (R163): its first occurrence, else 0. -/
def State.draftQ (s : State) (blk tok : Nat) : Nat :=
  let es := (List.range 32).map (fun k => (s.word64 (blk + 8 * k)).toNat)
  match es.find? (fun w => w % 2 ^ 32 == tok && tok != 0xFFFFFFFF) with | some w => w / 2 ^ 32 | none => 0

/-- The verify loop of R163 from draft j: the drafts accepted and the token; rows gives the shortlist of row j. -/
def State.verify (s : State) (i base nd : Nat) (rows : Nat → Short) : Nat → Nat → Nat × Nat
  | 0, j => (j, s.drawAt i (base + j) (rows j))
  | n + 1, j =>
    let pos := (base + j) % 2 ^ 64
    let seed := (s.req i 9).toNat
    let blk := s.reqF i 12 51 0 + 256 * j
    let d := (s.word64 blk).toNat % 2 ^ 32
    let q := s.draftQ blk d
    let l := rows j
    let es := s.kept i l
    let tot := totalOf es
    let p (x : Nat) : Nat := match es.find? (fun e => e.1 == x) with | some e => rnDiv e.2 tot | none => 0
    let qOk : Bool := match val32 q with | .fin false k _ => k != 0 | .fin true _ _ => false | .inf _ => false | .nan => false
    if s.reqF i 8 31 0 ≤ d ∨ !qOk then (j, s.drawAt i pos l)
    else if ltCode (rnMul (drawU seed pos 0) q) (p d) then s.verify i base nd rows n (j + 1)
    else
      let res := es.map (fun e => (e.1, minmax fmtF32 true (rnSub (p e.1) (s.draftQ blk e.1)) 0))
      let rs := totalOf res
      if (val32 rs).isZero then (j, s.drawAt i pos l)
      else (j, pickBy res (rnMul (drawU seed pos 1) rs))

/-- A SAMPLE instruction: RQIDX and RQSTATE for its record (R164). -/
def sampleIns (o : OpDAB) (s : State) (f : Nat → Nat → Nat → CrewRef → State) : Out :=
  boundIns s (fun x c k =>
    let i := (s.sread c k o.rb).toNat
    if !s.owns x i then s.trap c cRQIDX
    else if s.rState i ≠ 3 then s.trap c cRQSTATE
    else f x i (s.sread c k o.ra).toNat c)

/-- SAMPLE.draw (R162, R164): its result obeys R157's limits, a multiple of 64 among them. -/
def execSampleDraw (o : OpDAB) (s : State) : Out :=
  sampleIns o s (fun x i a c =>
    let l := s.readShort a
    if a % 64 != 0 || !s.reaches (s.ctxWorld x) a 528 || !l.ok then s.trap c cSRVARG
    else if s.stalledPa 0 a 528 then s
    else s.serveDone c o.sw o.rd (s.drawAt i (s.rLen i) l))

/-- SAMPLE.vfy (R163, R164). -/
def execSampleVfy (o : OpDAB) (s : State) : Out :=
  sampleIns o s (fun x i a c =>
    let nd := s.rNdraft i
    let ws := (List.range (nd + 1)).map (fun j => s.window? x (a + 32 * j))
    let short (j : Nat) : Short := match listGet none ws j with | some w => s.readShort w.res | none => s.readShort 0
    if ws.any (·.isNone) || !(List.range (nd + 1)).all (fun j => (short j).ok) then s.trap c cSRVARG
    else s.served x c ((a, 32 * (nd + 1)) :: ws.filterMap (fun w => w.map (fun v => (v.res, 528))) ++
        (if nd = 0 then [] else [(s.reqF i 12 51 0, 256 * nd)])) (
      let l0 := s.rLen i + 2 ^ 64 - 1 - nd
      let r := s.verify i (l0 + 1) nd short nd 0
      ((s.setReqF i 15 31 0 r.1).setRLen i ((l0 + 1 + r.1) % 2 ^ 32)).serveDone c o.sw o.rd (r.1 * 2 ^ 32 + r.2)))

end Sys2Proof.Machine
end

