-- ==== Sys2Proof/Machine/LaneAlu.lean ====
section
/-!
DEFINITION. Lane arithmetic (R186 to R208): integer, floating-point, transcendental, conversion, compare, predicate and move
instructions.
-/

namespace Sys2Proof.Machine

/-! ### Lanes -/

/-- Writes a result in every enabled lane; every source is read from the crew as it was (R186). -/
def perLane (t : LaneTurn) (en : W32) (f : Nat → Crew → Crew) : Crew := (lanesOf en).foldl (fun k l => f l k) t.k

/-- A 32-bit result with flags in every enabled lane (R187). -/
def laneVals (t : LaneTurn) (en : W32) (vd : BitVec 9) (f : Nat → W32 × Flags) : Crew :=
  perLane t en (fun l k => let r := f l; (k.vwrite l vd.toNat r.1).sticky r.2)

/-- A predicate result in every enabled lane. -/
def lanePred (t : LaneTurn) (en : W32) (pd : Nat) (f : Nat → Bool) : Crew :=
  t.k.pput pd en (BitVec.ofNat 32 (listMask ((lanesOf en).filter f)))

/-! ### Integers (R193 to R195) -/

/-- opa(l) in the width of TY. -/
def opaN (t : LaneTurn) (ty : Ty) (a : SrcA) (l : Nat) : Nat :=
  if ty.is64 then (srcA64 t.k t.r a l).toNat else (srcA32 t.k t.r a l).toNat

/-- opb(l) in the width of TY, with the immediates of R186. -/
def opbN (t : LaneTurn) (ty : Ty) (b : SrcB) (l : Nat) : Nat :=
  if ty.is64 then (srcB64 t.k ty.isSigned b l).toNat else (srcB32 t.k b l).toNat

/-- A register operand in the width of TY. -/
def opvN (t : LaneTurn) (ty : Ty) (v : BitVec 9) (l : Nat) : Nat :=
  if ty.is64 then (t.k.vread64 l v.toNat).toNat else (t.k.vread l v.toNat).toNat

end Sys2Proof.Machine

namespace Sys2Proof

/-- A w-bit operand as a number, signed if TY is. -/
def Ty.num (ty : Ty) (x : Nat) : Int := if ty.isSigned then sextI ty.bits x else ((x % 2 ^ ty.bits : Nat) : Int)

/-- Saturation to the range of TY (R193). -/
def Ty.clip (ty : Ty) (v : Int) : Int :=
  let lo : Int := if ty.isSigned then -(2 ^ (ty.bits - 1) : Nat) else 0
  let hi : Int := if ty.isSigned then (2 ^ (ty.bits - 1) : Nat) - 1 else (2 ^ ty.bits : Nat) - 1
  min (max v lo) hi

end Sys2Proof

namespace Sys2Proof.Machine

/-- Writes t mod 2^w to vd. -/
def Crew.vput (k : Crew) (ty : Ty) (l : Nat) (vd : BitVec 9) (v : Int) : Crew :=
  if ty.is64 then k.vwrite64 l vd.toNat (BitVec.ofInt 64 v) else k.vwrite l vd.toNat (BitVec.ofInt 32 v)

/-- The exact result of a two-operand integer instruction: TY, a and b as numbers. -/
abbrev IntOp := Ty → Int → Int → Int

end Sys2Proof.Machine

namespace Sys2Proof

/-- The registers that an integer instruction names. -/
def LInt.regs (o : LInt) : List Nat := Machine.vNamed o.ty.is64 o.vd ++ o.va.named o.ty.is64 ++ o.vb.named o.ty.is64

end Sys2Proof

namespace Sys2Proof.Machine

/-- A two-operand integer instruction (R193). -/
def laneInt (f : IntOp) (o : LInt) (s : State) : Out :=
  laneFix s o.sw o.g o.regs (fun t en => perLane t en (fun l k =>
    let v := f o.ty (o.ty.num (opaN t o.ty o.va l)) (o.ty.num (opbN t o.ty o.vb l))
    k.vput o.ty l o.vd (if o.sat then o.ty.clip v else v)))

/-- The shift count b mod w. -/
def shBy (ty : Ty) (b : Int) : Nat := (b % (ty.bits : Int)).toNat

end Sys2Proof.Machine

namespace Sys2Proof

/-- The bits of an operand as a natural number. -/
def Ty.nat (ty : Ty) (v : Int) : Nat := wrapN ty.bits v

end Sys2Proof

namespace Sys2Proof.Machine

def intAdd : IntOp := fun _ a b => a + b
def intSub : IntOp := fun _ a b => a - b
def intMul : IntOp := fun _ a b => a * b
def intMulh : IntOp := fun ty a b => a * b / (2 ^ ty.bits : Nat)
def intMin : IntOp := fun _ a b => min a b
def intMax : IntOp := fun _ a b => max a b
def intAnd : IntOp := fun ty a b => ((ty.nat a &&& ty.nat b : Nat) : Int)
def intOr : IntOp := fun ty a b => ((ty.nat a ||| ty.nat b : Nat) : Int)
def intXor : IntOp := fun ty a b => ((ty.nat a ^^^ ty.nat b : Nat) : Int)
def intShl : IntOp := fun ty a b => a * (2 ^ shBy ty b : Nat)
def intShr : IntOp := fun ty a b => ((ty.nat a / 2 ^ shBy ty b : Nat) : Int)
def intSar : IntOp := fun ty a b => sextI ty.bits (ty.nat a) / (2 ^ shBy ty b : Nat)

/-- IADD (R193). -/
def execIadd (o : LInt) (s : State) : Out := laneInt intAdd o s
/-- ISUB (R193). -/
def execIsub (o : LInt) (s : State) : Out := laneInt intSub o s
/-- IMUL (R193). -/
def execImul (o : LInt) (s : State) : Out := laneInt intMul o s
/-- IMULH (R193). -/
def execImulh (o : LInt) (s : State) : Out := laneInt intMulh o s
/-- IMIN (R193). -/
def execImin (o : LInt) (s : State) : Out := laneInt intMin o s
/-- IMAX (R193). -/
def execImax (o : LInt) (s : State) : Out := laneInt intMax o s
/-- IAND (R193). -/
def execIand (o : LInt) (s : State) : Out := laneInt intAnd o s
/-- IOR (R193). -/
def execIor (o : LInt) (s : State) : Out := laneInt intOr o s
/-- IXOR (R193). -/
def execIxor (o : LInt) (s : State) : Out := laneInt intXor o s
/-- ISHL (R193). -/
def execIshl (o : LInt) (s : State) : Out := laneInt intShl o s
/-- ISHR (R193). -/
def execIshr (o : LInt) (s : State) : Out := laneInt intShr o s
/-- ISAR (R193). -/
def execIsar (o : LInt) (s : State) : Out := laneInt intSar o s

/-- IMAD (R193). -/
def execImad (o : LMad) (s : State) : Out :=
  laneFix s o.sw o.g (vNamed o.ty.is64 o.vd ++ o.va.named o.ty.is64 ++ o.vb.named o.ty.is64 ++ vNamed o.ty.is64 o.vc)
    (fun t en => perLane t en (fun l k =>
      let v := o.ty.num (opaN t o.ty o.va l) * o.ty.num (opbN t o.ty o.vb l) + o.ty.num (opvN t o.ty o.vc l)
      k.vput o.ty l o.vd (if o.sat then o.ty.clip v else v)))

/-- A count of bits, written to one 32-bit register (R194). -/
def laneCnt (f : Nat → Nat → Nat) (o : LCnt) (s : State) : Out :=
  laneFix s o.sw o.g (vNamed false o.vd ++ o.va.named o.ty.is64) (fun t en => perLane t en (fun l k =>
    k.vwrite l o.vd.toNat (BitVec.ofNat 32 (f o.ty.bits (opaN t o.ty o.va l)))))

/-- The 0 bits above the highest 1 bit of a w-bit value. -/
def clz (w x : Nat) : Nat := if x = 0 then w else w - 1 - Nat.log2 x

/-- IPOP (R194). -/
def execIpop (o : LCnt) (s : State) : Out := laneCnt popN o s
/-- ICLZ (R194). -/
def execIclz (o : LCnt) (s : State) : Out := laneCnt clz o s

/-- IBFE (R195). -/
def execIbfe (o : LBfe) (s : State) : Out :=
  laneFix s o.sw o.g (vNamed o.ty.is64 o.vd ++ o.va.named o.ty.is64) (fun t en => perLane t en (fun l k =>
    let x := opaN t o.ty o.va l / 2 ^ o.pos.toNat % 2 ^ o.len.toNat
    k.vput o.ty l o.vd (if o.ty.isSigned then sextI o.len.toNat x else (x : Int))))

/-- IBFI (R195). -/
def execIbfi (o : LBfi) (s : State) : Out :=
  laneFix s o.sw o.g (vNamed o.ty.is64 o.vd ++ o.va.named o.ty.is64 ++ vNamed o.ty.is64 o.vb)
    (fun t en => perLane t en (fun l k =>
      let a := opaN t o.ty o.va l
      let b := opvN t o.ty o.vb l % 2 ^ o.len.toNat
      let old := a / 2 ^ o.pos.toNat % 2 ^ o.len.toNat
      k.vput o.ty l o.vd ((a : Int) + (b * 2 ^ o.pos.toNat : Nat) - (old * 2 ^ o.pos.toNat : Nat))))

/-! ### Floating point (R196 to R199) -/

end Sys2Proof.Machine

namespace Sys2Proof

/-- The format of PK's elements (R45). -/
def Pk.fmt : Pk → Fmt | .f32 => fmtF32 | .h2 => fmtF16 | .bh2 => fmtBF16

/-- Element h of a register (R199). -/
def Pk.elem (pk : Pk) (x : W32) (h : Nat) : Nat :=
  match pk with | .f32 => x.toNat | .h2 => x.toNat / 2 ^ (16 * h) % 2 ^ 16 | .bh2 => x.toNat / 2 ^ (16 * h) % 2 ^ 16

/-- The elements of a register, each computed alone; the flags are those of both (R199). -/
def Pk.each (pk : Pk) (f : Nat → Rounded) : W32 × Flags :=
  match pk with
  | .f32 => let r := f 0; (BitVec.ofNat 32 r.code, r.flags)
  | .h2 => let r := f 0; let q := f 1; (BitVec.ofNat 32 (r.code + q.code * 2 ^ 16), r.flags ||| q.flags)
  | .bh2 => let r := f 0; let q := f 1; (BitVec.ofNat 32 (r.code + q.code * 2 ^ 16), r.flags ||| q.flags)

end Sys2Proof

namespace Sys2Proof.Machine

/-- An operation of two elements. -/
abbrev FltOp := Fmt → Rm → Ex → Ex → Rounded

/-- FADD, FSUB and FMUL (R196). -/
def laneFlt (f : FltOp) (o : LFlt) (s : State) : Out :=
  laneFix s o.sw o.g (vNamed false o.vd ++ o.va.named false ++ o.vb.named false) (fun t en => laneVals t en o.vd (fun l =>
    let a := srcA32 t.k t.r o.va l
    let b := srcB32 t.k o.vb l
    o.pk.each (fun h => f o.pk.fmt o.rm (o.pk.fmt.value (o.pk.elem a h)).1 (o.pk.fmt.value (o.pk.elem b h)).1)))

def fltAdd : FltOp := fun f rm a b => arith f rm (a.isNan || b.isNan) (a.add (rm == .rdn) b)
def fltSub : FltOp := fun f rm a b => arith f rm (a.isNan || b.isNan) (a.add (rm == .rdn) b.neg)
def fltMul : FltOp := fun f rm a b => arith f rm (a.isNan || b.isNan) (a.mul b)

/-- FADD (R196). -/
def execFadd (o : LFlt) (s : State) : Out := laneFlt fltAdd o s
/-- FSUB (R196). -/
def execFsub (o : LFlt) (s : State) : Out := laneFlt fltSub o s
/-- FMUL (R196). -/
def execFmul (o : LFlt) (s : State) : Out := laneFlt fltMul o s

/-- a × b + c, rounded once; 0 × infinity raises NV beside a NaN c too (R196). -/
def fltFma (f : Fmt) (rm : Rm) (a b c : Ex) : Rounded :=
  if a.isNan || b.isNan || c.isNan then ⟨f.nanCode, nvIf ((a.isZero && b.isInf) || (a.isInf && b.isZero))⟩
  else arith f rm false ((a.mul b).add (rm == .rdn) c)

/-- FFMA (R196). -/
def execFfma (o : LFma) (s : State) : Out :=
  laneFix s o.sw o.g (vNamed false o.vd ++ o.va.named false ++ o.vb.named false ++ vNamed false o.vc)
    (fun t en => laneVals t en o.vd (fun l =>
      let a := srcA32 t.k t.r o.va l
      let b := srcB32 t.k o.vb l
      let c := t.k.vread l o.vc.toNat
      o.pk.each (fun h => fltFma o.pk.fmt o.rm (o.pk.fmt.value (o.pk.elem a h)).1 (o.pk.fmt.value (o.pk.elem b h)).1
        (o.pk.fmt.value (o.pk.elem c h)).1)))

/-- FMIN and FMAX (R197). -/
def laneMinmax (big : Bool) (o : LFmm) (s : State) : Out :=
  laneFix s o.sw o.g (vNamed false o.vd ++ o.va.named false ++ o.vb.named false) (fun t en => laneVals t en o.vd (fun l =>
    let a := srcA32 t.k t.r o.va l
    let b := srcB32 t.k o.vb l
    o.pk.each (fun h => ⟨minmax o.pk.fmt big (o.pk.elem a h) (o.pk.elem b h), 0⟩)))

/-- FMIN (R197). -/
def execFmin (o : LFmm) (s : State) : Out := laneMinmax false o s
/-- FMAX (R197). -/
def execFmax (o : LFmm) (s : State) : Out := laneMinmax true o s

/-- The integral value of an element in its own format (R198). -/
def fltIntegral (f : Fmt) (rm : Rm) (code : Nat) : Rounded :=
  match (f.value code).1 with
  | .nan => ⟨f.nanCode, 0⟩
  | .inf _ => ⟨code, 0⟩
  | .fin neg n d =>
    let r := roundInt rm neg n d
    ⟨(roundTo f rm false (.fin neg r.1.natAbs 1)).code, if r.2 then flagNX else 0⟩

/-- FRND (R198). -/
def execFrnd (o : LFrnd) (s : State) : Out :=
  laneFix s o.sw o.g (vNamed false o.vd ++ o.va.named false) (fun t en => laneVals t en o.vd (fun l =>
    let a := srcA32 t.k t.r o.va l
    o.pk.each (fun h => fltIntegral o.pk.fmt o.rm (o.pk.elem a h))))

/-! ### Transcendental functions (R200, R201) -/

/-- A function of one binary32 operand; the results are outstanding until they are delivered with their flags (R46). -/
def laneFun (f : Ex → Rounded) (o : LUn) (s : State) : Out :=
  laneFix s o.sw o.g (vNamed false o.vd ++ o.va.named false) (fun t en => perLane t en (fun l k =>
    let r := f (val32 (srcA32 t.k t.r o.va l).toNat)
    k.pendV l o.vd.toNat (BitVec.ofNat 32 r.code) r.flags))

/-- EXP2 (R200). -/
def execExp2 (o : LUn) (s : State) : Out := laneFun exp2R o s
/-- LOG2 (R200). -/
def execLog2 (o : LUn) (s : State) : Out := laneFun log2R o s
/-- RCP (R200). -/
def execRcp (o : LUn) (s : State) : Out := laneFun rcpR o s
/-- RSQ (R200). -/
def execRsq (o : LUn) (s : State) : Out := laneFun rsqR o s
/-- SQRT (R200). -/
def execSqrt (o : LUn) (s : State) : Out := laneFun sqrtR o s
/-- TANH (R200). -/
def execTanh (o : LUn) (s : State) : Out := laneFun tanhR o s

/-! ### Conversions (R202 to R204) -/

/-- The format that a type code names (R45, R202). -/
def State.dtFmt (s : State) (c : CrewRef) (fs : Nat) : Dt → Fmt
  | .f32 => fmtF32
  | .f16 => fmtF16
  | .bf16 => fmtBF16
  | .i32 => fmtI32
  | .i8 => fmtI8
  | .i4 => fmtI4
  | .b1 => .b1
  | .slot => (s.slotAt c fs).fmt

/-- The container width of a type (R203). -/
def State.dtCont (s : State) (c : CrewRef) (fs : Nat) : Dt → Nat
  | .f32 => 32
  | .i32 => 32
  | .f16 => 16
  | .bf16 => 16
  | .i8 => 8
  | .i4 => 4
  | .b1 => 1
  | .slot => (s.slotAt c fs).cont

/-- The code of a converted element, and its flags (R202): a value of the same type passes unchanged but for a NaN and a
reserved code. -/
def convert (rec : Bool) (same : Bool) (src dst : Fmt) (rm : Rm) (sat : Bool) (code : Nat) : Rounded :=
  let v := src.value code
  let fl := rsvdIf (rec && v.2)
  if same then
    if v.1.isNan then ⟨dst.nanCode, fl⟩
    else if v.2 then ⟨(roundTo dst .rn false v.1).code, fl⟩
    else ⟨code % 2 ^ fmtBits dst, fl⟩
  else
    let r := roundTo dst rm sat v.1
    ⟨r.code, r.flags ||| fl⟩

/-- A code placed in a 32-bit register (R202). -/
def placeCode (dt : Dt) (code : Nat) : W32 :=
  match dt with
  | .i8 => BitVec.ofInt 32 (sextI 8 code)
  | .i4 => BitVec.ofInt 32 (sextI 4 code)
  | _ => BitVec.ofNat 32 code

/-- ILLFMT when the instruction names a slot that it may not use (R175). -/
def State.cvtSlotBad (s : State) (c : CrewRef) (dt st : Dt) (fs : BitVec 3) : Bool :=
  (dt == .slot || st == .slot) && (!s.slotOk c fs.toNat || (s.slotAt c fs.toNat).scm != 0)

/-- A conversion instruction after its guard: the slot check, after that of the registers (log entry 117), and a result in every enabled
lane. -/
def laneCvt (s : State) (sw : Bool) (g : Guard) (regs : List Nat) (dt st : Dt) (fs : BitVec 3) (vd : BitVec 9)
    (f : LaneTurn → Nat → W32 × Flags) : Out :=
  laneIns s g regs (fun t en =>
    if s.cvtSlotBad t.c dt st fs then s.laneTrap t cILLFMT en en 0
    else s.putCrew t.c (t.next sw (laneVals t en vd (f t))))

/-- CVT (R202). -/
def execCvt (o : LCvt) (s : State) : Out :=
  laneCvt s o.sw o.g (vNamed false o.vd ++ o.va.named false) o.dt o.st o.fs o.vd (fun t l =>
    let code := (srcA32 t.k t.r o.va l).toNat % 2 ^ s.dtCont t.c o.fs.toNat o.st
    let r := convert s.recordsRsvd (o.dt == o.st) (s.dtFmt t.c o.fs.toNat o.st) (s.dtFmt t.c o.fs.toNat o.dt) o.rm o.sat code
    (placeCode o.dt r.code, r.flags))

/-- PACK (R203): it rounds where CVT passes a value of the same type. -/
def execPack (o : LPack) (s : State) : Out :=
  laneCvt s o.sw o.g (vNamed false o.vd ++ o.va.named false ++ vNamed false o.vb) o.dt o.st o.fs o.vd (fun t l =>
    let code := (srcA32 t.k t.r o.va l).toNat % 2 ^ s.dtCont t.c o.fs.toNat o.st
    let r := convert s.recordsRsvd false (s.dtFmt t.c o.fs.toNat o.st) (s.dtFmt t.c o.fs.toNat o.dt) o.rm o.sat code
    let w := s.dtCont t.c o.fs.toNat o.dt
    (BitVec.ofNat 32 ((t.k.vread l o.vb.toNat).toNat / 2 ^ w + r.code * 2 ^ (32 - w)), r.flags))

/-- UNPACK (R204). -/
def execUnpack (o : LPack) (s : State) : Out :=
  laneCvt s o.sw o.g (vNamed false o.vd ++ o.va.named false ++ vNamed false o.vb) o.dt o.st o.fs o.vd (fun t l =>
    let w := s.dtCont t.c o.fs.toNat o.st
    let i := (t.k.vread l o.vb.toNat).toNat % 32 % (32 / w)
    let code := (srcA32 t.k t.r o.va l).toNat / 2 ^ (w * i) % 2 ^ w
    let r := convert s.recordsRsvd (o.dt == o.st) (s.dtFmt t.c o.fs.toNat o.st) (s.dtFmt t.c o.fs.toNat o.dt) o.rm o.sat code
    (placeCode o.dt r.code, r.flags))

/-! ### Compares, predicates and moves (R205 to R208) -/

end Sys2Proof.Machine

namespace Sys2Proof

/-- The conditions of ICMP on exact integers. -/
def ICond.holds (c : ICond) (a b : Int) : Bool :=
  match c with
  | .eq => decide (a = b)
  | .ne => decide (a ≠ b)
  | .lt => decide (a < b)
  | .le => decide (a ≤ b)
  | .gt => decide (b < a)
  | .ge => decide (b ≤ a)

end Sys2Proof

namespace Sys2Proof.Machine

/-- ICMP (R205). -/
def execIcmp (o : LICmp) (s : State) : Out :=
  laneFix s o.sw o.g (o.va.named o.ty.is64 ++ o.vb.named o.ty.is64) (fun t en => lanePred t en o.pd.toNat (fun l =>
    o.cond.holds (o.ty.num (opaN t o.ty o.va l)) (o.ty.num (opbN t o.ty o.vb l))))

end Sys2Proof.Machine

namespace Sys2Proof

/-- The conditions of FCMP, with NV (R206). -/
def FCond.holds (c : FCond) (a b : Ex) : Bool × Flags :=
  let nan := a.isNan || b.isNan
  match c with
  | .eq => (a.eqv b, 0)
  | .ne => (!a.eqv b, 0)
  | .lt => (a.lt b, Machine.nvIf nan)
  | .le => (a.lt b || a.eqv b, Machine.nvIf nan)
  | .gt => (b.lt a, Machine.nvIf nan)
  | .ge => (b.lt a || a.eqv b, Machine.nvIf nan)
  | .un => (nan, 0)
  | .ord => (!nan, 0)

end Sys2Proof

namespace Sys2Proof.Machine

/-- The comparison of element h in a lane. -/
def fcmpAt (o : LFCmp) (t : LaneTurn) (h l : Nat) : Bool × Flags :=
  o.cond.holds (o.pk.fmt.value (o.pk.elem (srcA32 t.k t.r o.va l) h)).1 (o.pk.fmt.value (o.pk.elem (srcB32 t.k o.vb l) h)).1

/-- FCMP (R206). -/
def execFcmp (o : LFCmp) (s : State) : Out :=
  laneFix s o.sw o.g (o.va.named false ++ o.vb.named false) (fun t en =>
    let fl (h : Nat) : Flags := flagsOf ((lanesOf en).map (fun l => (fcmpAt o t h l).2))
    let k0 := lanePred t en o.pd.toNat (fun l => (fcmpAt o t 0 l).1)
    if o.pk = .f32 then k0.sticky (fl 0)
    else (k0.pput (o.pd.toNat + 1) en (BitVec.ofNat 32 (listMask ((lanesOf en).filter (fun l => (fcmpAt o t 1 l).1))))).sticky
      (fl 0 ||| fl 1))

/-- A combination of two predicates (R207). -/
def lanePred2 (f : W32 → W32 → W32) (o : LP3) (s : State) : Out :=
  laneFix s o.sw o.g [] (fun t en => t.k.pput o.pd.toNat en (f (t.k.pmask o.pa.toNat) (t.k.pmask o.pb.toNat)))

/-- PAND (R207). -/
def execPand (o : LP3) (s : State) : Out := lanePred2 (fun a b => a &&& b) o s
/-- POR (R207). -/
def execPor (o : LP3) (s : State) : Out := lanePred2 (fun a b => a ||| b) o s
/-- PXOR (R207). -/
def execPxor (o : LP3) (s : State) : Out := lanePred2 (fun a b => a ^^^ b) o s

/-- PNOT (R207). -/
def execPnot (o : LP2) (s : State) : Out :=
  laneFix s o.sw o.g [] (fun t en => t.k.pput o.pd.toNat en (~~~ t.k.pmask o.pa.toNat))

/-- PMOV (R207). -/
def execPmov (o : LPMov) (s : State) : Out :=
  laneFix s o.sw o.g [] (fun t en => t.k.pput o.pd.toNat en
    (match o.src with | .reg p => t.k.pmask p.toNat | .imm b => if b then 0xFFFFFFFF else 0))

/-- MOV (R208). -/
def execMov (o : LUn) (s : State) : Out :=
  laneFix s o.sw o.g (vNamed false o.vd ++ o.va.named false) (fun t en => laneVals t en o.vd (fun l => (srcA32 t.k t.r o.va l, 0)))

/-- MOVI (R208). -/
def execMovi (o : LMovi) (s : State) : Out :=
  laneFix s o.sw o.g (vNamed false o.vd) (fun t en => laneVals t en o.vd (fun _ => (o.imm, 0)))

/-- Lane SEL (R208, R64). -/
def execLaneSel (o : LSel) (s : State) : Out :=
  laneFix s o.sw o.g (vNamed false o.vd ++ o.va.named false ++ vNamed false o.vb) (fun t en => laneVals t en o.vd (fun l =>
    (if t.k.pread l o.pc.toNat then srcA32 t.k t.r o.va l else t.k.vread l o.vb.toNat, 0)))

end Sys2Proof.Machine
end

