-- ==== Sys2Proof/Machine/LaneCtl.lean ====
section
/-!
DEFINITION. Lane control (R74 to R79, R321) and the cross-lane instructions (R209 to R211) and REORD (R93).
-/

namespace Sys2Proof.Machine

/-! ### The mask stack (R75, R76, R77) -/

/-- No guard. -/
def noGuard : Guard := ⟨false, false, 0⟩

/-- The lanes of slice j in a mask, as a nibble. -/
def nibble (m : W32) (j : Nat) : BitVec 4 := (m >>> (4 * j)).setWidth 4

/-- reconverge of R75. -/
def Slice.reconverge (x : Slice) : Slice :=
  match x.stack with
  | [] => x
  | e :: t =>
    if e.pending ≠ 0 ∧ e.ran = false then
      { x with stack := { e with ran := true } :: t, cur := e.pending, pc := codeIn x.pc e.target.toNat }
    else { x with stack := t, cur := e.restore, pc := codeIn x.pc e.join.toNat }

/-- The top entry names the join J. -/
def Slice.topIs (x : Slice) (j : BitVec 16) : Bool :=
  match x.stack with | [] => false | e :: _ => e.join == j

/-- The divergent form of BRA in one slice (R76). -/
def Slice.diverge (x : Slice) (take : BitVec 4) (target join : BitVec 16) : Slice :=
  let e : MaskEntry := ⟨join, x.cur, target, 0, false⟩
  if take = x.cur then { x with stack := e :: x.stack, pc := codeIn x.pc target.toNat }
  else if take = 0 then { x with stack := e :: x.stack, pc := codeAdd x.pc 12 }
  else { x with stack := { e with pending := take } :: x.stack, cur := x.cur &&& ~~~ take, pc := codeAdd x.pc 12 }

/-- The leave form of BRA in one slice (R76). -/
def Slice.leaveRegion (x : Slice) (take : BitVec 4) : Slice :=
  let y : Slice := { x with cur := x.cur &&& ~~~ take }
  if y.cur = 0 then y.reconverge else { y with pc := codeAdd y.pc 12 }

/-- The slices of a gang form one gang for each code address (R74). -/
def Run.regroup (r : Run) (gang : List Nat) : Run :=
  let lead (j : Nat) : Nat := (gang.find? (fun i => (r.slice i).pc == (r.slice j).pc)).getD j
  { r with slices := (List.range 8).map (fun j =>
      let x := r.slice j
      if gang.contains j then { x with gang := lead j } else x) }

/-- A control instruction of a gang: each slice changes, parks when marked, and the gang splits by address. -/
def LaneTurn.branch (t : LaneTurn) (sw : Bool) (f : Nat → Slice → Slice) : Crew :=
  let k1 := t.upd t.k (fun j x => { f j x with park := sw, wait := false })
  match k1.runNow with
  | none => k1
  | some r => k1.setRunNow (r.regroup t.gang)

/-- The enabled lanes of the slices that fail a test: the faulter mask of JOINMIS and MSKOVF (R76). -/
def LaneTurn.failing (t : LaneTurn) (en : W32) (bad : Slice → Bool) : W32 :=
  en &&& BitVec.ofNat 32 (sliceLanes (t.gang.filter (fun j => bad (t.r.slice j))))

/-- Some slice of the gang fails a test. -/
def LaneTurn.anyBad (t : LaneTurn) (bad : Slice → Bool) : Bool := t.gang.any (fun j => bad (t.r.slice j))

/-- An offset is a lane target of the run's overlay (R53, R76). -/
def State.laneOff (s : State) (t : LaneTurn) (off : BitVec 16) : Bool :=
  s.laneTarget t.c t.k ((codeIn t.pc off.toNat).setWidth 64)

/-- BRA, divergent (R76). -/
def execBraDivergent (o : LBraD) (s : State) : Out :=
  laneIns s o.g [] (fun t en =>
    let full (x : Slice) : Bool := decide (8 ≤ x.stack.length)
    if !s.laneOff t o.target then s.laneTrap t cBADTGT en en 0
    else if !s.laneOff t o.join then s.laneTrap t cBADTGT en en 0
    else if t.anyBad full then s.laneTrap t cMSKOVF (t.failing en full) en 0
    else s.putCrew t.c (t.branch o.sw (fun j x => x.diverge (nibble en j) o.target o.join)))

/-- BRA, leave (R76). -/
def execBraLeave (o : LBraL) (s : State) : Out :=
  laneIns s o.g [] (fun t en =>
    let bad (x : Slice) : Bool := !x.topIs o.join
    if !s.laneOff t o.join then s.laneTrap t cBADTGT en en 0
    else if t.anyBad bad then s.laneTrap t cJOINMIS (t.failing en bad) en 0
    else s.putCrew t.c (t.branch o.sw (fun j x => x.leaveRegion (nibble en j))))

/-- BRA, jump (R76). -/
def execBraJump (o : LOff) (s : State) : Out :=
  laneIns s noGuard [] (fun t en =>
    if !s.laneOff t o.off then s.laneTrap t cBADTGT en en 0
    else s.putCrew t.c (t.branch o.sw (fun _ x => { x with pc := codeIn x.pc o.off.toNat })))

/-- JOIN (R77). -/
def execJoin (o : LOff) (s : State) : Out :=
  laneIns s noGuard [] (fun t en =>
    let bad (x : Slice) : Bool := !x.topIs o.off
    if t.anyBad bad then s.laneTrap t cJOINMIS (t.failing en bad) en 0
    else s.putCrew t.c (t.branch o.sw (fun _ x => x.reconverge)))

/-! ### REGANG and LEND (R78, R79) -/

/-- REGANG_RELEASE (R78): when every slice of the run has parked at a REGANG or left, all go on, one gang for each offset. -/
def Run.release (r : Run) : Run :=
  let live := (List.range 8).filter (fun j => (r.slice j).live)
  if !live.isEmpty && live.all (fun j => (r.slice j).atRegang) then
    let r1 := r.regroup live
    { r1 with slices := (List.range 8).map (fun j =>
        let x := r1.slice j
        if x.live then { x with atRegang := false, pc := codeAdd x.pc 12 } else x) }
  else r

/-- REGANG (R78). -/
def execRegang (o : OpZ) (s : State) : Out :=
  laneIns s noGuard [] (fun t _ =>
    let k1 := t.upd t.k (fun _ x => { x with atRegang := true, park := o.sw, wait := false })
    s.putCrew t.c (match k1.runNow with | none => k1 | some r => k1.setRunNow r.release))

/-- Combining of XPUT's 32-bit values, with flags (R211). -/
def xopJoin (op : XOp) (a b : W32) : W32 × Flags :=
  match op with
  | .sum => (a + b, 0)
  | .fsum => let r := addF32 a.toNat b.toNat; (BitVec.ofNat 32 r.code, r.flags)
  | .min => (if b.slt a then b else a, 0)
  | .max => (if a.slt b then b else a, 0)
  | .minu => (if b.ult a then b else a, 0)
  | .maxu => (if a.ult b then b else a, 0)
  | .and => (a &&& b, 0)
  | .or => (a ||| b, 0)

/-- Combines a value into a partial; the sums start from 0, the others with their first value (R211). -/
def partJoin (op : XOp) (p : Option W32) (v : W32) : W32 × Flags :=
  match p, op with
  | some a, _ => xopJoin op a v
  | none, .sum => xopJoin .sum 0 v
  | none, .fsum => xopJoin .fsum 0 v
  | none, _ => (v, 0)

/-- Folds a list of values into a partial. -/
def partFold (op : XOp) (p : Option W32) (vs : List W32) : Option W32 × Flags :=
  vs.foldl (fun a v => let r := partJoin op a.1 v; (some r.1, a.2 ||| r.2)) (p, 0)

/-- A result slot at run end: the partials of the slices 0 to 7 (R211). -/
def Run.slotEnd (r : Run) (i : Nat) : W32 × Flags :=
  match listGet none r.ops i with
  | none => (0, 0)
  | some op =>
    let ps := r.slices.filterMap (fun x => listGet none x.parts i)
    let f := partFold op none ps
    (f.1.getD 0, f.2)

/-- RUN_END (R69, R79, R211): the run ends, its slots take their values, and a queued run starts. -/
def Crew.endRun (k : Crew) : Crew :=
  match k.runNow with
  | none => k
  | some r =>
    if r.isOver then
      let xs := (List.range 4).map r.slotEnd
      let k1 := (k.setRunNow { r with x := xs.map (·.1), state := .ended }).sticky (flagsOf (xs.map (·.2)))
      if k1.h then k1 else { k1 with runs := startQueued k1.runs }
    else k.setRunNow r.release

/-- LEND (R79): it waits for the slices' outstanding destinations, and for a pending MEMERR (R256). -/
def execLend (_ : OpZ) (s : State) : Out :=
  laneIns s noGuard [] (fun t en =>
    let deep (x : Slice) : Bool := !x.stack.isEmpty
    if t.anyBad deep then s.laneTrap t cJOINMIS (t.failing en deep) en 0
    else if t.gang.any (fun j => t.k.sliceOut j || !(t.r.slice j).memerr.isEmpty) then s.putCrew t.c (t.hold t.k)
    else s.putCrew t.c (t.upd t.k (fun _ x => { x with live := false, wait := false })).endRun)

/-- The gang has issued an instruction that traps after itself: it parks there where the instruction was marked (R47). -/
def LaneTurn.mark (t : LaneTurn) (sw : Bool) : Crew := t.upd t.k (fun _ x => { x with park := sw, wait := false })

/-- LTRAP (R321): LANETRAP in the enabled lanes, resuming after the instruction. -/
def execLtrap (o : LTrap) (s : State) : Out :=
  laneIns s o.g [] (fun t en =>
    if en = 0 then s.putCrew t.c (t.next o.sw t.k)
    else (s.putCrew t.c (t.mark o.sw)).takeTrap t.c (trapRegs cLANETRAP o.num.toNat t.slices true (codeAdd t.pc 12) t.k.pc t.pc en 0 0 0))

/-! ### Cross-lane instructions (R209 to R211) -/

/-- A predicate delivered late (R46). -/
def Crew.pendP (k : Crew) (l p : Nat) (b : Bool) : Crew :=
  { k with out := k.out ++ [⟨.slice (l / 4), k.h, .pred p l, some (b2n b), 0, 0⟩] }

end Sys2Proof.Machine

namespace Sys2Proof

/-- The source lane of SHFL for lane l, or none outside 0 to 31 (R209). -/
def ShSrc.lane (x : ShSrc) (k : Machine.Crew) (l : Nat) : Option Nat :=
  match x with
  | .idx vb => some ((k.vread l vb.toNat).toNat % 32)
  | .up d => if d.toNat ≤ l then some (l - d.toNat) else none
  | .down d => if l + d.toNat < 32 then some (l + d.toNat) else none
  | .xor d => some ((l ^^^ d.toNat) % 32)

/-- The vector register that SHFL's source names. -/
def ShSrc.named : ShSrc → List Nat
  | .idx vb => [vb.toNat]
  | .up _ => []
  | .down _ => []
  | .xor _ => []

end Sys2Proof

namespace Sys2Proof.Machine

/-- SHFL (R209). -/
def execShfl (o : LShfl) (s : State) : Out :=
  laneFix s o.sw o.g (vNamed false o.vd ++ o.va.named false ++ o.src.named) (fun t en => perLane t en (fun l k =>
    let src := match o.src.lane t.k l with | some x => (if t.all.toNat.testBit x then x else l) | none => l
    k.pendV l o.vd.toNat (srcA32 t.k t.r o.va src) 0))

/-- VOTE (R210). -/
def execVote (o : LVote) (s : State) : Out :=
  laneFix s o.sw o.g (match o.mode with | .ballot => [o.d.toNat] | .popc => [o.d.toNat] | .any => [] | .all => [])
    (fun t en =>
      let m := en &&& t.k.pmask o.pa.toNat
      perLane t en (fun l k =>
        match o.mode with
        | .ballot => k.pendV l o.d.toNat m 0
        | .popc => k.pendV l o.d.toNat (BitVec.ofNat 32 (popN 32 m.toNat)) 0
        | .any => k.pendP l o.d.toNat (m != 0)
        | .all => k.pendP l o.d.toNat (m == en)))

/-- XPUT (R211): the first on a slot fixes the operator; each slice's partial takes its enabled lanes in ascending order. -/
def execXput (o : LXput) (s : State) : Out :=
  laneIns s o.g (o.va.named false) (fun t en =>
    let i := o.k.toNat
    match listGet none t.r.ops i with
    | some op => if op ≠ o.op then s.laneTrap t cXPMIX en en 0 else s.putCrew t.c (put t en i)
    | none => s.putCrew t.c (put t en i))
where
  /-- The partials and the operator after the instruction. -/
  put (t : LaneTurn) (en : W32) (i : Nat) : Crew :=
    let vals (j : Nat) : List W32 := (lanesOf en).filterMap (fun l => if l / 4 = j then some (srcA32 t.k t.r o.va l) else none)
    let part (j : Nat) (x : Slice) : Option W32 × Flags := partFold o.op (listGet none x.parts i) (vals j)
    let k1 := t.upd t.k (fun j x => { x with parts := listSet x.parts i (part j x).1 })
    let k2 := match k1.runNow with
      | none => k1
      | some r => k1.setRunNow { r with ops := listSet r.ops i (some o.op) }
    (t.next o.sw k2).sticky (flagsOf (t.gang.map (fun j => (part j (t.r.slice j)).2)))

/-! ### REORD (R93) -/

/-- The groups that W2 moves. -/
def liveGroups (w : W32) : List Nat := maskList 32 w.toNat

/-- A stable insertion of an entry (key, source) into a list sorted by key. -/
def keyInsert (e : Nat × Nat) : List (Nat × Nat) → List (Nat × Nat)
  | [] => [e]
  | h :: t => if e.1 < h.1 then e :: h :: t else h :: keyInsert e t

/-- The stable order by key. -/
def keySort (l : List (Nat × Nat)) : List (Nat × Nat) := l.foldl (fun m e => keyInsert e m) []

/-- The participants' arrivals in ascending sr.crew. -/
def Gather.ordered (g : Gather) : List ReordArrival :=
  (List.range 16).filterMap (fun j => g.issued.find? (fun a => a.crew == j))

/-- The keys of a participant's 32 lanes. -/
def State.reordKeys (s : State) (b : Nat) (a : ReordArrival) : List Nat :=
  match s.crew? (.blk b a.crew) with
  | none => List.replicate 32 0
  | some k =>
    match k.runNow with
    | none => List.replicate 32 0
    | some r => (List.range 32).map (fun l => (srcA32 k r a.va l).toNat % 65536)

/-- The order in which the exchange takes the participants' lanes: the source of each destination, by the keys (R93). -/
def State.reordSources (s : State) (b : Nat) (ps : List ReordArrival) : List Nat :=
  (keySort ((ps.map (s.reordKeys b)).flatten.zipIdx)).map (·.2)

/-- The gang of a whole run goes on after its REORD. -/
def Crew.reordNext (k : Crew) (sw : Bool) : Crew :=
  match k.runNow with
  | none => k
  | some r => k.setRunNow { r with
      slices := r.slices.map (fun x => if x.live then { x with pc := codeAdd x.pc 12, park := sw, wait := false } else x)
      replay := [] }

/-- The exchange of R93 for one participant: each destination is outstanding until it is delivered. -/
def State.reordCrew (s0 : State) (b : Nat) (ps : List ReordArrival) (src : List Nat) (pos : Nat) (a : ReordArrival)
    (s : State) : State :=
  s.modCrew (.blk b a.crew) (fun k =>
    let owner (e : Nat) : Nat := match ps[e / 32]? with | some x => x.crew | none => 0
    let val (e n : Nat) : W32 := match s0.crew? (.blk b (owner e)) with | some k' => k'.vread (e % 32) n | none => 0
    let lane (k : Crew) (l : Nat) : Crew :=
      let e := listGet 0 src (32 * pos + l)
      let regs := ((liveGroups a.groups).map (fun g => (List.range 8).map (fun i => 8 * g + i))).flatten
      let k1 := regs.foldl (fun k n => if n = a.vd.toNat then k else k.pendV l n (val e n) 0) k
      k1.pendV l a.vd.toNat (BitVec.ofNat 32 (owner e * 32 + e % 32)) 0
    ((List.range 32).foldl lane k).reordNext a.sw)

/-- REORD once every participant has issued: REORDSH for all when they disagree or one departed, else the exchange (R93). The faulter
mask of REORDSH is what the mask stack enables in each gang that has issued (log entry 113). -/
def State.reordDone (s : State) (b : Nat) (g : Gather) : State :=
  let ps := g.ordered
  let bad := g.broken || ps.any (fun a => !a.whole || a.groups != (ps.headD default).groups)
  let s1 := s.modBlock b (fun x => { x with gather := none })
  if bad then
    ps.foldl (fun s a =>
      match s.crew? (.blk b a.crew) with
      | none => s
      | some k =>
        match k.runNow with
        | none => s
        | some r =>
          let t := r.laneTurn (.blk b a.crew) k a.lead
          s.laneTrap t cREORDSH t.cur t.cur 0) s1
  else
    let src := s.reordSources b ps
    (ps.zipIdx).foldl (fun s' x => s.reordCrew b ps src x.2 x.1 s') s1

/-- A gathering that is complete is performed: every participant has issued, or one has departed before issuing (R93). -/
def State.settleReord (s : State) (b : Nat) : State :=
  match s.block? b with
  | none => s
  | some x =>
    match x.gather with
    | none => s
    | some g =>
      if g.broken || g.members.all (fun j => g.issued.any (fun a => a.crew == j)) then s.reordDone b g else s

/-- What a gang brings to a gathering as crew j of its block. -/
def LaneTurn.arrival (t : LaneTurn) (o : LReord) (j : Nat) : ReordArrival :=
  ⟨j, o.groups, t.gang.length == 8 && t.gang.all (fun i => (t.r.slice i).stack.isEmpty), o.vd, o.va, o.sw, t.gang.headD 0⟩

/-- The gathering of a block that a REORD joins, or the one that it opens: its participants are the members of the block then (R93). -/
def State.gathering (s : State) (b : Nat) (x : Block) : Gather :=
  match x.gather with
  | some g => g
  | none => ⟨(s.crewsOf b).filter (fun i => match s.crew? (.blk b i) with | some k => !k.growth | none => false), [], false⟩

/-- REORD (R93): it joins the block's gathering and waits. -/
def execReord (o : LReord) (s : State) : Out :=
  laneIns s noGuard (vNamed false o.vd ++ o.va.named false ++ (liveGroups o.groups).map (fun g => 8 * g)) (fun t _ =>
    match t.c with
    | .ctl _ => s
    | .blk b j =>
      match s.block? b with
      | none => s
      | some x =>
        let a := t.arrival o j
        let g := s.gathering b x
        if g.issued.any (fun y => y.crew == j) then s.putCrew t.c (t.hold t.k)
        else
          ((s.putCrew t.c (t.hold t.k)).modBlock b (fun x =>
            { x with gather := some { g with issued := g.issued ++ [a] } })).settleReord b)

end Sys2Proof.Machine
end

