-- ==== Sys2Proof/Machine/LaneMem.lean ====
section
/-!
DEFINITION. Lane memory instructions: LD, ST, PREF (R255 to R257), FENCE (R258), and ATOM with the crew atomic aggregator
(R261 to R265).
-/

namespace Sys2Proof

/-- The bytes of an access by WD (R45). -/
def Wd.bytes : Wd → Nat
  | .b8 => 1
  | .b16 => 2
  | .b32 => 4
  | .b64 => 8

end Sys2Proof

namespace Sys2Proof.Machine

/-! ### The accesses of the lanes (R255) -/

/-- One lane's access: the lane, its address and its locations. -/
structure LaneAcc where
  lane : Nat
  va   : W64
  locs : List Loc
  deriving DecidableEq, Repr

/-- What the checks of R255 found over the enabled lanes: the accesses in ascending lane order, and the lanes that failed with
their causes and addresses. -/
structure Checked where
  ok  : List LaneAcc
  bad : List (Nat × Nat × W64)
  st  : State

/-- The checks of R255 over the enabled lanes, in ascending order. -/
def State.checkLanes (s : State) (t : LaneTurn) (en : W32) (kind : AccKind) (n : Nat) (addr : Nat → W64) : Checked :=
  (lanesOf en).foldl (fun a l =>
    match a.st.access t.c kind (addr l) n with
    | (.ok ls, s1) => { a with ok := a.ok ++ [⟨l, addr l, ls⟩], st := s1 }
    | (.error e, _) => { a with bad := a.bad ++ [(l, e, a.st.failAddr t.c kind (addr l) n e)] }) ⟨[], [], s⟩

/-- Lanes as a mask. -/
def laneMask (ls : List Nat) : W32 := BitVec.ofNat 32 (listMask ls)

/-- A memory instruction after its checks, which stalls until every lane's are decided: the trap of the lowest failing lane, a stall
(R252, R301), or the effect. -/
def State.laneAccess (s : State) (t : LaneTurn) (en : W32) (kind : AccKind) (n : Nat) (addr : Nat → W64)
    (f : State → List LaneAcc → State) : State :=
  let r := s.checkLanes t en kind n addr
  if r.ok.any (fun a => undecided a.locs) then s
  else match r.bad with
  | (_, e, va) :: _ => s.laneTrap t e (laneMask (r.bad.map (·.1))) en va
  | [] =>
    if r.ok.any (fun a => s.stalledLocs (s.seat t.c) a.locs) then
      let lost := r.ok.filter (fun a => (s.lostWay (s.seat t.c) a.locs).isSome)
      s.stallStream t.c (some (t.gang.headD 0)) t.pc (lost.flatMap (·.locs)) (fun u =>
        u.laneTrap t cXPORTERR (laneMask (lost.map (·.lane))) en ((lost.map (·.va)).headD 0))
    else f r.st r.ok

/-- The address of LD, ST and PREF (R257). -/
def offAddr (t : LaneTurn) (va : SrcA) (off : W32) (l : Nat) : W64 := srcA64 t.k t.r va l + off.signExtend 64

/-- Room for the n bell stores of an instruction among the posts that wait (R129); it stalls until all of them fit (log entry 102). -/
def State.bellRoom (s : State) (n : Nat) : Bool := n == 0 || decide (s.notify.waiting.length + n ≤ 256)

/-- A late 64-bit result of a lane: two registers. -/
def Crew.pendV64 (k : Crew) (l n : Nat) (v : W64) : Crew :=
  (k.pendV l n (v.setWidth 32) 0).pendV l (n + 1) ((v >>> 32).setWidth 32) 0

/-! ### LD (R256, R257) -/

/-- The value that LD delivers. -/
def ldValue (o : LLd) (bs : List Byte) : W32 :=
  if o.sx then (sext64 (8 * o.wd.bytes) (ofBytes bs)).setWidth 32 else BitVec.ofNat 32 (ofBytes bs)

/-- LD in one lane. -/
def ldLane (s : State) (t : LaneTurn) (o : LLd) (k : Crew) (a : LaneAcc) : Crew :=
  let bs := s.readLocs t.c a.locs
  if o.wd = .b64 then k.pendV64 a.lane o.vd.toNat (BitVec.ofNat 64 (ofBytes bs))
  else k.pendV a.lane o.vd.toNat (ldValue o bs) 0

/-- The lanes that met an uncorrectable error leave a deferred MEMERR with their slice (R256). -/
def deferErr (t : LaneTurn) (bad : List LaneAcc) (j : Nat) (x : Slice) : Slice :=
  let mine := bad.filter (fun a => a.lane / 4 == j)
  match mine with
  | [] => x
  | a :: _ =>
    let e : MemErr := ⟨t.k.h, t.pc, laneMask (mine.map (·.lane)), a.va⟩
    { x with memerr := x.memerr ++ [e] }

/-- LD (R257). -/
def execLd (o : LLd) (s : State) : Out :=
  laneIns s o.g (vNamed (o.wd == .b64) o.vd ++ o.va.named true) (fun t en =>
    s.laneAccess t en .read o.wd.bytes (offAddr t o.va o.off) (fun s1 as =>
      let good := as.filter (fun a => !s.poisonedLocs a.locs)
      let bad := as.filter (fun a => s.poisonedLocs a.locs)
      let k1 := good.foldl (ldLane s t o) t.k
      s1.putCrew t.c (t.next o.sw (t.upd k1 (deferErr t bad)))))

/-! ### ST (R128, R240, R257) -/

/-- Two locations share a byte. -/
def Loc.meets (a b : Loc) : Bool :=
  match a, b with
  | .spad x o n, .spad y p m => x == y && decide (o < p + m) && decide (p < o + n)
  | .ended x r o n, .ended y q p m => x == y && r == q && decide (o < p + m) && decide (p < o + n)
  | .phys x, .phys y => decide (x.pa < y.pa + y.n) && decide (y.pa < x.pa + x.n)
  | .spad _ _ _, .ended _ _ _ _ => false
  | .spad _ _ _, .phys _ => false
  | .ended _ _ _ _, .spad _ _ _ => false
  | .ended _ _ _ _, .phys _ => false
  | .phys _, .spad _ _ _ => false
  | .phys _, .ended _ _ _ _ => false
  | .table _, _ => false
  | _, .table _ => false

/-- Byte i of a location. -/
def Loc.byte (a : Loc) (i : Nat) : Loc :=
  match a with
  | .spad b o _ => .spad b (o + i) 1
  | .ended c r o _ => .ended c r (o + i) 1
  | .phys p => .phys { p with pa := p.pa + i, n := 1 }
  | .table x => .table x

/-- A store of one single-copy atomic unit (R238): its locations and bytes. -/
abbrev StoreUnit := List Loc × List Byte

/-- The units of one lane's store: whole when it is aligned, else its bytes. -/
def storeUnits (n : Nat) (a : LaneAcc) (bs : List Byte) : List StoreUnit :=
  if a.va.toNat % n = 0 then [(a.locs, bs)]
  else (((a.locs.map (fun l => (List.range l.len).map l.byte)).flatten).zip bs).map (fun x => ([x.1], [x.2]))

/-- The permutation of a list that a number names by its factorial digits. -/
def permute {α : Type} : Nat → Nat → List α → List α
  | 0, _, l => l
  | n + 1, d, l =>
    let i := d % (n + 1)
    match l[i]? with
    | some x => x :: permute n (d / (n + 1)) (listDrop l i)
    | none => l

/-- Some pair of accesses shares a byte. -/
def anyMeet : List LaneAcc → Bool
  | [] => false
  | a :: t => t.any (fun b => a.locs.any (fun x => b.locs.any x.meets)) || anyMeet t

/-- The low bytes that ST stores for a lane. -/
def stBytes (t : LaneTurn) (o : LSt) (l : Nat) : List Byte :=
  bytesOf o.wd.bytes (if o.wd = .b64 then (t.k.vread64 l o.vb.toNat).toNat else (t.k.vread l o.vb.toNat).toNat)

/-- The stores of lanes that post nothing: in ascending lane order when no two share a byte, else the units in a free order
(R240, log entry 12). -/
def State.storePlain (s : State) (t : LaneTurn) (o : LSt) (as : List LaneAcc) : State :=
  let put (s : State) (u : StoreUnit) : State := s.writeLocs t.c false u.1 u.2
  if anyMeet as then
    let us := (as.map (fun a => storeUnits o.wd.bytes a (stBytes t o a.lane))).flatten
    let d := s.draw
    (permute us.length d.1 us).foldl put d.2
  else as.foldl (fun s a => put s (a.locs, stBytes t o a.lane)) s

/-- The bell stores of the lanes, in ascending lane order: each writes the word and posts it (R128, R129). -/
def State.storeBells (s : State) (t : LaneTurn) (o : LSt) (as : List LaneAcc) : State :=
  as.foldl (fun s a => (s.writeLocs t.c false a.locs (stBytes t o a.lane)).postBells a.locs) s

/-- ST (R257). -/
def execSt (o : LSt) (s : State) : Out :=
  laneIns s o.g (vNamed (o.wd == .b64) o.vb ++ o.va.named true) (fun t en =>
    s.laneAccess t en .write o.wd.bytes (offAddr t o.va o.off) (fun s1 as =>
      let bell (a : LaneAcc) : Bool := o.sc == .sy && !(bellsOf a.locs).isEmpty
      let bells := as.filter bell
      if !s.bellRoom bells.length then s
      else ((s1.putCrew t.c (t.next o.sw t.k)).storePlain t o (as.filter (fun a => !bell a))).storeBells t o bells))

/-- PREF (R257): a hint without visible effect. -/
def execPref (o : LPref) (s : State) : Out := laneFix s o.sw o.g (o.va.named true) (fun t _ => t.k)

/-- FENCE (R258): it orders accesses that this model already performs in order (log entry 6). -/
def execFence (o : LFence) (s : State) : Out := laneFix s o.sw noGuard [] (fun t _ => t.k)

/-! ### ATOM (R262, R263, R265) -/

/-- The address groups of the enabled lanes, in the order of their lowest lanes; the lanes of each ascend (R262). -/
def groupAccs (as : List LaneAcc) : List (List LaneAcc) :=
  as.foldl (fun gs a =>
    if gs.any (fun g => g.any (fun x => x.va == a.va)) then
      gs.map (fun g => if g.any (fun x => x.va == a.va) then g ++ [a] else g)
    else gs ++ [[a]]) []

/-- A group of operations other than fadd: the lanes one after another; the final value, and what each lane receives. -/
def scanGroup (op : AOp) (w old : Nat) (vals : List (Nat × Nat)) : Nat × List (Nat × Flags) :=
  vals.foldl (fun a v => let r := atomNew op w a.1 v.1 v.2; (r.1, a.2 ++ [(a.1, r.2)])) (old, [])

/-- A group of fadd: the running sums, then each rounded once onto the old value (R262). -/
def scanFadd (old : Nat) (bs : List Nat) : Nat × List (Nat × Flags) :=
  match bs with
  | [] => (old, [])
  | b :: t =>
    let step (a : Nat × List (Nat × Flags)) (x : Nat) : Nat × List (Nat × Flags) :=
      let got := addF32 old a.1
      let sum := addF32 a.1 x
      (sum.code, a.2 ++ [(got.code, got.flags ||| sum.flags)])
    let r := t.foldl step (b, [(old, 0)])
    let fin := addF32 old r.1
    (fin.code, match r.2 with | [] => [] | (v, f) :: u => (v, f ||| fin.flags) :: u)

/-- The operands of a lane of ATOM. -/
def atomOps (t : LaneTurn) (o : LAtom) (l : Nat) : Nat × Nat :=
  let rd (v : BitVec 9) : Nat := if o.w64 then (t.k.vread64 l v.toNat).toNat else (t.k.vread l v.toNat).toNat
  (rd o.vb, if o.op.hasC then rd o.vc else 0)

/-- The bytes of ATOM. -/
def atomBytes (o : LAtom) : Nat := if o.w64 then 8 else 4

/-- What a group's request reads and computes at the location. -/
def State.groupRun (s : State) (t : LaneTurn) (o : LAtom) (g : List LaneAcc) : Nat × List (Nat × Flags) :=
  let old := ofBytes (s.readLocs t.c (match g with | a :: _ => a.locs | [] => []))
  let vals := g.map (fun a => atomOps t o a.lane)
  if o.op = .fadd then scanFadd old (vals.map (·.1)) else scanGroup o.op (8 * atomBytes o) old vals

/-- One address group: one read-modify-write, one post when it is a bell store, and the lanes' results (R262). -/
def State.atomGroup (s : State) (t : LaneTurn) (o : LAtom) (g : List LaneAcc) : State :=
  let locs := match g with | a :: _ => a.locs | [] => []
  let r := s.groupRun t o g
  let s1 := s.writeLocs t.c false locs (bytesOf (atomBytes o) r.1)
  let s2 := if o.sc = .sy then s1.postBells locs else s1
  s2.modCrew t.c (fun k =>
    (g.zip r.2).foldl (fun k x =>
      if o.w64 then k.pendV64 x.1.lane o.vd.toNat (BitVec.ofNat 64 x.2.1)
      else k.pendV x.1.lane o.vd.toNat (BitVec.ofNat 32 x.2.1) x.2.2) k)

/-- ATOM (R265): groups that meet an uncorrectable error write nothing, and MEMERR is taken for their lanes (R263). -/
def execAtom (o : LAtom) (s : State) : Out :=
  laneIns s o.g (vNamed o.w64 o.vd ++ o.va.named true ++ vNamed o.w64 o.vb ++ (if o.op.hasC then vNamed o.w64 o.vc else []))
    (fun t en =>
      s.laneAccess t en .atomic (atomBytes o) (fun l => srcA64 t.k t.r o.va l) (fun s1 as =>
        let gs := groupAccs as
        let fails (g : List LaneAcc) : Bool := g.any (fun a => s.poisonedLocs a.locs)
        let good := gs.filter (fun g => !fails g)
        let lost := (gs.filter fails).flatten
        let bells := if o.sc = .sy then (good.filter (fun g => g.any (fun a => !(bellsOf a.locs).isEmpty))).length else 0
        if !s.bellRoom bells then s
        else
          let s2 := good.foldl (fun s g => s.atomGroup t o g) s1
          if lost.isEmpty then s2.modCrew t.c (fun k => t.next o.sw k)
          else
            let m := laneMask (lost.map (·.lane))
            let va := match (lanesOf m) with | l :: _ => srcA64 t.k t.r o.va l | [] => 0
            s2.laneTrap t cMEMERR m m va))

end Sys2Proof.Machine
end

