-- ==== Sys2Proof/Machine/Mailbox.lean ====
section
/-!
DEFINITION. The recovery mailbox, the watchdog and the operating modes (R310, R326 to R328).
-/

namespace Sys2Proof.Machine

/-- Sets MBRES.CAUSE (R327). -/
def State.mbResult (s : State) (cause : Nat) : State := { s with mbox := { s.mbox with cause := BitVec.ofNat 8 cause } }

/-- A command: with another in progress its write is ignored; one that is not allowed sets MBSTATE and does nothing else; one that
is allowed has its effect. -/
def mbCommand (s : State) (allowed : Bool) (f : State → State) : Out :=
  .next (if s.mbox.busy then s else if allowed then f s else s.mbResult cMBSTATE)

/-- STATE is one of a list (R327). -/
def State.mbIn (s : State) (l : List Nat) : Bool := l.contains s.mbox.state.toNat

/-- Sets STATE and MODE. -/
def State.mbSet (s : State) (state mode : Nat) : State :=
  { s with mbox := { s.mbox with state := BitVec.ofNat 3 state, mode := BitVec.ofNat 2 mode } }

/-- HOSTDRV (R327): the firmware core stops, and the host drives the queues from their progress words (R328). -/
def execHostdrv (s : State) : Out := mbCommand s (s.mbIn [0, 1]) (fun s => ((s.mbSet 2 3).takeUp).mbResult 0)

/-- STEP (R327, R328): one round of R123 for the queue of MBARG2 alone, by the same rules; ADV says whether HEAD advanced. -/
def execStep (s : State) : Out :=
  mbCommand s (s.mbIn [2] && !(s.queue s.mbox.queue.toNat).world) (fun s =>
    let q := s.mbox.queue.toNat
    let s1 := (s.fetchHeader q).fetchPacket q
    let s2 := if s1.laneReady q then (match s1.nextPacket q with | some p => s1.runPacket q p | none => s1) else s1
    ({ s2 with mbox := { s2.mbox with adv := (s2.queue q).head != (s.queue q).head } } : State).mbResult 0)

/-- A restart is within 2^44 aclk of the H-die of another time. -/
def recentRestarts (now : Nat) (l : List Nat) : List Nat := l.filter (fun t => decide (now ≤ t + 2 ^ 44))

/-- The image of a RESTART is verified (R327): the held one, or else the copies of the flash. -/
def State.tryImage (s : State) (r : RestartImages) : Bool × State :=
  if s.mbox.held then (s.imageOk r.held, s) else s.tryFlash r.copy0 r.copy1

/-- RESTART (R327): the Porter verifies the image and restarts the firmware core; when that fails, the firmware core stays stopped, and
only the result tells it. More than three restarts within 2^44 aclk set REPL with reason 9 (R330). -/
def execRestart (images : RestartImages) (s : State) : Out :=
  mbCommand s (s.mbIn [1, 2, 4]) (fun s =>
    let r := s.tryImage images
    if r.1 then
      let s1 := (r.2.firmwareStart).mbSet 0 0
      let times := recentRestarts s1.hclk s1.mbox.times ++ [s1.hclk]
      let s2 : State := { s1 with mbox := { s1.mbox with restarts := s1.mbox.restarts + 1, times := times } }
      (if 3 < times.length then s2.replace 9 0 else s2).mbResult 0
    else r.2.mbResult cIMGBAD)

/-- LOADIMG (R327): the Porter copies and verifies an image; a verified one is held. -/
def execLoadimg (img : ImageCheck) (s : State) : Out :=
  mbCommand s (s.mbIn [1, 2, 4]) (fun s =>
    if s.imageOk img then ({ s with mbox := { s.mbox with held := true } } : State).mbResult 0 else s.mbResult cIMGBAD)

/-- RESUME (R327): the firmware core goes on without being loaded again. -/
def execResume (s : State) : Out := mbCommand s (s.mbIn [2]) (fun s => ((s.firmwareStart).mbSet 0 0).mbResult 0)

/-- A launch counter is live (R108, R310). -/
def State.launchLive (s : State) : Bool := s.units.any (fun u => u.level == .lch && u.unfinished)

/-- TESTON (R310, R327): from normal service, while no launch counter is live. -/
def execTeston (s : State) : Out :=
  mbCommand s (s.mbIn [0] && s.mbox.mode == 0 && !s.launchLive) (fun s => (s.mbSet 0 2).mbResult 0)

/-- TESTOFF (R310, R327): back from the test mode to normal service. -/
def execTestoff (s : State) : Out := mbCommand s (s.mbIn [0] && s.mbox.mode == 2) (fun s => (s.mbSet 0 0).mbResult 0)

/-- UNLISTED_MAILBOX_COMMAND (R327): a command value that is not listed sets MBSTATE. -/
def execUnlistedMailboxCommand (cmd : BitVec 4) (s : State) : Out :=
  if 1 ≤ cmd.toNat ∧ cmd.toNat ≤ 7 then .next s else mbCommand s false (fun s => s)

/-- WATCHDOG (R326): the firmware core has not reset the watchdog for 2^31 aclk of the H-die: it is hung, and scheduling is frozen. -/
def execWatchdog (s : State) : Out :=
  .next (
    if s.firmwareRuns && decide (s.mbox.wdStart.toNat + 2 ^ 31 ≤ s.hclk) then
      { s.mbSet 1 3 with round := [] }
    else s)

end Sys2Proof.Machine
end

