-- ==== Sys2Proof/Machine/Scalar.lean ====
section
/-!
DEFINITION. The scalar ALU, division, compare, select and constant instructions (R188 to R192).
-/

namespace Sys2Proof.Machine

/-! ### Results (R188, R189, R190) -/

/-- Bits [127:64] of the exact product of two i64. -/
def mulHigh (a b : W64) : W64 := BitVec.ofInt 64 (a.toInt * b.toInt / 2 ^ 64)

/-- The shift count of a register: bits [5:0]. -/
def shCount (b : W64) : Nat := b.toNat % 64

/-- The smaller and the larger of two i64 and of two u64. -/
def minS (a b : W64) : W64 := if a.slt b then a else b
def maxS (a b : W64) : W64 := if a.slt b then b else a
def minU (a b : W64) : W64 := if a.ult b then a else b
def maxU (a b : W64) : W64 := if a.ult b then b else a

/-- Division with truncation toward zero; a zero divisor gives the value of the table of R189, with DZ. -/
def divUR (a b : W64) : W64 × Flags := if b = 0 then (0xFFFFFFFFFFFFFFFF, flagDZ) else (a / b, 0)
def divSR (a b : W64) : W64 × Flags := if b = 0 then (0xFFFFFFFFFFFFFFFF, flagDZ) else (a.sdiv b, 0)
def remUR (a b : W64) : W64 × Flags := if b = 0 then (a, flagDZ) else (a % b, 0)

/-- The scalar conditions (R190). -/
def scondHolds (c : SCond) (a b : W64) : Bool :=
  match c with
  | .eq => a == b
  | .ne => a != b
  | .lt => a.slt b
  | .ge => !a.slt b
  | .ltu => a.ult b
  | .geu => !a.ult b
  | .any => (a &&& b) != 0
  | .none => (a &&& b) == 0

/-! ### Shapes of effect -/

/-- A fixed-latency result of ra and rb into rd. -/
def aluRR (f : W64 → W64 → W64) (o : OpDAB) (s : State) : Out :=
  scalarIns s (fun c k => s.putCrew c ((k.swrite o.rd (f (s.sread c k o.ra) (s.sread c k o.rb))).next o.sw))

/-- A fixed-latency result of ra and the sign-extended imm10 into rd. -/
def aluRI (f : W64 → W64 → W64) (o : OpDAI) (s : State) : Out :=
  scalarIns s (fun c k => s.putCrew c ((k.swrite o.rd (f (s.sread c k o.ra) (imm10S o.imm))).next o.sw))

/-- A shift of ra by a constant into rd. -/
def aluSh (f : W64 → Nat → W64) (o : OpShI) (s : State) : Out :=
  scalarIns s (fun c k => s.putCrew c ((k.swrite o.rd (f (s.sread c k o.ra) o.cnt.toNat)).next o.sw))

/-- A variable-latency division of ra by rb into rd, with its flags (R46, R187). -/
def aluDiv (f : W64 → W64 → W64 × Flags) (o : OpDAB) (s : State) : Out :=
  scalarIns s (fun c k =>
    let v := f (s.sread c k o.ra) (s.sread c k o.rb)
    s.putCrew c ((k.pendS o.rd v.1 v.2).next o.sw))

/-! ### Meanings -/

/-- ADD (R188). -/
def execAdd (o : OpDAB) (s : State) : Out :=
  aluRR (fun a b => a + b) o s

/-- SUB (R188). -/
def execSub (o : OpDAB) (s : State) : Out :=
  aluRR (fun a b => a - b) o s

/-- MUL (R188). -/
def execMul (o : OpDAB) (s : State) : Out :=
  aluRR (fun a b => a * b) o s

/-- MULH (R188). -/
def execMulh (o : OpDAB) (s : State) : Out :=
  aluRR mulHigh o s

/-- DIVU (R189). -/
def execDivu (o : OpDAB) (s : State) : Out :=
  aluDiv divUR o s

/-- DIVS (R189). -/
def execDivs (o : OpDAB) (s : State) : Out :=
  aluDiv divSR o s

/-- REMU (R189). -/
def execRemu (o : OpDAB) (s : State) : Out :=
  aluDiv remUR o s

/-- AND (R188). -/
def execAnd (o : OpDAB) (s : State) : Out :=
  aluRR (fun a b => a &&& b) o s

/-- OR (R188). -/
def execOr (o : OpDAB) (s : State) : Out :=
  aluRR (fun a b => a ||| b) o s

/-- XOR (R188). -/
def execXor (o : OpDAB) (s : State) : Out :=
  aluRR (fun a b => a ^^^ b) o s

/-- SHL (R188). -/
def execShl (o : OpDAB) (s : State) : Out :=
  aluRR (fun a b => a <<< shCount b) o s

/-- SHR (R188). -/
def execShr (o : OpDAB) (s : State) : Out :=
  aluRR (fun a b => a >>> shCount b) o s

/-- SAR (R188). -/
def execSar (o : OpDAB) (s : State) : Out :=
  aluRR (fun a b => a.sshiftRight (shCount b)) o s

/-- MIN (R188). -/
def execMin (o : OpDAB) (s : State) : Out :=
  aluRR minS o s

/-- MAX (R188). -/
def execMax (o : OpDAB) (s : State) : Out :=
  aluRR maxS o s

/-- MINU (R188). -/
def execMinu (o : OpDAB) (s : State) : Out :=
  aluRR minU o s

/-- MAXU (R188). -/
def execMaxu (o : OpDAB) (s : State) : Out :=
  aluRR maxU o s

/-- CMP with a register (R190). -/
def execCmp (o : OpCmp) (s : State) : Out :=
  scalarIns s (fun c k =>
    s.putCrew c ((k.qwrite o.qd (scondHolds o.cond (s.sread c k o.ra) (s.sread c k o.rb))).next o.sw))

/-- SEL (R191). -/
def execSel (o : OpDABX) (s : State) : Out :=
  scalarIns s (fun c k =>
    s.putCrew c ((k.swrite o.rd (if k.qread o.x then s.sread c k o.ra else s.sread c k o.rb)).next o.sw))

/-- ADD with an immediate (R188, R40). -/
def execAddImm (o : OpDAI) (s : State) : Out :=
  aluRI (fun a b => a + b) o s

/-- MUL with an immediate (R188, R40). -/
def execMulImm (o : OpDAI) (s : State) : Out :=
  aluRI (fun a b => a * b) o s

/-- AND with an immediate (R188, R40). -/
def execAndImm (o : OpDAI) (s : State) : Out :=
  aluRI (fun a b => a &&& b) o s

/-- OR with an immediate (R188, R40). -/
def execOrImm (o : OpDAI) (s : State) : Out :=
  aluRI (fun a b => a ||| b) o s

/-- XOR with an immediate (R188, R40). -/
def execXorImm (o : OpDAI) (s : State) : Out :=
  aluRI (fun a b => a ^^^ b) o s

/-- SHL with an immediate (R188, R40). -/
def execShlImm (o : OpShI) (s : State) : Out :=
  aluSh (fun a n => a <<< n) o s

/-- SHR with an immediate (R188, R40). -/
def execShrImm (o : OpShI) (s : State) : Out :=
  aluSh (fun a n => a >>> n) o s

/-- SAR with an immediate (R188, R40). -/
def execSarImm (o : OpShI) (s : State) : Out :=
  aluSh (fun a n => a.sshiftRight n) o s

/-- CMP with an immediate (R190). -/
def execCmpImm (o : OpCmpI) (s : State) : Out :=
  scalarIns s (fun c k =>
    s.putCrew c ((k.qwrite o.qd (scondHolds o.cond (s.sread c k o.ra) (imm10S o.imm))).next o.sw))

/-- LI (R192). -/
def execLi (o : OpDL) (s : State) : Out :=
  scalarIns s (fun c k => s.putCrew c ((k.swrite o.rd (imm17S o.imm)).next o.sw))

/-- LIH (R192): sd is read as it stands. -/
def execLih (o : OpDL) (s : State) : Out :=
  scalarIns s (fun c k =>
    s.putCrew c ((k.swrite o.rd (((s.sread c k o.rd) <<< 17) ||| o.imm.setWidth 64)).next o.sw))

end Sys2Proof.Machine
end

