-- ==== Sys2Proof/Machine/Dispatch.lean ====
section
/-!
DEFINITION. The meaning of every instruction: one arm per constructor of Instr, each one direct call of its meaning.
-/

namespace Sys2Proof.Machine

def exec (i : Instr) (s : State) : Host.Outcome State Fault Refusal :=
  match i with
  | .add o => Sys2Proof.Machine.execAdd o s
  | .sub o => Sys2Proof.Machine.execSub o s
  | .mul o => Sys2Proof.Machine.execMul o s
  | .mulh o => Sys2Proof.Machine.execMulh o s
  | .divu o => Sys2Proof.Machine.execDivu o s
  | .divs o => Sys2Proof.Machine.execDivs o s
  | .remu o => Sys2Proof.Machine.execRemu o s
  | .and o => Sys2Proof.Machine.execAnd o s
  | .or o => Sys2Proof.Machine.execOr o s
  | .xor o => Sys2Proof.Machine.execXor o s
  | .shl o => Sys2Proof.Machine.execShl o s
  | .shr o => Sys2Proof.Machine.execShr o s
  | .sar o => Sys2Proof.Machine.execSar o s
  | .min o => Sys2Proof.Machine.execMin o s
  | .max o => Sys2Proof.Machine.execMax o s
  | .minu o => Sys2Proof.Machine.execMinu o s
  | .maxu o => Sys2Proof.Machine.execMaxu o s
  | .cmp o => Sys2Proof.Machine.execCmp o s
  | .sel o => Sys2Proof.Machine.execSel o s
  | .addImm o => Sys2Proof.Machine.execAddImm o s
  | .mulImm o => Sys2Proof.Machine.execMulImm o s
  | .andImm o => Sys2Proof.Machine.execAndImm o s
  | .orImm o => Sys2Proof.Machine.execOrImm o s
  | .xorImm o => Sys2Proof.Machine.execXorImm o s
  | .shlImm o => Sys2Proof.Machine.execShlImm o s
  | .shrImm o => Sys2Proof.Machine.execShrImm o s
  | .sarImm o => Sys2Proof.Machine.execSarImm o s
  | .cmpImm o => Sys2Proof.Machine.execCmpImm o s
  | .li o => Sys2Proof.Machine.execLi o s
  | .lih o => Sys2Proof.Machine.execLih o s
  | .ljoin o => Sys2Proof.Machine.execLjoin o s
  | .b o => Sys2Proof.Machine.execB o s
  | .bq o => Sys2Proof.Machine.execBq o s
  | .bqN o => Sys2Proof.Machine.execBqN o s
  | .call o => Sys2Proof.Machine.execCall o s
  | .callReg o => Sys2Proof.Machine.execCallReg o s
  | .ret o => Sys2Proof.Machine.execRet o s
  | .jr o => Sys2Proof.Machine.execJr o s
  | .loop o => Sys2Proof.Machine.execLoop o s
  | .sldU8 o => Sys2Proof.Machine.execSldU8 o s
  | .sldU16 o => Sys2Proof.Machine.execSldU16 o s
  | .sldU32 o => Sys2Proof.Machine.execSldU32 o s
  | .sld64 o => Sys2Proof.Machine.execSld64 o s
  | .sldI8 o => Sys2Proof.Machine.execSldI8 o s
  | .sldI16 o => Sys2Proof.Machine.execSldI16 o s
  | .sldI32 o => Sys2Proof.Machine.execSldI32 o s
  | .sfence o => Sys2Proof.Machine.execSfence o s
  | .sst8 o => Sys2Proof.Machine.execSst8 o s
  | .sst16 o => Sys2Proof.Machine.execSst16 o s
  | .sst32 o => Sys2Proof.Machine.execSst32 o s
  | .sst64 o => Sys2Proof.Machine.execSst64 o s
  | .lrun o => Sys2Proof.Machine.execLrun o s
  | .lrunReg o => Sys2Proof.Machine.execLrunReg o s
  | .trap o => Sys2Proof.Machine.execTrap o s
  | .eret o => Sys2Proof.Machine.execEret o s
  | .satomAdd32 o => Sys2Proof.Machine.execSatomAdd32 o s
  | .satomAnd32 o => Sys2Proof.Machine.execSatomAnd32 o s
  | .satomOr32 o => Sys2Proof.Machine.execSatomOr32 o s
  | .satomXor32 o => Sys2Proof.Machine.execSatomXor32 o s
  | .satomMin32 o => Sys2Proof.Machine.execSatomMin32 o s
  | .satomMax32 o => Sys2Proof.Machine.execSatomMax32 o s
  | .satomMinu32 o => Sys2Proof.Machine.execSatomMinu32 o s
  | .satomMaxu32 o => Sys2Proof.Machine.execSatomMaxu32 o s
  | .satomAdd64 o => Sys2Proof.Machine.execSatomAdd64 o s
  | .satomAnd64 o => Sys2Proof.Machine.execSatomAnd64 o s
  | .satomOr64 o => Sys2Proof.Machine.execSatomOr64 o s
  | .satomXor64 o => Sys2Proof.Machine.execSatomXor64 o s
  | .satomMin64 o => Sys2Proof.Machine.execSatomMin64 o s
  | .satomMax64 o => Sys2Proof.Machine.execSatomMax64 o s
  | .satomMinu64 o => Sys2Proof.Machine.execSatomMinu64 o s
  | .satomMaxu64 o => Sys2Proof.Machine.execSatomMaxu64 o s
  | .satomXchg32 o => Sys2Proof.Machine.execSatomXchg32 o s
  | .satomCas32 o => Sys2Proof.Machine.execSatomCas32 o s
  | .satomFadd32 o => Sys2Proof.Machine.execSatomFadd32 o s
  | .satomIncw32 o => Sys2Proof.Machine.execSatomIncw32 o s
  | .satomBfadd32 o => Sys2Proof.Machine.execSatomBfadd32 o s
  | .mfsr o => Sys2Proof.Machine.execMfsr o s
  | .mtsr o => Sys2Proof.Machine.execMtsr o s
  | .brk o => Sys2Proof.Machine.execBrk o s
  | .satomXchg64 o => Sys2Proof.Machine.execSatomXchg64 o s
  | .satomCas64 o => Sys2Proof.Machine.execSatomCas64 o s
  | .satomIncw64 o => Sys2Proof.Machine.execSatomIncw64 o s
  | .satomBfadd64 o => Sys2Proof.Machine.execSatomBfadd64 o s
  | .halt o => Sys2Proof.Machine.execHalt o s
  | .nop o => Sys2Proof.Machine.execNop o s
  | .tshape o => Sys2Proof.Machine.execTshape o s
  | .tld o => Sys2Proof.Machine.execTld o s
  | .tst o => Sys2Proof.Machine.execTst o s
  | .tgath o => Sys2Proof.Machine.execTgath o s
  | .tscat o => Sys2Proof.Machine.execTscat o s
  | .tred o => Sys2Proof.Machine.execTred o s
  | .twait o => Sys2Proof.Machine.execTwait o s
  | .tgive o => Sys2Proof.Machine.execTgive o s
  | .ovload o => Sys2Proof.Machine.execOvload o s
  | .wloadImg o => Sys2Proof.Machine.execWloadImg o s
  | .wloadTile o => Sys2Proof.Machine.execWloadTile o s
  | .gang o => Sys2Proof.Machine.execGang o s
  | .mma o => Sys2Proof.Machine.execMma o s
  | .mxpop o => Sys2Proof.Machine.execMxpop o s
  | .mdist o => Sys2Proof.Machine.execMdist o s
  | .msmax o => Sys2Proof.Machine.execMsmax o s
  | .mnorm o => Sys2Proof.Machine.execMnorm o s
  | .mmerge o => Sys2Proof.Machine.execMmerge o s
  | .mdrain o => Sys2Proof.Machine.execMdrain o s
  | .mzeroAcq o => Sys2Proof.Machine.execMzeroAcq o s
  | .mzeroClr o => Sys2Proof.Machine.execMzeroClr o s
  | .mzeroRel o => Sys2Proof.Machine.execMzeroRel o s
  | .barrive o => Sys2Proof.Machine.execBarrive o s
  | .bwait o => Sys2Proof.Machine.execBwait o s
  | .btest o => Sys2Proof.Machine.execBtest o s
  | .attach o => Sys2Proof.Machine.execAttach o s
  | .detach o => Sys2Proof.Machine.execDetach o s
  | .claim o => Sys2Proof.Machine.execClaim o s
  | .release o => Sys2Proof.Machine.execRelease o s
  | .yield o => Sys2Proof.Machine.execYield o s
  | .wcancel o => Sys2Proof.Machine.execWcancel o s
  | .wdone o => Sys2Proof.Machine.execWdone o s
  | .sqadmit o => Sys2Proof.Machine.execSqadmit o s
  | .sqnext o => Sys2Proof.Machine.execSqnext o s
  | .sqret o => Sys2Proof.Machine.execSqret o s
  | .pgalloc o => Sys2Proof.Machine.execPgalloc o s
  | .pgref o => Sys2Proof.Machine.execPgref o s
  | .pgdrop o => Sys2Proof.Machine.execPgdrop o s
  | .pgfork o => Sys2Proof.Machine.execPgfork o s
  | .pgmove o => Sys2Proof.Machine.execPgmove o s
  | .pgsend o => Sys2Proof.Machine.execPgsend o s
  | .sieveArm o => Sys2Proof.Machine.execSieveArm o s
  | .sieveRead o => Sys2Proof.Machine.execSieveRead o s
  | .sieveDisarm o => Sys2Proof.Machine.execSieveDisarm o s
  | .sampleDraw o => Sys2Proof.Machine.execSampleDraw o s
  | .sampleVfy o => Sys2Proof.Machine.execSampleVfy o s
  | .iadd o => Sys2Proof.Machine.execIadd o s
  | .isub o => Sys2Proof.Machine.execIsub o s
  | .imul o => Sys2Proof.Machine.execImul o s
  | .imulh o => Sys2Proof.Machine.execImulh o s
  | .imad o => Sys2Proof.Machine.execImad o s
  | .imin o => Sys2Proof.Machine.execImin o s
  | .imax o => Sys2Proof.Machine.execImax o s
  | .iand o => Sys2Proof.Machine.execIand o s
  | .ior o => Sys2Proof.Machine.execIor o s
  | .ixor o => Sys2Proof.Machine.execIxor o s
  | .ishl o => Sys2Proof.Machine.execIshl o s
  | .ishr o => Sys2Proof.Machine.execIshr o s
  | .isar o => Sys2Proof.Machine.execIsar o s
  | .ipop o => Sys2Proof.Machine.execIpop o s
  | .iclz o => Sys2Proof.Machine.execIclz o s
  | .ibfe o => Sys2Proof.Machine.execIbfe o s
  | .ibfi o => Sys2Proof.Machine.execIbfi o s
  | .fadd o => Sys2Proof.Machine.execFadd o s
  | .fsub o => Sys2Proof.Machine.execFsub o s
  | .fmul o => Sys2Proof.Machine.execFmul o s
  | .ffma o => Sys2Proof.Machine.execFfma o s
  | .fmin o => Sys2Proof.Machine.execFmin o s
  | .fmax o => Sys2Proof.Machine.execFmax o s
  | .frnd o => Sys2Proof.Machine.execFrnd o s
  | .exp2 o => Sys2Proof.Machine.execExp2 o s
  | .log2 o => Sys2Proof.Machine.execLog2 o s
  | .rcp o => Sys2Proof.Machine.execRcp o s
  | .rsq o => Sys2Proof.Machine.execRsq o s
  | .sqrt o => Sys2Proof.Machine.execSqrt o s
  | .tanh o => Sys2Proof.Machine.execTanh o s
  | .cvt o => Sys2Proof.Machine.execCvt o s
  | .pack o => Sys2Proof.Machine.execPack o s
  | .unpack o => Sys2Proof.Machine.execUnpack o s
  | .icmp o => Sys2Proof.Machine.execIcmp o s
  | .fcmp o => Sys2Proof.Machine.execFcmp o s
  | .pand o => Sys2Proof.Machine.execPand o s
  | .por o => Sys2Proof.Machine.execPor o s
  | .pxor o => Sys2Proof.Machine.execPxor o s
  | .pnot o => Sys2Proof.Machine.execPnot o s
  | .pmov o => Sys2Proof.Machine.execPmov o s
  | .mov o => Sys2Proof.Machine.execMov o s
  | .movi o => Sys2Proof.Machine.execMovi o s
  | .laneSel o => Sys2Proof.Machine.execLaneSel o s
  | .shfl o => Sys2Proof.Machine.execShfl o s
  | .vote o => Sys2Proof.Machine.execVote o s
  | .xput o => Sys2Proof.Machine.execXput o s
  | .reord o => Sys2Proof.Machine.execReord o s
  | .ld o => Sys2Proof.Machine.execLd o s
  | .st o => Sys2Proof.Machine.execSt o s
  | .pref o => Sys2Proof.Machine.execPref o s
  | .atom o => Sys2Proof.Machine.execAtom o s
  | .fence o => Sys2Proof.Machine.execFence o s
  | .braDivergent o => Sys2Proof.Machine.execBraDivergent o s
  | .braLeave o => Sys2Proof.Machine.execBraLeave o s
  | .braJump o => Sys2Proof.Machine.execBraJump o s
  | .join o => Sys2Proof.Machine.execJoin o s
  | .regang o => Sys2Proof.Machine.execRegang o s
  | .lend o => Sys2Proof.Machine.execLend o s
  | .ltrap o => Sys2Proof.Machine.execLtrap o s
  | .resultDelivery c k => Sys2Proof.Machine.execResultDelivery c k s
  | .deferredMemerr c st => Sys2Proof.Machine.execDeferredMemerr c st s
  | .deferredTileFault c => Sys2Proof.Machine.execDeferredTileFault c s
  | .copyFaultTrap c => Sys2Proof.Machine.execCopyFaultTrap c s
  | .claimGrant core => Sys2Proof.Machine.execClaimGrant core s
  | .claimDeadlock core => Sys2Proof.Machine.execClaimDeadlock core s
  | .growCrew core => Sys2Proof.Machine.execGrowCrew core s
  | .shrinkRequest core => Sys2Proof.Machine.execShrinkRequest core s
  | .shrinkGraceExpiry core => Sys2Proof.Machine.execShrinkGraceExpiry core s
  | .preempt block => Sys2Proof.Machine.execPreempt block s
  | .blockResume block => Sys2Proof.Machine.execBlockResume block s
  | .placeBlock => Sys2Proof.Machine.execPlaceBlock s
  | .issueStarvation c lane => Sys2Proof.Machine.execIssueStarvation c lane s
  | .cancelDone unit => Sys2Proof.Machine.execCancelDone unit s
  | .mosStep core k => Sys2Proof.Machine.execMosStep core k s
  | .gangTimeout core k => Sys2Proof.Machine.execGangTimeout core k s
  | .copyComplete core k => Sys2Proof.Machine.execCopyComplete core k s
  | .copyAbandon core k why => Sys2Proof.Machine.execCopyAbandon core k why s
  | .slowPath core k ok => Sys2Proof.Machine.execSlowPath core k ok s
  | .overlayArrived st slot => Sys2Proof.Machine.execOverlayArrived st slot s
  | .migrationComplete k => Sys2Proof.Machine.execMigrationComplete k s
  | .ackgenUpdate asid => Sys2Proof.Machine.execAckgenUpdate asid s
  | .bellPost => Sys2Proof.Machine.execBellPost s
  | .pgsendAck ctx code => Sys2Proof.Machine.execPgsendAck ctx code s
  | .ftmapRequest => Sys2Proof.Machine.execFtmapRequest s
  | .lfailWrite c v => Sys2Proof.Machine.execLfailWrite c v s
  | .nopPacket q len => Sys2Proof.Machine.execNopPacket q len s
  | .jobPacket q o => Sys2Proof.Machine.execJobPacket q o s
  | .phasePacket q o => Sys2Proof.Machine.execPhasePacket q o s
  | .graphPacket q o => Sys2Proof.Machine.execGraphPacket q o s
  | .launchPacket q addr => Sys2Proof.Machine.execLaunchPacket q addr s
  | .predSkip q o => Sys2Proof.Machine.execPredSkip q o s
  | .predWait q o => Sys2Proof.Machine.execPredWait q o s
  | .predTimeout q => Sys2Proof.Machine.execPredTimeout q s
  | .loopPacket q count body => Sys2Proof.Machine.execLoopPacket q count body s
  | .indPacket q len addr => Sys2Proof.Machine.execIndPacket q len addr s
  | .ffence q => Sys2Proof.Machine.execFfence q s
  | .sread q o => Sys2Proof.Machine.execSread q o s
  | .illFormedPacket q => Sys2Proof.Machine.execIllFormedPacket q s
  | .sreadCompletion drive cid status => Sys2Proof.Machine.execSreadCompletion drive cid status s
  | .sreadTimeout drive cid => Sys2Proof.Machine.execSreadTimeout drive cid s
  | .qtailWrite q w => Sys2Proof.Machine.execQtailWrite q w s
  | .qcfgWrite q v => Sys2Proof.Machine.execQcfgWrite q v s
  | .qstatResume q => Sys2Proof.Machine.execQstatResume q s
  | .qstatFlagClear q tailerr ovf => Sys2Proof.Machine.execQstatFlagClear q tailerr ovf s
  | .qrootWrite q part v => Sys2Proof.Machine.execQrootWrite q part v s
  | .qgenWrite q => Sys2Proof.Machine.execQgenWrite q s
  | .ntheadWrite w => Sys2Proof.Machine.execNtheadWrite w s
  | .ntcfgWrite v => Sys2Proof.Machine.execNtcfgWrite v s
  | .registerWrite off width v => Sys2Proof.Machine.execRegisterWrite off width v s
  | .hostdrv => Sys2Proof.Machine.execHostdrv s
  | .step => Sys2Proof.Machine.execStep s
  | .restart images => Sys2Proof.Machine.execRestart images s
  | .loadimg img => Sys2Proof.Machine.execLoadimg img s
  | .resume => Sys2Proof.Machine.execResume s
  | .teston => Sys2Proof.Machine.execTeston s
  | .testoff => Sys2Proof.Machine.execTestoff s
  | .watchdog => Sys2Proof.Machine.execWatchdog s
  | .powerUp copy0 copy1 => Sys2Proof.Machine.execPowerUp copy0 copy1 s
  | .attestChiplet chiplet r => Sys2Proof.Machine.execAttestChiplet chiplet r s
  | .spdmTimeout chiplet => Sys2Proof.Machine.execSpdmTimeout chiplet s
  | .declareService => Sys2Proof.Machine.execDeclareService s
  | .tenantRequest viaSession r => Sys2Proof.Machine.execTenantRequest viaSession r s
  | .worldChange g secure => Sys2Proof.Machine.execWorldChange g secure s
  | .shutterFlitTimeout link => Sys2Proof.Machine.execShutterFlitTimeout link s
  | .keySwitch link k => Sys2Proof.Machine.execKeySwitch link k s
  | .flitCrcFailure link seq => Sys2Proof.Machine.execFlitCrcFailure link seq s
  | .tamperEvent link => Sys2Proof.Machine.execTamperEvent link s
  | .singleDieReset chiplet r => Sys2Proof.Machine.execSingleDieReset chiplet r s
  | .peerSession port endpoint sameWorld policyOk map => Sys2Proof.Machine.execPeerSession port endpoint sameWorld policyOk map s
  | .peerAccess port endpoint a => Sys2Proof.Machine.execPeerAccess port endpoint a s
  | .endpointClose port endpoint => Sys2Proof.Machine.execEndpointClose port endpoint s
  | .peerAccessTimeout k => Sys2Proof.Machine.execPeerAccessTimeout k s
  | .hostMemoryAccess a => Sys2Proof.Machine.execHostMemoryAccess a s
  | .softErrorCorrected chiplet => Sys2Proof.Machine.execSoftErrorCorrected chiplet s
  | .sramUncorrectable loc => Sys2Proof.Machine.execSramUncorrectable loc s
  | .coreRetire core => Sys2Proof.Machine.execCoreRetire core s
  | .thermalThrottle chiplet raise voltage => Sys2Proof.Machine.execThermalThrottle chiplet raise voltage s
  | .criticalTemperature chiplet => Sys2Proof.Machine.execCriticalTemperature chiplet s
  | .illegalInstruction => Sys2Proof.Machine.execIllegalInstruction s
  | .instructionFetchFault => Sys2Proof.Machine.execInstructionFetchFault s
  | .unlistedMailboxCommand cmd => Sys2Proof.Machine.execUnlistedMailboxCommand cmd s
  | .powerOff => Sys2Proof.Machine.execPowerOff s
  | .packageReset => Sys2Proof.Machine.execPackageReset s
  | .inboundHandoff h => Sys2Proof.Machine.execInboundHandoff h s
  | .packetAuthenticationFailure port endpoint => Sys2Proof.Machine.execPacketAuthenticationFailure port endpoint s
  | .flitGroupAccepted link seq tagOk => Sys2Proof.Machine.execFlitGroupAccepted link seq tagOk s
  | .pageMigrationEngineMove ctx page tier => Sys2Proof.Machine.execPageMigrationEngineMove ctx page tier s
  | .controlCrewStart o => Sys2Proof.Machine.execControlCrewStart o s

end Sys2Proof.Machine
end

