-- ==== Sys2Proof/Machine/Turns.lean ====
section
/-!
DEFINITION. Turns: who moves in a step (log entry 4), how far the clocks run (R31, log entry 5), and which instruction the
turn executes.
-/

namespace Sys2Proof

/-- The operations and events that a turn of their own runs: everything but the instructions of streams, the packets, and the
two steps of a stream that has no decoded instruction. -/
def Instr.isEvent : Instr → Bool
  | .resultDelivery _ _ | .deferredMemerr _ _ | .deferredTileFault _ | .copyFaultTrap _ | .claimGrant _ | .claimDeadlock _
  | .growCrew _ | .shrinkRequest _ | .shrinkGraceExpiry _ | .preempt _ | .blockResume _ | .placeBlock | .issueStarvation _ _
  | .cancelDone _ | .mosStep _ _ | .gangTimeout _ _ | .copyComplete _ _ | .copyAbandon _ _ _ | .slowPath _ _ _
  | .overlayArrived _ _ | .migrationComplete _ | .ackgenUpdate _ | .bellPost | .pgsendAck _ _ | .ftmapRequest => true
  | .predTimeout _ | .sreadCompletion _ _ _ | .sreadTimeout _ _ | .qtailWrite _ _ | .qcfgWrite _ _ | .qstatResume _
  | .qstatFlagClear _ _ _ | .qrootWrite _ _ _ | .qgenWrite _ | .ntheadWrite _ | .ntcfgWrite _ | .registerWrite _ _ _
  | .hostdrv | .step | .restart _ | .loadimg _ | .resume | .teston | .testoff | .watchdog | .powerUp _ _
  | .attestChiplet _ _ | .spdmTimeout _ | .declareService | .tenantRequest _ _ | .worldChange _ _ | .shutterFlitTimeout _
  | .keySwitch _ _ | .flitCrcFailure _ _ | .tamperEvent _ | .singleDieReset _ _ | .peerSession _ _ _ _ _
  | .peerAccess _ _ _ | .endpointClose _ _ | .peerAccessTimeout _ | .hostMemoryAccess _ | .softErrorCorrected _
  | .sramUncorrectable _ | .coreRetire _ | .thermalThrottle _ _ _ | .criticalTemperature _ | .unlistedMailboxCommand _
  | .powerOff | .packageReset | .inboundHandoff _ | .packetAuthenticationFailure _ _ | .flitGroupAccepted _ _ _
  | .pageMigrationEngineMove _ _ _ | .controlCrewStart _ => true
  | _ => false

end Sys2Proof

namespace Sys2Proof.Machine

/-- The next turn: the oldest of the agenda, else a free value (log entry 4). -/
def State.pick (s : State) : Turn × State :=
  match s.agenda with
  | t :: r => (t, { s with agenda := r })
  | [] => (Config.freeTurn s.draws, { s with draws := s.draws + 1 })

/-- The cycle counter of every die advances by a free amount while the package is powered (R30, R31, log entry 5). -/
def State.tick (s : State) : State :=
  let adv (i : Nat) (x : W64) : W64 := if s.powered then x + BitVec.ofNat 64 (Config.freeTicks s.draws i) else x
  { s with clk := ⟨adv 0 s.clk.h, adv 1 s.clk.c0, adv 2 s.clk.c1, adv 3 s.clk.f0, adv 4 s.clk.f1⟩ }

/-- Every gathering of a REORD that is complete, or that a departed participant has broken, is performed (R93). -/
def State.settleReords (s : State) : State := s.blocks.foldl (fun s p => s.settleReord p.1) s

/-- What the firmware does whenever it runs: it resets the watchdog (R326), loads the supervisor image again where it was lost
(R324), and starts a control crew that has stopped (R314). -/
def State.firmwareWork (s : State) : State :=
  if s.firmwareRuns then
    let s1 : State := { s with mbox := { s.mbox with wdStart := s.clk.h }, sup := { s.sup with lost := [] } }
    [0, 1].foldl (fun s d =>
      if (s.ctl d).started && (s.crew? (.ctl d)).isNone && !s.shuttered (1 + d) then s.startCtl d else s) s1
  else s

/-- What a turn does before it executes: a lane of the firmware core takes its place in a round and reads its packet, and an idle
turn may read a queue's words ahead (R123, R127). -/
def State.beginFront (s : State) (t : Turn) : State :=
  match t with
  | .frontEnd q => s.firmwareWork.beginLane q
  | .idle => s.firmwareWork.prefetch
  | .scalar _ => s
  | .gang _ _ => s
  | .event _ => s

/-- A turn begins: it is recorded, time passes, crews that are not ready start their waiting time again, condition D of the
claim queues is recorded (R83), gatherings that are complete are performed (R93), error log entries that waited for the way to their ring
are written (R327), and the front end reads what it needs. In Off nothing of this happens (R34). -/
def State.begin (s : State) (t : Turn) : State :=
  if s.powered then ((({ s with turn := t }.tick).ageCrews).watchClaims.settleReords.flushLog).beginFront t
  else { s with turn := t }

/-- The instruction that the turn executes, or none when its stream is not ready: in Off only POWER_UP acts (R34). -/
def State.instrOf (s : State) (t : Turn) : Option Instr :=
  match t with
  | .idle => none
  | .scalar c =>
    match s.crew? c with
    | none => none
    | some k =>
      if s.powered && s.scalarReady c k && s.chosen c k false then
        match s.nextScalar c k with
        | .fails _ => some .instructionFetchFault
        | .illegal => some .illegalInstruction
        | .instr i => some i
      else none
  | .gang c i =>
    match s.crew? c with
    | none => none
    | some k =>
      if s.powered && s.gangReady c k i && s.gangTurn c k i && s.chosen c k true then
        match s.nextLane c k i with
        | .fails _ => some .instructionFetchFault
        | .illegal => some .illegalInstruction
        | .instr x => some x
      else none
  | .event i => if i.isEvent && (s.powered || (match i with | .powerUp _ _ => true | _ => false)) then some i else none
  | .frontEnd q => (s.lanePacket q).map (Packet.instr q)

end Sys2Proof.Machine
end

