-- ==== Sys2Proof/Machine/Step.lean ====
section
/-!
DEFINITION. One step of the package: one turn, and the instruction or event that it executes; and a state whose next step runs a
given instruction.
-/

namespace Sys2Proof.Machine

/-- One step: the next turn, the passing of time, and exec of the turn's instruction; a turn whose stream is not ready, or
whose event is none, changes nothing more. -/
def step (s : State) : Host.Outcome State Fault Refusal :=
  let p := s.pick
  let s1 := p.2.begin p.1
  match s1.instrOf p.1 with
  | none => .next s1
  | some i => exec i (s1.noteIssue p.1)

/-- The record of the launch that stands for a loaded program (log entry 9): one block of one crew with 64 groups, the whole
scratchpad of 1 MiB, and 16 block barriers. -/
def loadRec : LaunchRec where
  attach := 0
  entry := 0x20
  ovn := 0
  idem := false
  grow := false
  track := false
  world := false
  prio := 0
  ver := 1
  lid := 1
  ovtab := 0
  gx := 1
  gy := 1
  gz := 1
  sgrace := 0
  graph := 0
  csize := 1
  nlb := 0
  ncb := 0
  nbb := 16
  groups := 64
  maxc := 1
  minc := 1
  scrch := 2048
  plid := 0
  c := 0
  w := 1
  d := 0
  a := 0
  map := 0
  rsv := false
  fmts := [1, 1, 1, 1, 1, 1, 1, 1]

/-- The launch that stands for a loaded program. -/
def loadLaunch (u : Nat) : Launch where
  uid := u
  lr := loadRec
  asid := 0
  c0 := 0
  c1 := 0
  served := true
  chosen := []
  blocks := [(0, .resident)]
  saved := []
  bitmap := none
  bmWait := false
  bars := []
  die := 0
  stop := none

/-- The block of the loaded program, on core 0. -/
def loadBlock (u cl : Nat) : Block where
  unit := u
  index := 0
  core := 0
  slot := 0
  cluster := cl
  spad := []
  chunks := []
  members := 1
  departing := 0
  bars := List.replicate 16 (.start 1)
  combine := []
  gather := none
  shrink := false
  placedAt := 0
  saving := false
  area := 0

/-- The header of an overlay image (R55) with one scalar section of n bytes at 0x20, or one lane section. -/
def loadHeader (lane : Bool) (n : Nat) : List Byte :=
  List.replicate 8 0 ++ bytesOf 2 0x20 ++ bytesOf 2 (if lane then 0 else n) ++ bytesOf 2 0x20 ++ bytesOf 2 (if lane then n else 0) ++
    List.replicate 16 0

/-- The crew of the loaded program at its first instruction: for a lane instruction, with a run of all eight slices at it. -/
def loadCrew (u : Nat) (lane : Bool) : Crew :=
  let k := Crew.start u 0x20 64 false 0
  if lane then
    let r : Run := { consts := [], mask := 0xFF, groups := 64, start := 0x20, x := [0, 0, 0, 0], ops := [none, none, none, none],
                     state := .executing, slices := (List.range 8).map (fun _ => Slice.begin 0x20 true 0xF 0), replay := [], issues := 0 }
    { k with runs := [r] }
  else k

/-- The state s with an instruction of the given bits placed where its next step fetches (log entry 9): the die of core 0 runs, a
launch of one crew is resident on core 0, overlay 0 of its table is in slot 0 of the core's store and holds the instruction's bytes
at the crew's code address, and the crew (or the gang of its run) has the next turn. -/
def State.withFetchWord (s : State) (nbits w : Nat) : State :=
  let u := s.nextUid
  let lane := decide (32 < nbits)
  let n := if lane then 12 else 4
  let image := sparseWrite 0 [] 0 (loadHeader lane n ++ bytesOf n w)
  let tag : OvTag := ⟨0, 0, 0, false⟩
  let unit : CUnit := ⟨u, .lch, 1, false, 1, 0, 0, .running, none, none, false, none, 0⟩
  let c : CrewRef := .blk (u + 1) 0
  { s with
    powered := true
    ident := { s.ident with shut := s.ident.shut &&& 0x1FFFC }
    nextUid := u + 3
    units := s.units ++ [unit]
    launches := s.launches ++ [loadLaunch u]
    blocks := s.blocks ++ [(u + 1, loadBlock u (u + 2))]
    clusters := s.clusters ++ [(u + 2, ⟨u, 0, 0, [], [], []⟩)]
    crews := s.crews ++ [(c, loadCrew u lane)]
    cores := listSet s.cores 0 { s.core 0 with slots := listSet (s.core 0).slots 0 ⟨some tag, true, image, none⟩ }
    agenda := (if lane then .gang c 0 else .scalar c) :: s.agenda }

end Sys2Proof.Machine
end

