-- ==== Sys2Proof/Machine/Deps.lean ====
section
/-!
DEFINITION. What an instruction computes its results from (R241): the registers that it writes, those that its address and its data
come from, and those that decide whether it, or what follows it, acts.
-/

namespace Sys2Proof.Machine

/-- A place that holds a value between two instructions of a crew: a scalar register or one of the supervisor bank, a condition
register, a register or predicate of a lane, a run constant or result slot of the run at a place among the crew's (2: the handler's),
and a system register. -/
inductive Cell
  | s (c : CrewRef) (bank : Bool) (n : Nat)
  | q (c : CrewRef) (n : Nat)
  | v (c : CrewRef) (lane n : Nat)
  | p (c : CrewRef) (lane n : Nat)
  | const (c : CrewRef) (pos n : Nat)
  | slot (c : CrewRef) (pos n : Nat)
  | sys (c : CrewRef) (n : Nat)
  deriving DecidableEq, Repr, Inhabited

/-- A stream whose accesses depend on its own reads (R241): the scalar thread of a crew, or one of its lanes. -/
abbrev Thread := CrewRef × Option Nat

/-- A part of what one instruction does, as far as dependences go: its stream, the accesses that it makes, the cells that it writes, those
that its address and its data come from, and those that decide whether it acts (a guard predicate, the condition of a branch). branch:
the decision stands for all that follows in the stream, as that of a branch or of a mask does. starts: the streams that act because
it does, as the lanes of a run do on its LRUN. The parts of one instruction are simultaneous. -/
structure Did where
  stream : Thread
  evs    : List Nat
  dst    : List Cell
  uses   : List Cell
  cond   : List Cell
  branch : Bool
  starts : List Thread
  deriving DecidableEq, Repr

/-- A part that writes cells from others. -/
def Did.flow (u : Thread) (dst uses cond : List Cell) : Did := ⟨u, [], dst, uses, cond, false, []⟩

/-- A part that decides what follows in its stream. -/
def Did.turn (u : Thread) (dst uses cond : List Cell) : Did := ⟨u, [], dst, uses, cond, true, []⟩

/-! ### The scalar thread -/

/-- The cell of a scalar register code; a special register is computed from no read. -/
def scalarCell (c : CrewRef) (h : Bool) (r : BitVec 7) : List Cell :=
  if r.toNat < 96 then [.s c (h && decide (80 ≤ r.toNat)) r.toNat] else []

/-- LRUN: the constants of the new run come from the scalar registers, and the lanes act because it does (R70, R72). -/
def lrunDids (c : CrewRef) (k : Crew) : List Did :=
  let pos := if k.h then 2 else k.runs.length
  { Did.flow (c, none) ((List.range 4).map (.slot c pos)) [] [] with starts := (List.range 32).map (fun l => (c, some l)) } ::
    (List.range 32).map (fun n => Did.flow (c, none) [.const c pos n] [.s c false n] [])

/-- LJOIN: the results of the oldest run, and the younger one takes its place (R73). -/
def ljoinDids (c : CrewRef) (k : Crew) (rd : BitVec 7) : List Did :=
  let pos := if k.h then 2 else 0
  (List.range 4).map (fun i => Did.flow (c, none) (scalarCell c k.h (rd + BitVec.ofNat 7 i)) [.slot c pos i] []) ++
  (if k.h then [] else
    (List.range 4).map (fun i => Did.flow (c, none) [.slot c 0 i] [.slot c 1 i] []) ++
    (List.range 32).map (fun n => Did.flow (c, none) [.const c 0 n] [.const c 1 n] []))

/-- The parts of a scalar instruction of a crew. -/
def scalarDids (c : CrewRef) (k : Crew) (i : Instr) : List Did :=
  let u : Thread := (c, none)
  let r := scalarCell c k.h
  let q (n : BitVec 3) : List Cell := [.q c n.toNat]
  match i with
  | .add o | .sub o | .mul o | .mulh o | .divu o | .divs o | .remu o | .and o | .or o | .xor o | .shl o | .shr o | .sar o | .min o
  | .max o | .minu o | .maxu o | .ovload o | .sqadmit o | .sqret o | .pgmove o | .pgsend o | .sampleDraw o | .sampleVfy o =>
    [.flow u (r o.rd) (r o.ra ++ r o.rb) []]
  | .tld o | .tst o | .tgath o | .tscat o => [.flow u [] (r o.rd ++ r o.ra ++ r o.rb ++ r (o.rb + 1) ++ r (o.rb + 2)) []]
  | .tred o => [.flow u [] (r o.rd ++ r o.ra ++ r o.rb ++ r (o.rb + 1) ++ r (o.rb + 2)) []]
  | .cmp o => [.flow u (q o.qd) (r o.ra ++ r o.rb) []]
  | .cmpImm o => [.flow u (q o.qd) (r o.ra) []]
  | .sel o => [.flow u (r o.rd) (r o.ra ++ r o.rb ++ q o.x) []]
  | .mdrain o => [.flow u (r o.rd) (r o.ra ++ r o.rb) []]
  | .addImm o | .mulImm o | .andImm o | .orImm o | .xorImm o | .sldU8 o | .sldU16 o | .sldU32 o | .sld64 o | .sldI8 o | .sldI16 o
  | .sldI32 o => [.flow u (r o.rd) (r o.ra) []]
  | .sst8 o | .sst16 o | .sst32 o | .sst64 o => [.flow u [] (r o.ra ++ r o.rd) []]
  | .shlImm o | .shrImm o | .sarImm o => [.flow u (r o.rd) (r o.ra) []]
  | .li o => [.flow u (r o.rd) [] []]
  | .lih o => [.flow u (r o.rd) (r o.rd) []]
  | .loop o => [.turn u (r o.rd) (r o.rd) (r o.rd)]
  | .bq o | .bqN o => [.turn u [] [] (q o.q)]
  | .call _ => [.flow u (r 95) [] []]
  | .callReg o => [.turn u (r 95) [] (r o.ra)]
  | .ret _ => [.turn u [] [] (r 95)]
  | .jr o => [.turn u [] [] (r o.ra)]
  | .eret _ => [.turn u [] [] [.sys c 1, .sys c 6]]
  | .satomAdd32 o | .satomAnd32 o | .satomOr32 o | .satomXor32 o | .satomMin32 o | .satomMax32 o | .satomMinu32 o | .satomMaxu32 o
  | .satomAdd64 o | .satomAnd64 o | .satomOr64 o | .satomXor64 o | .satomMin64 o | .satomMax64 o | .satomMinu64 o | .satomMaxu64 o
  | .satomXchg32 o | .satomFadd32 o | .satomIncw32 o | .satomXchg64 o | .satomIncw64 o => [.flow u (r o.rd) (r o.ra ++ r o.rb) []]
  | .satomCas32 o | .satomBfadd32 o | .satomCas64 o | .satomBfadd64 o => [.flow u (r o.rd) (r o.ra ++ r o.rb ++ r (o.rb + 1)) []]
  | .mfsr o => [.flow u (r o.rd) [.sys c o.num.toNat] []]
  | .mtsr o => [.flow u [.sys c o.num.toNat] (r o.ra) []]
  | .barrive o => [.flow u (r o.rd) (r o.ra ++ r o.rb) []]
  | .tshape o | .bwait o | .btest o | .claim o | .release o | .sqnext o | .pgalloc o | .pgref o | .pgdrop o | .pgfork o | .sieveArm o
  | .sieveRead o | .sieveDisarm o => [.flow u (r o.rd) (r o.ra) []]
  | .wdone o | .wcancel o => [.flow u (r o.rd) (r o.ra) []]
  | .mzeroAcq o | .mzeroClr o | .mzeroRel o | .attach o => [.flow u (r o.rd) [] []]
  | .lrun _ => lrunDids c k
  | .lrunReg _ => lrunDids c k
  | .ljoin o => ljoinDids c k o.rd
  | _ => []

/-! ### The lanes -/

/-- What a lane instruction writes and reads in each lane: vector registers and predicates written, vector registers, run constants and
predicates read. -/
structure LaneUse where
  dv : List Nat
  dp : List Nat
  sv : List Nat
  sc : List Nat
  sp : List Nat

/-- The run constant that a first source names. -/
def constOf : SrcA → List Nat | .reg _ => [] | .const i => [i.toNat]

/-- A result in vector registers, from a first source and other vector registers. -/
def toVec (dv : List Nat) (a : SrcA) (pair : Bool) (more : List Nat) : LaneUse := ⟨dv, [], a.named pair ++ more, constOf a, []⟩

/-- The guard of a lane instruction, and what it writes and reads in each lane that it acts in. -/
def laneUse : Instr → Option (Guard × LaneUse)
  | .iadd o | .isub o | .imul o | .imulh o | .imin o | .imax o | .iand o | .ior o | .ixor o | .ishl o | .ishr o | .isar o =>
    some (o.g, toVec (vNamed o.ty.is64 o.vd) o.va o.ty.is64 (o.vb.named o.ty.is64))
  | .imad o => some (o.g, toVec (vNamed o.ty.is64 o.vd) o.va o.ty.is64 (o.vb.named o.ty.is64 ++ vNamed o.ty.is64 o.vc))
  | .ipop o | .iclz o => some (o.g, toVec (vNamed false o.vd) o.va o.ty.is64 [])
  | .ibfe o => some (o.g, toVec (vNamed o.ty.is64 o.vd) o.va o.ty.is64 [])
  | .ibfi o => some (o.g, toVec (vNamed o.ty.is64 o.vd) o.va o.ty.is64 (vNamed o.ty.is64 o.vb))
  | .fadd o | .fsub o | .fmul o => some (o.g, toVec (vNamed false o.vd) o.va false (o.vb.named false))
  | .ffma o => some (o.g, toVec (vNamed false o.vd) o.va false (o.vb.named false ++ vNamed false o.vc))
  | .fmin o | .fmax o => some (o.g, toVec (vNamed false o.vd) o.va false (o.vb.named false))
  | .frnd o => some (o.g, toVec (vNamed false o.vd) o.va false [])
  | .exp2 o | .log2 o | .rcp o | .rsq o | .sqrt o | .tanh o | .mov o => some (o.g, toVec (vNamed false o.vd) o.va false [])
  | .cvt o => some (o.g, toVec (vNamed false o.vd) o.va false [])
  | .pack o | .unpack o => some (o.g, toVec (vNamed false o.vd) o.va false (vNamed false o.vb))
  | .icmp o => some (o.g, ⟨[], [o.pd.toNat], o.va.named o.ty.is64 ++ o.vb.named o.ty.is64, constOf o.va, []⟩)
  | .fcmp o => some (o.g, ⟨[], if o.pk = .f32 then [o.pd.toNat] else [o.pd.toNat, o.pd.toNat + 1], o.va.named false ++ o.vb.named false,
      constOf o.va, []⟩)
  | .pand o | .por o | .pxor o => some (o.g, ⟨[], [o.pd.toNat], [], [], [o.pa.toNat, o.pb.toNat]⟩)
  | .pnot o => some (o.g, ⟨[], [o.pd.toNat], [], [], [o.pa.toNat]⟩)
  | .pmov o => some (o.g, ⟨[], [o.pd.toNat], [], [], match o.src with | .reg p => [p.toNat] | .imm _ => []⟩)
  | .movi o => some (o.g, ⟨vNamed false o.vd, [], [], [], []⟩)
  | .laneSel o => some (o.g, { toVec (vNamed false o.vd) o.va false (vNamed false o.vb) with sp := [o.pc.toNat] })
  | .ld o => some (o.g, toVec (vNamed (o.wd == .b64) o.vd) o.va true [])
  | .st o => some (o.g, toVec [] o.va true (vNamed (o.wd == .b64) o.vb))
  | .atom o => some (o.g, toVec (vNamed o.w64 o.vd) o.va true (vNamed o.w64 o.vb ++ (if o.op.hasC then vNamed o.w64 o.vc else [])))
  | _ => none

/-- The place of the gang's run among those of its crew. -/
def LaneTurn.pos (t : LaneTurn) : Nat := if t.k.h then 2 else t.k.runs.findIdx (fun r => r.state == .executing)

/-- The predicate of a guard in a lane. -/
def guardCell (c : CrewRef) (g : Guard) (l : Nat) : List Cell := if g.en then [.p c l g.p.toNat] else []

/-- The cells of vector registers in a lane. -/
def vCells (c : CrewRef) (l : Nat) (ns : List Nat) : List Cell := ns.map (fun n => .v c l n)

/-- A first source in a lane. -/
def LaneTurn.srcCells (t : LaneTurn) (a : SrcA) (l : Nat) : List Cell :=
  vCells t.c l (a.named false) ++ (constOf a).map (fun n => .const t.c t.pos n)

/-- An instruction whose lanes act each by itself: one part for each lane. -/
def LaneTurn.each (t : LaneTurn) (g : Guard) (f : Nat → List Cell × List Cell) : List Did :=
  (lanesOf (t.lanes g)).map (fun l => Did.flow (t.c, some l) (f l).1 (f l).2 (guardCell t.c g l))

/-- The guard predicates of some lanes: what the set of lanes that act comes from. -/
def LaneTurn.guards (t : LaneTurn) (g : Guard) (ls : List Nat) : List Cell := ls.flatMap (guardCell t.c g)

/-- A divergent or leave BRA: the mask of each slice comes from the guards of its lanes (R76). -/
def LaneTurn.masks (t : LaneTurn) (g : Guard) : List Did :=
  t.gang.flatMap (fun j =>
    let ls := [0, 1, 2, 3].map (fun n => 4 * j + n)
    ls.map (fun l => Did.turn (t.c, some l) [] [] (t.guards g (ls.filter (fun l => (lanesOf t.cur).contains l)))))

/-- REORD, where its exchange is made (R93): each destination comes from the register of its source lane, and from the keys. -/
def State.reordDids (s : State) (t : LaneTurn) (o : LReord) : List Did :=
  match t.c with
  | .ctl _ => []
  | .blk b j =>
    match s.block? b with
    | none => []
    | some x =>
      let g := s.gathering b x
      let ps := ({ g with issued := g.issued ++ [t.arrival o j] } : Gather).ordered
      let src := s.reordSources b ps
      let pos (j : Nat) : Nat := match s.crew? (.blk b j) with | some k => (if k.h then 2 else k.runs.findIdx (fun r => r.state == .executing)) | none => 0
      let keys : List Cell := ps.flatMap (fun a => (List.range 32).flatMap (fun l =>
        vCells (.blk b a.crew) l (a.va.named false) ++ (constOf a.va).map (fun n => .const (.blk b a.crew) (pos a.crew) n)))
      ps.zipIdx.flatMap (fun y => (List.range 32).flatMap (fun l =>
        let e := listGet 0 src (32 * y.2 + l)
        let owner : Nat := match ps[e / 32]? with | some a => a.crew | none => 0
        let me : CrewRef := .blk b y.1.crew
        let regs := (liveGroups y.1.groups).flatMap (fun g => (List.range 8).map (fun i => 8 * g + i))
        Did.flow (me, some l) [.v me l y.1.vd.toNat] keys [] ::
          (regs.filter (fun n => n != y.1.vd.toNat)).map (fun n =>
            Did.flow (me, some l) [.v me l n] (.v (.blk b owner) (e % 32) n :: keys) [])))

/-- The parts of a gang's instruction in state s. -/
def State.laneDids (s : State) (t : LaneTurn) (i : Instr) : List Did :=
  match i with
  | .shfl o => t.each o.g (fun l =>
      let src := match o.src.lane t.k l with | some x => (if t.all.toNat.testBit x then x else l) | none => l
      (vCells t.c l (vNamed false o.vd), t.srcCells o.va src ++ vCells t.c l o.src.named))
  | .vote o =>
    let on := lanesOf (t.lanes o.g)
    let sources := on.map (fun l => Cell.p t.c l o.pa.toNat) ++ t.guards o.g (lanesOf t.cur)
    let dest (l : Nat) : Cell := match o.mode with
      | .ballot => .v t.c l o.d.toNat
      | .popc => .v t.c l o.d.toNat
      | .any => .p t.c l o.d.toNat
      | .all => .p t.c l o.d.toNat
    t.each o.g (fun l => ([dest l], sources))
  | .xput o =>
    let on := lanesOf (t.lanes o.g)
    on.map (fun l => Did.flow (t.c, some l) [.slot t.c t.pos o.k.toNat] (.slot t.c t.pos o.k.toNat :: t.srcCells o.va l) (guardCell t.c o.g l))
  | .reord o => s.reordDids t o
  | .braDivergent o => t.masks o.g
  | .braLeave o => t.masks o.g
  | _ =>
    match laneUse i with
    | some (g, u) => t.each g (fun l =>
        (vCells t.c l u.dv ++ u.dp.map (fun n => .p t.c l n),
         vCells t.c l u.sv ++ u.sc.map (fun n => .const t.c t.pos n) ++ u.sp.map (fun n => .p t.c l n)))
    | none => []

/-! ### Whether an instruction has gone on -/

/-- The instructions that put the scalar thread elsewhere than at the next word. -/
def jumps : Instr → Bool
  | .b _ | .bq _ | .bqN _ | .call _ | .callReg _ | .ret _ | .jr _ | .loop _ | .eret _ => true
  | _ => false

/-- The crew of a scalar turn has gone past instruction i, or has ended with it. -/
def State.wentOn (s t : State) (c : CrewRef) (i : Instr) : Bool :=
  match s.crew? c, t.crew? c with
  | some k, some k' =>
    if jumps i then k'.trapping.isNone && (k'.h == (match i with | .eret _ => !k.h | _ => k.h)) else k'.pc == codeAdd k.pc 4
  | _, none => (match i with | .halt _ => true | .detach _ => true | _ => false)
  | none, some _ => false

/-- Slice j of a crew has gone past its lane instruction; after a BRA it is anywhere. -/
def Run.wentOn (r : Run) (k : Crew) (t : State) (c : CrewRef) (j : Nat) (i : Instr) : Bool :=
  match t.crew? c with
  | none => false
  | some k' =>
    match i with
    | .braDivergent _ => k'.trapping.isNone && k'.h == k.h
    | .braLeave _ => k'.trapping.isNone && k'.h == k.h
    | _ => (match k'.runNow with | some r' => (r'.slice j).pc == codeAdd (r.slice j).pc 12 | none => false)

/-- The turn of a step, the instruction that it executes, and the state in which it does. -/
def State.acting (s : State) : Option (Turn × Instr × State) :=
  let p := s.pick
  let s1 := p.2.begin p.1
  (s1.instrOf p.1).map (fun i => (p.1, i, s1))

/-- The parts of the instruction that the step from s to t executes, where it goes on. -/
def State.dids (s t : State) : List Did :=
  match s.acting with
  | some (.scalar c, i, s1) =>
    (match s1.crew? c with | some k => (if s1.wentOn t c i then scalarDids c k i else []) | none => [])
  | some (.gang c j, i, s1) =>
    (match s1.crew? c with
     | some k => (match k.runNow with | some r => (if r.wentOn k t c j i then s1.laneDids (r.laneTurn c k j) i else []) | none => [])
     | none => [])
  | some (.event _, _, _) => []
  | some (.frontEnd _, _, _) => []
  | some (.idle, _, _) => []
  | none => []

end Sys2Proof.Machine
end

