-- ==== Sys2Proof/Machine/Ordering.lean ====
section
/-!
DEFINITION. Which outcomes of a set of accesses are allowed (R235, R238 to R251): executions as data, dependences, crew order,
synchronisation at scopes, happens-before, the rules of coherence, and the executions of the package's own runs, which perform one
access after another and are among the allowed (log entry 6).
-/

namespace Sys2Proof.Machine

/-! ### Executions -/

/-- An agent (R239, R242): a crew in its block and cluster, the copy engine for a crew's tile instruction, another engine of the
package, the host through a port, or a peer. -/
inductive Party
  | crew (crew block cluster : Nat)
  | engine (crew block cluster : Nat)
  | device (n : Nat)
  | host (port : Nat)
  | peer (n : Nat)
  deriving DecidableEq, Repr, Inhabited

/-- Crew, block and cluster of an agent that lies in them (R242). -/
def Party.home : Party → Option (Nat × Nat × Nat)
  | .crew c b l => some (c, b, l)
  | .engine c b l => some (c, b, l)
  | .device _ => none
  | .host _ => none
  | .peer _ => none

/-- Outside the package. -/
def Party.outside : Party → Bool
  | .host _ => true
  | .peer _ => true
  | .crew _ _ _ => false
  | .engine _ _ _ => false
  | .device _ => false

/-- Two agents share a scope (R6, R242): a crew is one of its block, and a block one of its cluster. -/
def Party.shares (s : Scope) (x y : Party) : Bool :=
  match s with
  | .sy => true
  | .dv => !x.outside && !y.outside
  | .cl => match x.home, y.home with | some (_, _, l), some (_, _, m) => l == m | _, _ => false
  | .bk => match x.home, y.home with | some (_, b, l), some (_, d, m) => b == d && l == m | _, _ => false
  | .cw => x.home.isSome && x.home == y.home

/-- Where in its crew an event happens: the scalar thread, a lane of a slice of a run, a whole slice (a lane fence, R248), or the
engine's work for a copy, with its place in that work. -/
inductive Place
  | scalar
  | lane (run slice lane : Nat)
  | slice (run slice : Nat)
  | copy (n step : Nat)
  deriving DecidableEq, Repr, Inhabited

/-- What an event is: a crew's load (SLD is a plain one), store, atomic or fence, a plain access of another agent, or an event that
makes no access (a flip, a barrier arrival). LD.ar and ST.ar are two events each: a FENCE.ar, and then the load or the store (R257). -/
inductive Form
  | load (o : Ord)
  | store (o : Ord)
  | atom (o : Ord)
  | satom
  | fence (o : Ord)
  | read
  | write
  | mark
  deriving DecidableEq, Repr, Inhabited

/-- An ordering that contains an acquire, and one that contains a release. -/
def ordAcquires (o : Ord) : Bool := o == .acq || o == .ar
def ordReleases (o : Ord) : Bool := o == .rel || o == .ar

/-- The accesses that a form makes. -/
def Form.rd : Form → Bool
  | .load _ => true | .atom _ => true | .satom => true | .read => true | .store _ => false | .fence _ => false | .write => false | .mark => false
def Form.wr : Form → Bool
  | .store _ => true | .atom _ => true | .satom => true | .write => true | .load _ => false | .fence _ => false | .read => false | .mark => false

def Form.isFence : Form → Bool
  | .fence _ => true
  | .load _ => false | .store _ => false | .atom _ => false | .satom => false | .read => false | .write => false | .mark => false

/-- The forms that acquire and those that release (R243, R258). -/
def Form.acq : Form → Bool
  | .load o => ordAcquires o | .atom o => ordAcquires o | .satom => true | .fence o => ordAcquires o
  | .store _ => false | .read => false | .write => false | .mark => false
def Form.rel : Form → Bool
  | .store o => ordReleases o | .atom o => ordReleases o | .satom => true | .fence o => ordReleases o
  | .load _ => false | .read => false | .write => false | .mark => false

/-- The forms that have a place in S (R246). -/
def Form.total : Form → Bool
  | .atom o => o == .ar | .satom => true | .fence o => o == .ar
  | .load _ => false | .store _ => false | .read => false | .write => false | .mark => false

/-- What passes from a release to an acquire where no memory value does (R243), or with the completion of a transport to a peer (R249),
by its name: the phase of a barrier; what the members did before a crew's ATTACH; a run; the end of a producer block, by its launch and
index; the completion of a unit; the delivery of the n-th serving instruction of a control crew; the flip number n of a chunk to the
crews, and that to the copy engine; the entry that is posted to the notification ring at count n; and a transport. Every release that
gives a name is paired with every acquire that takes it. -/
inductive Pass
  | barrier (sc : Scope) (bar phase : Nat)
  | attach (clustered : Bool) (n : Nat)
  | join (n : Nat)
  | producer (unit n : Nat)
  | unit (n : Nat)
  | serving (who : Party) (n : Nat)
  | flip (chunk n : Nat)
  | give (chunk n : Nat)
  | bell (n : Nat)
  | transport (n : Nat)
  deriving DecidableEq, Repr, Inhabited

/-- The scope at which a pair synchronises. -/
def Pass.scope : Pass → Scope
  | .barrier sc _ _ => sc
  | .attach c _ => if c then .cl else .bk
  | .join _ => .cw
  | .producer _ _ => .dv
  | .unit _ => .dv
  | .serving _ _ => .dv
  | .flip _ _ => .dv
  | .give _ _ => .bk
  | .bell _ => .sy
  | .transport _ => .sy

def Pass.isFlip : Pass → Bool
  | .flip _ _ => true
  | .barrier _ _ _ => false | .attach _ _ => false | .join _ => false | .producer _ _ => false | .unit _ => false | .serving _ _ => false
  | .give _ _ => false | .bell _ => false | .transport _ => false

/-- An event. seq is its place in the issue order: for the scalar thread, that of the thread; for a lane or a slice, that of its slice
over all the runs of the crew, a handler's among them (R313); for a copy, the place of its tile instruction; for a host access, that of
its port. life is how often its block has been resumed before it (R240). epoch is how many REGANG releases of its run came before it,
and park the number of the release for which its slice parks next, if it does (R240). regions are the divergent regions that are open
at it: those of its run, and for a handler's run also those of the run that the handler interrupts. memory tells memory from
scratchpad. gives and takes are the passes of which it is the release and the acquire: a BWAIT that returns takes its phase, a TWAIT the
last flip of every chunk in its mask, an access of the copy engine the TGIVE by which it has the chunk. held is the copy that holds the
chunk which a crew's access reaches, while the chunk's bit is clear (R251). -/
structure Ev where
  who     : Party
  place   : Place
  seq     : Nat
  life    : Nat
  epoch   : Nat
  park    : Option Nat
  regions : List Nat
  bytes   : List Nat
  memory  : Bool
  form    : Form
  scope   : Scope
  gives   : List Pass
  takes   : List Pass
  held    : Option Nat
  deriving DecidableEq, Repr, Inhabited

/-- The host's port, where the event is the host's. -/
def Ev.port (e : Ev) : Option Nat := match e.who with | .host p => some p | _ => none

def Ev.rd (e : Ev) : Bool := e.form.rd
def Ev.wr (e : Ev) : Bool := e.form.wr
def Ev.acq (e : Ev) : Bool := e.form.acq
/-- A release: a write of the host is one, at .sy (R249). -/
def Ev.rel (e : Ev) : Bool := e.form.rel || (e.port.isSome && e.wr)
def Ev.sc (e : Ev) : Scope := if e.port.isSome then .sy else e.scope
def Ev.fence (e : Ev) : Bool := e.form.isFence
def Ev.ar (e : Ev) : Bool := e.form.total

/-- A run of a crew: when its LRUN and its LJOIN issued, in the scalar thread's order. -/
structure RunSpan where
  who    : Nat × Nat × Nat
  run    : Nat
  born   : Nat
  joined : Option Nat
  deriving DecidableEq, Repr

/-- An execution: its events, its runs, what each instruction did (the parts of one together), the write that each read of a byte
returns (none: the initial value), the place of each write in the coherence order of a byte, the values read and written, and the place
of each event of S. -/
structure Execution where
  evs   : List Ev
  runs  : List RunSpan
  work  : List (List Did)
  src   : Nat → Nat → Option Nat
  coh   : Nat → Nat → Nat
  got   : Nat → Nat → Byte
  put   : Nat → Nat → Byte
  start : Nat → Byte
  total : Nat → Nat

def Execution.ev (x : Execution) (i : Nat) : Ev := listGet default x.evs i
def Execution.reads (x : Execution) (i a : Nat) : Prop := (x.ev i).rd = true ∧ a ∈ (x.ev i).bytes
def Execution.writes (x : Execution) (i a : Nat) : Prop := (x.ev i).wr = true ∧ a ∈ (x.ev i).bytes

/-! ### Dependences (R241) -/

/-- What the cells were computed from: for each the reads, and for each stream the reads that decide what follows. -/
structure Taint where
  cells : Cell → List Nat
  ctl   : Thread → List Nat

/-- Nothing comes from a read yet. -/
def Taint.none : Taint := ⟨fun _ => [], fun _ => []⟩

/-- The reads that some cells were computed from. -/
def Taint.of (t : Taint) (rs : List Cell) : List Nat := rs.flatMap t.cells

/-- The reads that a part of an instruction depends on: through its address and its data, or control. -/
def Taint.deps (t : Taint) (d : Did) : List Nat := t.of d.uses ++ t.of d.cond ++ t.ctl d.stream

/-- What a part writes comes from its own read and from its operands. -/
def Taint.gives (rd : Nat → Bool) (t : Taint) (d : Did) : List Nat := d.evs.filter rd ++ t.of d.uses

/-- After an instruction: all of its parts act on what was there before it, and what a cell held before counts no more. -/
def Taint.next (rd : Nat → Bool) (t : Taint) (ds : List Did) : Taint where
  cells := fun c =>
    if ds.any (fun d => d.dst.contains c) then (ds.filter (fun d => d.dst.contains c)).flatMap (t.gives rd) else t.cells c
  ctl := fun u =>
    t.ctl u ++ (ds.filter (fun d => (d.branch && d.stream == u) || d.starts.contains u)).flatMap (fun d => t.ctl d.stream ++ t.of d.cond)

/-- The reads that event j depends on, in the work of the package. -/
def depsIn (rd : Nat → Bool) (j : Nat) : Taint → List (List Did) → List Nat
  | _, [] => []
  | t, ds :: l => (ds.filter (fun d => d.evs.contains j)).flatMap t.deps ++ depsIn rd j (t.next rd ds) l

/-- Two events of one lane, or of one scalar thread. -/
def Ev.oneStream (a b : Ev) : Bool :=
  a.who == b.who && match a.place, b.place with
    | .scalar, .scalar => true
    | .lane _ s l, .lane _ t m => s == t && l == m
    | _, _ => false

/-- The reads that event j depends on: those of its own lane, or of the scalar thread for a scalar one (R241), whatever lanes the
value has passed through. -/
def Execution.deps (x : Execution) (j : Nat) : List Nat :=
  (depsIn (fun i => (x.ev i).rd) j .none x.work).filter (fun i => (x.ev i).oneStream (x.ev j))

/-! ### Crew order (R240, R248, R250) -/

/-- The LRUN of a run issued after scalar place n; its LJOIN before it. -/
def Execution.bornAfter (x : Execution) (c : Nat × Nat × Nat) (r n : Nat) : Bool :=
  x.runs.any (fun p => p.who == c && p.run == r && decide (n < p.born))
def Execution.joinedBefore (x : Execution) (c : Nat × Nat × Nat) (r n : Nat) : Bool :=
  x.runs.any (fun p => p.who == c && p.run == r && (match p.joined with | some k => decide (k < n) | none => false))

/-- Two events of slices s and s' of runs r and r' (R240 clauses 2 to 5); same: they are of one lane, or one is of the whole slice. -/
def Ev.sliceFirst (a b : Ev) (r s r' s' : Nat) (same : Bool) : Bool :=
  (s == s' && decide (a.seq < b.seq) &&
    (same || a.bytes.any (b.bytes.contains ·) || a.regions.any (fun g => !b.regions.contains g))) ||
  (r == r' && (match a.park with | some k => decide (k ≤ b.epoch) | none => false))

/-- Crew order within one crew and its copies, but for dependences (R240 clauses 1 to 6, R248, R250): a copy's accesses of memory come
after what precedes its tile instruction, and its flips after its accesses before them. -/
def Execution.placeFirst (x : Execution) (c : Nat × Nat × Nat) (a b : Ev) : Bool :=
  match a.place, b.place with
  | .scalar, .scalar => decide (a.seq < b.seq)
  | .lane r s l, .lane r' s' l' => a.sliceFirst b r s r' s' (l == l')
  | .lane r s _, .slice r' s' => a.sliceFirst b r s r' s' true
  | .slice r s, .lane r' s' _ => a.sliceFirst b r s r' s' true
  | .slice r s, .slice r' s' => a.sliceFirst b r s r' s' true
  | .scalar, .lane r _ _ => x.bornAfter c r a.seq
  | .scalar, .slice r _ => x.bornAfter c r a.seq
  | .lane r _ _, .scalar => x.joinedBefore c r b.seq
  | .slice r _, .scalar => x.joinedBefore c r b.seq
  | .scalar, .copy _ _ => b.memory && decide (a.seq < b.seq)
  | .lane r _ _, .copy _ _ => b.memory && x.joinedBefore c r b.seq
  | .slice r _, .copy _ _ => b.memory && x.joinedBefore c r b.seq
  | .copy n t, .copy m u => n == m && decide (t < u) && b.gives.any Pass.isFlip
  | .copy _ _, .scalar => false
  | .copy _ _, .lane _ _ _ => false
  | .copy _ _, .slice _ _ => false

/-- The block and cluster of a crew. -/
def Party.block : Party → Option (Nat × Nat)
  | .crew _ b l => some (b, l)
  | .engine _ _ _ => none
  | .device _ => none
  | .host _ => none
  | .peer _ => none

/-- Event i comes before event j in the order of its crew, or of its host port (R240, R249); or i is an access of a block before a
save, and j one of it after the resumption (R240); or j depends on the read i (R241). -/
def Execution.first (x : Execution) (i j : Nat) : Prop :=
  i < x.evs.length ∧ j < x.evs.length ∧
  ((∃ c, (x.ev i).who.home = some c ∧ (x.ev j).who.home = some c ∧ x.placeFirst c (x.ev i) (x.ev j) = true) ∨
   (∃ b, (x.ev i).who.block = some b ∧ (x.ev j).who.block = some b ∧ (x.ev i).life < (x.ev j).life) ∨
   (∃ p, (x.ev i).who = .host p ∧ (x.ev j).who = .host p ∧ (x.ev i).wr = true ∧ (x.ev j).wr = true ∧ (x.ev i).seq < (x.ev j).seq) ∨
   i ∈ x.deps j)

/-- The transitive closure of a relation. -/
inductive Leads (r : Nat → Nat → Prop) : Nat → Nat → Prop
  | one {i j : Nat} : r i j → Leads r i j
  | more {i j k : Nat} : r i j → Leads r j k → Leads r i k

/-- Crew order (R240 clause 7). -/
def Execution.crewOrder (x : Execution) : Nat → Nat → Prop := Leads x.first

/-! ### Synchronisation and happens-before (R243, R244) -/

/-- Read r of byte a returns the value of write w, or of an atomic whose chain of atomics goes back to w. -/
inductive Execution.Chain (x : Execution) (a : Nat) : Nat → Nat → Prop
  | last {r w : Nat} : x.reads r a → x.src r a = some w → Chain x a r w
  | back {r m w : Nat} : x.reads r a → x.src r a = some m → x.writes m a → Chain x a m w → Chain x a r w

/-- Event i is a release that write w carries; event j is an acquire that read r carries. -/
def Execution.releases (x : Execution) (i w : Nat) : Prop :=
  (x.ev i).rel = true ∧ (i = w ∨ ((x.ev i).fence = true ∧ x.crewOrder i w))
def Execution.acquires (x : Execution) (j r : Nat) : Prop :=
  (x.ev j).acq = true ∧ (j = r ∨ ((x.ev j).fence = true ∧ x.crewOrder r j))

/-- A pair that carries no memory value: i gives what j takes, and their agents share its scope. -/
def Execution.passes (x : Execution) (i j : Nat) : Prop :=
  ∃ p, p ∈ (x.ev i).gives ∧ p ∈ (x.ev j).takes ∧ (x.ev i).who.shares p.scope (x.ev j).who = true

/-- Release i synchronises with acquire j. -/
def Execution.syncs (x : Execution) (i j : Nat) : Prop :=
  x.passes i j ∨ ∃ w r a, x.releases i w ∧ x.acquires j r ∧ x.writes w a ∧ x.Chain a r w ∧
    (x.ev i).who.shares (x.ev i).sc (x.ev j).who = true ∧ (x.ev i).who.shares (x.ev j).sc (x.ev j).who = true

/-- Happens-before. -/
def Execution.hb (x : Execution) : Nat → Nat → Prop := Leads (fun i j => x.first i j ∨ x.syncs i j)

/-! ### The rules of coherence (R245 to R247) -/

/-- What a read returns is write w, or a later write, in the coherence order of byte a; none is the initial value. -/
def Execution.atLeast (x : Execution) (a : Nat) (got : Option Nat) (w : Nat) : Prop := ∃ v, got = some v ∧ x.coh a w ≤ x.coh a v

/-- Access y to byte a is not before access i in coherence (R246). -/
def Execution.notBefore (x : Execution) (a i y : Nat) : Prop :=
  (x.writes i a → (x.reads y a → x.atLeast a (x.src y a) i) ∧ (x.writes y a → x.coh a i < x.coh a y)) ∧
  (∀ w, x.reads i a → x.src i a = some w → (x.reads y a → x.atLeast a (x.src y a) w) ∧ (x.writes y a → x.coh a w < x.coh a y))

/-- The scope of fence f contains every agent that made access i or a write that i reads at byte a. -/
def Execution.covers (x : Execution) (f a i : Nat) : Prop :=
  (x.ev f).who.shares (x.ev f).sc (x.ev i).who = true ∧
  ∀ w, x.reads i a → x.src i a = some w → (x.ev f).who.shares (x.ev f).sc (x.ev w).who = true

/-- Bytes a and b lie in one part of an access that is single-copy atomic (R238): the whole of an aligned access of 1, 2, 4 or 8
bytes, and each aligned 8-byte word that a copy reads or writes whole. -/
def Ev.unit (e : Ev) (a b : Nat) : Prop :=
  (∃ n p, (n = 1 ∨ n = 2 ∨ n = 4 ∨ n = 8) ∧ p % n = 0 ∧ e.bytes = (List.range n).map (fun k => p + k) ∧ a ∈ e.bytes ∧ b ∈ e.bytes) ∨
  (∃ n t p, e.place = .copy n t ∧ p % 8 = 0 ∧ (∀ k < 8, p + k ∈ e.bytes) ∧ p ≤ a ∧ a < p + 8 ∧ p ≤ b ∧ b < p + 8)

/-- One of two accesses is made to a chunk that the engine holds for a copy, and the other by the engine for that copy: the
alternatives of R251 are all open between them. -/
def Execution.loose (x : Execution) (i j : Nat) : Prop :=
  ∃ n t, ((x.ev i).held = some n ∧ (x.ev j).place = .copy n t) ∨ ((x.ev j).held = some n ∧ (x.ev i).place = .copy n t)

/-- A read of byte a does not return what the engine writes to a chunk that it holds. -/
def Execution.firm (x : Execution) (r a : Nat) : Prop := ∀ w, x.src r a = some w → ¬ x.loose r w

/-- The outcome that an execution has is allowed. -/
structure Execution.Allowed (x : Execution) : Prop where
  /-- The values that reads return (R245). -/
  values : ∀ r a, x.reads r a → x.got r a = match x.src r a with | some w => x.put w a | none => x.start a
  /-- A read returns a write to its byte. -/
  fromWrite : ∀ r a w, x.reads r a → x.src r a = some w → x.writes w a
  /-- One total order of the writes to a byte. -/
  order : ∀ a v w, x.writes v a → x.writes w a → x.coh a v = x.coh a w → v = w
  /-- Happens-before is irreflexive (R244). -/
  acyclic : ∀ i, ¬ x.hb i i
  /-- Write–write. -/
  ww : ∀ a v w, x.writes v a → x.writes w a → x.hb v w → ¬ x.loose v w → x.coh a v < x.coh a w
  /-- Write–read. -/
  wr : ∀ r a, x.reads r a → x.firm r a → (∀ w, x.src r a = some w → ¬ x.hb r w) ∧
    ∀ v, x.writes v a → x.hb v r → ¬ x.loose v r → x.atLeast a (x.src r a) v
  /-- Read–read. -/
  rr : ∀ a q r w, x.reads q a → x.reads r a → x.hb q r → x.firm q a → x.firm r a → x.src q a = some w → ¬ x.loose w r →
    x.atLeast a (x.src r a) w
  /-- Read–write. -/
  rw : ∀ a r v w, x.reads r a → x.writes w a → x.hb r w → x.firm r a → x.src r a = some v → ¬ x.loose r w → ¬ x.loose v w →
    x.coh a v < x.coh a w
  /-- Atomicity: nothing lies between an atomic's read and its write. -/
  atomic : ∀ a m, x.reads m a → x.writes m a → x.firm m a → ∀ w, x.writes w a → ¬ x.loose m w → x.coh a w < x.coh a m →
    ∃ v, x.src m a = some v ∧ x.coh a w ≤ x.coh a v ∧ x.coh a v < x.coh a m
  /-- An atomic's source comes before its own write. -/
  atomicSrc : ∀ a m v, x.reads m a → x.writes m a → x.firm m a → x.src m a = some v → x.coh a v < x.coh a m
  /-- What is single-copy atomic is seen whole or not at all (R238). -/
  whole : ∀ r w a b, (x.ev r).unit a b → (x.ev w).unit a b → x.reads r a → x.reads r b → x.writes w a → x.writes w b →
    ¬ x.loose r w → x.firm r a → x.firm r b → x.atLeast a (x.src r a) w → x.atLeast b (x.src r b) w
  /-- Two writes that are single-copy atomic come in one order at all the bytes that both write whole. -/
  wholeWrites : ∀ v w a b, (x.ev v).unit a b → (x.ev w).unit a b → x.writes v a → x.writes v b → x.writes w a → x.writes w b →
    ¬ x.loose v w → x.coh a v < x.coh a w → x.coh b v < x.coh b w
  /-- S is total and consistent with happens-before (R246). -/
  sOrder : ∀ f g, (x.ev f).ar = true → (x.ev g).ar = true → (x.hb f g → x.total f < x.total g) ∧ (x.total f = x.total g → f = g)
  /-- What two events of S in order forbid (R246). -/
  fences : ∀ f g a i y, (x.ev f).ar = true → (x.ev g).ar = true → x.total f < x.total g → (i = f ∨ x.crewOrder i f) →
    (y = g ∨ x.crewOrder g y) → a ∈ (x.ev i).bytes → a ∈ (x.ev y).bytes → x.covers f a i → x.covers f a y → x.covers g a i →
    x.covers g a y → (x.ev i).held = none → (x.ev y).held = none → x.notBefore a i y
  /-- No value comes out of a cycle of dependences and reads-from (R247). -/
  noCycle : ∀ i, ¬ Leads (fun i j => i ∈ x.deps j ∨ ∃ a, x.reads j a ∧ x.src j a = some i) i i

/-! ### Executions of the package's own runs -/

/-- The accesses of the execution are performed one after another, in the order of the list: a read returns the latest write. -/
structure Execution.Interleaved (x : Execution) : Prop where
  first : ∀ i j, x.first i j → i < j
  deps : ∀ i j, i ∈ x.deps j → i < j
  pairs : ∀ i j, x.passes i j → i < j
  values : ∀ r a, x.reads r a → x.got r a = match x.src r a with | some w => x.put w a | none => x.start a
  latest : ∀ r a, x.reads r a → match x.src r a with
    | some w => w < r ∧ x.writes w a ∧ ∀ v, w < v → v < r → ¬ x.writes v a
    | none => ∀ v, v < r → ¬ x.writes v a
  coh : ∀ a i, x.coh a i = i
  total : ∀ i, x.total i = i

/-- A run of n steps of the package from a state: each step goes on. -/
def IsRun (step : State → Host.Outcome State Fault Refusal) (run : Nat → State) (n : Nat) : Prop :=
  ∀ k < n, step (run k) = .next (run (k + 1))

/-- Where a byte of an execution lies in the machine: at a physical address, in the scratchpad of a block, or in that kept for an ended
member of a cluster (R236); or nowhere, once its block or cluster is no more. -/
inductive Spot
  | mem (pa : Nat)
  | spad (block off : Nat)
  | ended (cluster rank off : Nat)
  | gone
  deriving DecidableEq, Repr

/-- A byte of the device register window: of the identity page, a bell word, or a record of the request table. -/
def State.devByte (s : State) (off : Nat) : Byte :=
  BitVec.ofNat 8 (
    if off < 0x1000 then wordBytes s.idReg off 1
    else if 0x100000 ≤ off ∧ off < 0x108000 then wordBytes (fun k => (sparseGet 0 s.bells k).toNat) (off - 0x100000) 1
    else if 0x200000 ≤ off ∧ off < 0x300000 then wordBytes (fun k => (sparseGet 0 s.reqs k).toNat) (off - 0x200000) 1
    else 0)

/-- What lies there. -/
def State.spot (s : State) : Spot → Byte
  | .mem pa => if isDev pa then s.devByte (pa - devBase) else s.byte pa
  | .spad b o => sparseGet 0 (s.spadOf b) o
  | .ended c r o => match s.cluster? c with | some k => sparseGet 0 (k.endedSpad r) o | none => 0
  | .gone => 0

/-- The bytes of a location. -/
def Loc.spots : Loc → List Spot
  | .spad b o n => (List.range n).map (fun i => .spad b (o + i))
  | .ended c r o n => (List.range n).map (fun i => .ended c r (o + i))
  | .phys p => (List.range p.n).map (fun i => .mem (p.pa + i))
  | .table _ => []

/-- The saved image of a block. -/
def State.savedOf (s : State) (b : Nat) : Option Saved := (s.launches.flatMap (fun l => l.saved)).find? (fun v => v.bid == b)

/-- Where byte o of the scratchpad of a saved block lies (R322). -/
def Saved.spadAt (v : Saved) (o : Nat) : Spot := .mem (v.area + 0x70000 + o)

/-- A step from s to t moves what lies at p to q: a migration that has quiesced its page remaps or ends it (R252, R253); a block is saved,
or restored (R322, R323); a member of a cluster ends (R66); and what lay in a block or a cluster that is no more is gone. -/
def State.relocates (s t : State) (p q : Spot) : Prop :=
  (∃ m ∈ s.fore.migs, (∀ g, m.stage ≠ .remapped g) ∧ m ∉ t.fore.migs ∧ ∃ o < m.size, p = .mem (m.src + o) ∧ q = .mem (m.dst + o)) ∨
  (∃ b o v, p = .spad b o ∧ s.savedOf b = none ∧ t.savedOf b = some v ∧ q = v.spadAt o) ∨
  (∃ b o v, s.savedOf b = some v ∧ p = v.spadAt o ∧ t.savedOf b = none ∧ q = if (t.block? b).isSome then .spad b o else .gone) ∨
  (∃ b o k, p = .spad b o ∧ s.block? b = some k ∧ t.block? b = none ∧ t.savedOf b = none ∧
    q = if (t.cluster? k.cluster).isSome then .ended k.cluster (s.rankOf k) o else .gone) ∨
  (∃ c r o, p = .ended c r o ∧ t.cluster? c = none ∧ q = .gone)

/-! ### The events of a step -/

/-- The name of a crew among the agents, and of the copy engine that acts for it; blocks and clusters 0 and 1 stand for the control
crews, which lie in none. -/
def State.crewParty (s : State) : CrewRef → Party
  | .ctl d => .crew 0 d d
  | .blk b j => .crew j (b + 2) ((s.blockD (.blk b j)).cluster + 2)
def State.engineParty (s : State) : CrewRef → Party
  | .ctl d => .engine 0 d d
  | .blk b j => .engine j (b + 2) ((s.blockD (.blk b j)).cluster + 2)

/-- The accesses and fences that an instruction of a stream makes, with their scopes (R257 to R260, R265 to R267, R278): SLD and SST are
plain, LD.ar and ST.ar are a FENCE.ar and then an LD.acq or an ST.rel, and a copy and an OVLOAD read their records. -/
def accessesOf : Instr → List (Form × Scope)
  | .sldU8 _ | .sldU16 _ | .sldU32 _ | .sld64 _ | .sldI8 _ | .sldI16 _ | .sldI32 _ => [(.load .plain, .cw)]
  | .tld _ | .tst _ | .tgath _ | .tscat _ | .tred _ | .ovload _ => [(.load .plain, .cw)]
  | .sst8 _ | .sst16 _ | .sst32 _ | .sst64 _ => [(.store .plain, .cw)]
  | .sfence o => [(.fence .ar, o.sc)]
  | .satomAdd32 o | .satomAnd32 o | .satomOr32 o | .satomXor32 o | .satomMin32 o | .satomMax32 o | .satomMinu32 o | .satomMaxu32 o
  | .satomAdd64 o | .satomAnd64 o | .satomOr64 o | .satomXor64 o | .satomMin64 o | .satomMax64 o | .satomMinu64 o | .satomMaxu64 o
  | .satomXchg32 o | .satomCas32 o | .satomFadd32 o | .satomIncw32 o | .satomBfadd32 o
  | .satomXchg64 o | .satomCas64 o | .satomIncw64 o | .satomBfadd64 o => [(.satom, o.sc)]
  | .ld o => if o.ord = .ar then [(.fence .ar, o.sc), (.load .acq, o.sc)] else [(.load o.ord, o.sc)]
  | .st o => if o.ord = .ar then [(.fence .ar, o.sc), (.store .rel, o.sc)] else [(.store o.ord, o.sc)]
  | .atom o => [(.atom o.ord, o.sc)]
  | .fence o => [(.fence o.ord, o.sc)]
  | _ => []

/-- An access of n bytes: whole when it is aligned, else byte by byte (R238). -/
def spotsOf (va n : Nat) (ls : List Loc) : List (List Spot) :=
  let ps := ls.flatMap Loc.spots
  if va % n = 0 then [ps] else ps.map (fun p => [p])

/-- What an access of a crew reaches, where its checks pass. -/
def State.reach (s : State) (c : CrewRef) (kind : AccKind) (va : W64) (n : Nat) : List (List Spot) :=
  match (s.access c kind va n).1 with
  | .ok ls => spotsOf va.toNat n ls
  | .error _ => []

/-- What an OVLOAD reads at issue, unless the overlay is resident: the entry of the overlay table, and the header of the image (R278). -/
def State.reachOverlay (s : State) (c : CrewRef) (n : Nat) : List (List Spot) :=
  if s.resident c n then []
  else
    let ea := (s.ovTable c).1 + BitVec.ofNat 64 (8 * n)
    s.reach c .read ea 8 ++
    (match s.issueRead c .read ea 8 with
     | .got bs s1 => s1.reach c .execute (BitVec.ofNat 64 (Sys2Proof.ofBytes bs)) 32
     | .bad _ _ => []
     | .stalls _ => [])

/-- What the accesses of a scalar instruction reach. -/
def State.reachScalar (s : State) (c : CrewRef) (k : Crew) (i : Instr) : List (List Spot) :=
  let r (n : BitVec 7) : W64 := s.sread c k n
  let ld (o : OpDAI) (n : Nat) := s.reach c .read (scalarAddr (r o.ra) o.imm n) n
  let st (o : OpDAI) (n : Nat) := s.reach c .write (scalarAddr (r o.ra) o.imm n) n
  match i with
  | .sldU8 o | .sldI8 o => ld o 1
  | .sldU16 o | .sldI16 o => ld o 2
  | .sldU32 o | .sldI32 o => ld o 4
  | .sld64 o => ld o 8
  | .sst8 o => st o 1
  | .sst16 o => st o 2
  | .sst32 o => st o 4
  | .sst64 o => st o 8
  | .tld o | .tst o | .tgath o | .tscat o => s.reach c .read (r o.ra) 64
  | .tred o => s.reach c .read (r o.ra) 64
  | .ovload o => s.reachOverlay c (r o.ra).toNat
  | .satomAdd32 o | .satomAnd32 o | .satomOr32 o | .satomXor32 o | .satomMin32 o | .satomMax32 o | .satomMinu32 o | .satomMaxu32 o
  | .satomXchg32 o | .satomCas32 o | .satomFadd32 o | .satomIncw32 o | .satomBfadd32 o => s.reach c .atomic (r o.ra) 4
  | .satomAdd64 o | .satomAnd64 o | .satomOr64 o | .satomXor64 o | .satomMin64 o | .satomMax64 o | .satomMinu64 o | .satomMaxu64 o
  | .satomXchg64 o | .satomCas64 o | .satomIncw64 o | .satomBfadd64 o => s.reach c .atomic (r o.ra) 8
  | _ => []

/-- What the access of lane l of a gang reaches. -/
def State.reachLane (s : State) (t : LaneTurn) (i : Instr) (l : Nat) : List (List Spot) :=
  match i with
  | .ld o => s.reach t.c .read (offAddr t o.va o.off l) o.wd.bytes
  | .st o => s.reach t.c .write (offAddr t o.va o.off l) o.wd.bytes
  | .atom o => s.reach t.c .atomic (srcA64 t.k t.r o.va l) (atomBytes o)
  | _ => []

/-- The name of a barrier, by its level and index, and the scope at which it synchronises (R84, R86). -/
def State.barName (s : State) (c : CrewRef) (lev i : Nat) : Nat :=
  48 * (if lev = 0 then c.blockId else if lev = 1 then (s.blockD c).cluster else (s.blockD c).unit) + 16 * lev + i
def levScope (lev : Nat) : Scope := if lev = 0 then .bk else if lev = 1 then .cl else .dv

/-- The name of a chunk of a block. -/
def chunkName (b i : Nat) : Nat := 2048 * b + i

/-- A pass of a phase of a barrier, of which the unit counts the low 16 bits; a flip of a chunk to the crews; and one to the engine. -/
def State.isPhase (s : State) (c : CrewRef) (lev i ph : Nat) : Pass → Bool
  | .barrier sc b n => sc == levScope lev && b == s.barName c lev i && n % 65536 == ph
  | _ => false
def Pass.flips (p : Pass) (ch : Nat) : Bool := match p with | .flip x _ => x == ch | _ => false
def Pass.handsOver (p : Pass) (ch : Nat) : Bool := match p with | .give x _ => x == ch | _ => false

/-- The barriers of a crew that are current, of its block, its cluster and its launch. -/
def State.crewBars (s : State) (c : CrewRef) : List (Nat × Nat) :=
  (List.range (s.recOf c).nbb).map (fun i => (0, i)) ++ (List.range (s.recOf c).ncb).map (fun i => (1, i)) ++
    (List.range (s.recOf c).nlb).map (fun i => (2, i))

/-- What an instruction of a crew must give where it completes: an arrival its phase; a departure that of every barrier of the block,
the cluster and the launch; TGIVE the chunks that it hands over (R243, R250). -/
def State.owesGive (s : State) (c : CrewRef) (k : Crew) : Instr → List (Pass → Bool)
  | .barrive o =>
    match selector? (s.recOf c) (s.sread c k o.ra).toNat with
    | some (lev, i) => [s.isPhase c lev i (s.barOf c lev i).phase.toNat]
    | none => []
  | .detach _ | .halt _ => (s.crewBars c).map (fun p => s.isPhase c p.1 p.2 (s.barOf c p.1 p.2).phase.toNat)
  | .tgive o => ((namedChunks (s.sread c k o.ra).toNat (s.sread c k o.rb).toNat).filter (fun i => s.chunkAt c i == .held)).map
      (fun i p => p.handsOver (chunkName c.blockId i))
  | _ => []

/-- What an instruction of a crew must take where it completes: BWAIT the phase of its token, and BTEST too where it is over; TWAIT the
flips of every chunk in its mask; LJOIN its run; WDONE the end of a unit that is over (R243). -/
def State.owesTake (s : State) (c : CrewRef) (k : Crew) : Instr → List (Pass → Bool)
  | .bwait o | .btest o =>
    let t := (s.sread c k o.ra).toNat
    match selector? (s.recOf c) (t / 2 ^ 16), s.tokenDone c t with
    | some (lev, i), some (_, true) => [s.isPhase c lev i (t % 2 ^ 16)]
    | _, _ => []
  | .twait o => (namedChunks (s.sread c k o.ra).toNat (s.sread c k o.rb).toNat).map (fun i p => p.flips (chunkName c.blockId i))
  | .ljoin _ => [fun p => match p with | .join _ => true | _ => false]
  | .wdone o =>
    match s.visibleUnit c k o.lev ((s.sread c k o.ra).setWidth 32) with
    | some u => if u.state == .done || u.state == .error then [fun p => p == .unit u.uid] else []
    | none => []
  | _ => []

/-- The passes that an event of any step may give and take: State.owes says in which steps they must be there. -/
def Pass.carried : Pass → Bool
  | .attach _ _ | .join _ | .producer _ _ | .unit _ | .serving _ _ | .bell _ | .transport _ => true
  | .barrier _ _ _ | .flip _ _ | .give _ _ => false

/-- An event without an access, in any step: what it gives and takes is carried. -/
def Ev.marks (e : Ev) : Prop := e.form = .mark ∧ e.bytes = [] ∧ (∀ p ∈ e.gives, p.carried = true) ∧ ∀ p ∈ e.takes, p.carried = true

/-- An event that instruction i of crew c makes; rs are the parts in which its accesses reach memory, and bytes lie as at says. -/
def State.crewDoes (s : State) (c : CrewRef) (k : Crew) (i : Instr) (rs : List (List Spot)) (at' : Nat → Spot) (e : Ev) : Prop :=
  e.who = s.crewParty c ∧
  (((e.form, e.scope) ∈ accessesOf i ∧ (if e.fence = true then e.bytes = [] else e.bytes.map at' ∈ rs)) ∨
    (e.form = .mark ∧ e.bytes = [])) ∧
  (∀ p ∈ e.gives, p.carried = true ∨ ∃ f ∈ s.owesGive c k i, f p = true) ∧
  (∀ p ∈ e.takes, p.carried = true ∨ ∃ f ∈ s.owesTake c k i, f p = true)

/-- A plain access of an agent that executes no instructions, or an event of it without one. -/
def Ev.plain (e : Ev) : Prop := e.form = .read ∨ e.form = .write ∨ e.form = .mark

/-- The tile instruction that an event of the sequencer is about. -/
def State.tileTurn (s : State) : Option (MosEntry × State) :=
  match s.acting with
  | some (_, .mosStep core n, s1) | some (_, .copyComplete core n, s1) | some (_, .copyAbandon core n _, s1)
  | some (_, .slowPath core n _, s1) => (s1.tileAtQ core n).map (fun m => (m, s1))
  | _ => none

/-- An event that a step makes (R239), where bytes lie as at says: of the scalar thread; of a lane or slice of the gang; of the copy
engine, for the entry whose step it is; of the host or a peer; of another engine of the package, as the units that serve an
instruction, a post or the error log are; or a mark. -/
def State.does (s : State) (at' : Nat → Spot) (e : Ev) : Prop :=
  e.marks ∨ (e.plain ∧ ∃ n, e.who = .device n) ∨
  match s.acting with
  | none => False
  | some (.scalar c, i, s1) => e.place = .scalar ∧ ∃ k, s1.crew? c = some k ∧ s1.crewDoes c k i (s1.reachScalar c k i) at' e
  | some (.gang c j, i, s1) => ∃ k r, s1.crew? c = some k ∧ k.runNow = some r ∧
      ((∃ n l, e.place = .lane n (l / 4) l ∧ l / 4 ∈ r.gangOf j ∧ e.fence = false ∧
          s1.crewDoes c k i (s1.reachLane (r.laneTurn c k j) i l) at' e) ∨
       (∃ n x, e.place = .slice n x ∧ x ∈ r.gangOf j ∧ e.fence = true ∧ s1.crewDoes c k i [] at' e))
  | some (_, .hostMemoryAccess _, _) => e.plain ∧ ∃ p, e.who = .host p
  | some (_, .peerAccess p _ _, _) => e.plain ∧ e.who = .peer p
  | some (_, _, _) => ∃ m s1 t, s.tileTurn = some (m, s1) ∧ e.plain ∧ e.place = .copy m.uid t ∧ e.who = s1.engineParty m.crew

/-! ### What a step owes -/

/-- The guard of a lane instruction that accesses memory. -/
def accessGuard : Instr → Guard
  | .ld o => o.g
  | .st o => o.g
  | .atom o => o.g
  | _ => noGuard

/-- Every part of an access has its event, or a fence its one. -/
def owesEach (f : Form × Scope) (rs : List (List Spot)) (at' : Nat → Spot) (es : List Ev) (here : Ev → Prop) : Prop :=
  if f.1.isFence = true then ∃ e ∈ es, (e.form, e.scope) = f ∧ here e
  else ∀ u ∈ rs, ∃ e ∈ es, (e.form, e.scope) = f ∧ here e ∧ e.bytes.map at' = u

/-- The events that a gang's instruction must have where it completes: those of each form in each lane that is enabled, and each fence in
each slice (R248). -/
def State.laneOwes (s : State) (c : CrewRef) (k : Crew) (r : Run) (j : Nat) (i : Instr) (at' : Nat → Spot) (es : List Ev) : Prop :=
  ∀ f ∈ accessesOf i,
    if f.1.isFence = true then ∀ x ∈ r.gangOf j, owesEach f [] at' es (fun e => ∃ n, e.place = .slice n x)
    else ∀ l ∈ lanesOf ((r.laneTurn c k j).lanes (accessGuard i)),
      owesEach f (s.reachLane (r.laneTurn c k j) i l) at' es (fun e => ∃ n, e.place = .lane n (l / 4) l)

/-- A crew gives a pass for all that it has done: its scalar thread, and each slice of the runs that it has not joined. -/
def allGive (es : List Ev) (who : Party) (k : Crew) (p : Pass) : Prop :=
  (∃ e ∈ es, e.who = who ∧ e.place = .scalar ∧ p ∈ e.gives) ∧
  (k.allRuns ≠ [] → ∀ j < 8, ∃ e ∈ es, e.who = who ∧ (∃ n, e.place = .slice n j) ∧ p ∈ e.gives)

/-- A unit and those above it. -/
def State.unitsAbove (s : State) (u : Nat) : List Nat :=
  u :: [Level.gph, Level.phs, Level.job].filterMap (fun l => (s.ancestor 4 u l).map (·.uid))

/-- A crew that ends gives all that it has done to the ends of its block and of the units above it (R101, R108). -/
def State.owesEnd (s : State) (c : CrewRef) (k : Crew) (es : List Ev) : Prop :=
  let b := s.blockD c
  allGive es (s.crewParty c) k (.producer b.unit b.index) ∧ ∀ u ∈ s.unitsAbove b.unit, allGive es (s.crewParty c) k (.unit u)

/-- The members of a crew's block, and of its cluster where it has more than one block. -/
def State.peersOf (s : State) (c : CrewRef) : List (CrewRef × Crew) :=
  let x := s.blockD c
  s.crews.filter (fun p => !p.2.growth && !p.1.isCtl &&
    (p.1.blockId == c.blockId || (decide (2 ≤ (s.recOf c).csize) && (s.blockD p.1).cluster == x.cluster)))

/-- ATTACH takes what the members have done (R91). -/
def State.owesAttach (s : State) (c : CrewRef) (es : List Ev) : Prop :=
  ∃ n, (∃ e ∈ es, e.who = s.crewParty c ∧ e.place = .scalar ∧ .attach (decide (2 ≤ (s.recOf c).csize)) n ∈ e.takes) ∧
    ∀ p ∈ s.peersOf c, allGive es (s.crewParty p.1) p.2 (.attach (decide (2 ≤ (s.recOf c).csize)) n)

/-- The serving instructions (R134). -/
def serves : Instr → Bool
  | .sqadmit _ | .sqnext _ | .sqret _ | .pgalloc _ | .pgref _ | .pgdrop _ | .pgfork _ | .pgmove _ | .pgsend _ | .sieveArm _ | .sieveRead _
  | .sieveDisarm _ | .sampleDraw _ | .sampleVfy _ => true
  | _ => false

/-- A scalar instruction that has completed has its accesses and what it gives and takes; a serving one gives its writes to the park on
its result, and the first event after a control crew's park takes them (R134). -/
def State.scalarOwes (s : State) (c : CrewRef) (k : Crew) (i : Instr) (at' : Nat → Spot) (es : List Ev) : Prop :=
  (∀ f ∈ accessesOf i, owesEach f (s.reachScalar c k i) at' es (fun e => e.place = .scalar)) ∧
  (∀ f ∈ s.owesGive c k i, ∃ e ∈ es, ∃ p ∈ e.gives, f p = true) ∧
  (∀ f ∈ s.owesTake c k i, ∃ e ∈ es, ∃ p ∈ e.takes, f p = true) ∧
  (∀ o, i = .halt o ∨ i = .detach o → s.owesEnd c k es) ∧
  (∀ o, i = .attach o → s.owesAttach c es) ∧
  (serves i = true → ∃ n, ∀ e ∈ es, (∃ d, e.who = .device d) → e.wr = true → .serving (s.crewParty c) n ∈ e.gives) ∧
  (c.isCtl = true → k.parked = true → ∃ e r n,
    es.filter (fun e => e.who == s.crewParty c) = e :: r ∧ .serving (s.crewParty c) n ∈ e.takes)

/-- How many entries have been posted to the notification ring, those that wait among them. -/
def Notify.posts (n : Notify) : Nat := n.tail.toNat + n.waiting.length

/-- What a step owes that posts to the notification ring, or in which the host reads an entry of it (R129): the store that posts gives the
entry's pass, and the read takes that of the newest post at its place. -/
def State.owesBells (s t : State) (es : List Ev) : Prop :=
  (∀ n, s.notify.posts ≤ n → n < t.notify.posts → ∃ e ∈ es, .bell n ∈ e.gives ∧
    (∀ c i s1, s.acting = some (.scalar c, i, s1) → e.who = s1.crewParty c ∧ e.wr = true) ∧
    (∀ c j i s1, s.acting = some (.gang c j, i, s1) → e.who = s1.crewParty c ∧ e.wr = true)) ∧
  (∀ u a s1 size n, s.acting = some (u, .hostMemoryAccess a, s1) → a.kind = .read size → n < s1.notify.tail.toNat →
    s1.notify.tail.toNat ≤ n + 2 ^ s1.notify.log2n.toNat →
    rangesMeet (a.addr.toNat, a.addr.toNat + size)
      (s1.notify.base.toNat + 16 * (n % 2 ^ s1.notify.log2n.toNat), s1.notify.base.toNat + 16 * (n % 2 ^ s1.notify.log2n.toNat) + 16) = true →
    ∃ e ∈ es, .bell n ∈ e.takes)

/-- What a step of a tile instruction owes: its accesses are released to the ends of the units that they work for (R108), and a copy's
access to scratchpad takes the TGIVE of its chunk (R250). -/
def State.owesTile (s : State) (at' : Nat → Spot) (es : List Ev) : Prop :=
  ∀ m s1, s.tileTurn = some (m, s1) → ∀ e ∈ es, e.who = s1.engineParty m.crew →
    (∀ u ∈ s1.unitsAbove (s1.blockD m.crew).unit, m.crew.isCtl = false → .unit u ∈ e.gives) ∧
    (m.instr.isCopy = true → ∀ a ∈ e.bytes, ∀ b o, at' a = .spad b o → ∃ p ∈ e.takes, p.handsOver (chunkName b (o / 512)) = true)

/-- The crews of a block that a step places afresh take the ends of the producer blocks that it needs (R101). -/
def State.owesStart (s t : State) (es : List Ev) : Prop :=
  ∀ b x l p, s.block? b = none → s.savedOf b = none → t.block? b = some x → t.launch? x.unit = some l → t.producer l = some p →
    ∀ j ∈ t.crewsOf b, ∀ i ∈ neededBy l.lr p.lr x.index,
      ∃ e ∈ es, e.who = t.crewParty (.blk b j) ∧ e.place = .scalar ∧ .producer p.uid i ∈ e.takes

/-- The events that a step must have: those of a scalar instruction that has completed, with what it gives and takes; those of
a gang's instruction; a flip of every chunk that the engine hands to the crews (R250); and what the steps of tile instructions, the
starts of consumer blocks and the posts to the notification ring owe. -/
def State.owes (s t : State) (at' : Nat → Spot) (es : List Ev) : Prop :=
  (∀ c i s1 k, s.acting = some (.scalar c, i, s1) → s1.crew? c = some k → s1.wentOn t c i = true → s1.scalarOwes c k i at' es) ∧
  (∀ c j i s1 k r, s.acting = some (.gang c j, i, s1) → s1.crew? c = some k → k.runNow = some r → r.wentOn k t c j i = true →
    s1.laneOwes c k r j i at' es) ∧
  (∀ b i x y n, s.block? b = some x → t.block? b = some y → sparseGet .idle x.chunks i = .engaged n → sparseGet .idle y.chunks i = .held →
    ∃ e ∈ es, ∃ p ∈ e.gives, p.flips (chunkName b i) = true) ∧
  s.owesTile at' es ∧ s.owesStart t es ∧ s.owesBells t es

/-! ### The work of a run -/

/-- The stream of an event: a scalar thread or a lane. -/
def Ev.thread (s : State) (e : Ev) (u : Thread) : Bool :=
  e.who == s.crewParty u.1 && match e.place, u.2 with
    | .scalar, none => true
    | .lane _ _ l, some m => l == m
    | _, _ => false

/-- The parts of the instruction of step k of a run, with the accesses that its streams make among events a to b. -/
def Execution.did (x : Execution) (s t : State) (a b : Nat) : List Did :=
  (s.dids t).map (fun d => { d with evs :=
    ((List.range (b - a)).map (fun n => a + n)).filter (fun i => (x.ev i).thread s d.stream && !(x.ev i).fence) })

/-- What of a pass is numbered, and its number: the phase of a barrier, of which tokens hold 16 bits; the flips of a chunk in one
direction; and the serving instructions of a crew. -/
def Pass.series : Pass → Option Pass
  | .barrier sc b n => some (.barrier sc b (n % 65536))
  | .flip c _ => some (.flip c 0)
  | .give c _ => some (.give c 0)
  | .serving w _ => some (.serving w 0)
  | .attach _ _ | .join _ | .producer _ _ | .unit _ | .bell _ | .transport _ => none
def Pass.number : Pass → Nat
  | .barrier _ _ n => n
  | .flip _ n => n
  | .give _ n => n
  | .serving _ n => n
  | .attach _ _ | .join _ | .producer _ _ | .unit _ | .bell _ | .transport _ => 0

/-- Two passes of one series, the first with the smaller number. -/
def Pass.later (p q : Pass) : Prop :=
  match p, q with
  | .barrier sc b n, .barrier sd d m => sc = sd ∧ b = d ∧ n < m
  | .flip c n, .flip d m => c = d ∧ n < m
  | .give c n, .give d m => c = d ∧ n < m
  | .serving c n, .serving d m => c = d ∧ n < m
  | _, _ => False

/-- The execution is that of a run of n steps (R235): m i is the content of the locations before event i; step k performs the events
from cut k to cut (k + 1), which its turn makes and which hold all that it owes; and location a lies at loc k a before step k, which
changes only as State.relocates says (R238, R253). A read gets what its location holds, a write puts what it writes there, and nothing
else changes a location. The work is that of the instructions that the steps execute (R241). An access reaches a chunk that the engine
holds where it says so (R251). What is given is taken only later; what is taken of a series of which something was given before is
the newest of it, and no phase, flip or serving instruction is given after a later one. -/
structure Execution.Performs (x : Execution) (run : Nat → State) (n : Nat) (cut : Nat → Nat) (loc : Nat → Nat → Spot)
    (m : Nat → Nat → Byte) : Prop where
  begins : cut 0 = 0
  ends : cut n = x.evs.length
  goesOn : ∀ k < n, cut k ≤ cut (k + 1)
  acts : ∀ k < n, ∀ i, cut k ≤ i → i < cut (k + 1) → (run k).does (loc k) (x.ev i)
  owes : ∀ k < n, (run k).owes (run (k + 1)) (loc k) ((x.evs.take (cut (k + 1))).drop (cut k))
  worked : x.work = (List.range n).map (fun k => x.did (run k) (run (k + 1)) (cut k) (cut (k + 1)))
  moves : ∀ k < n, ∀ a, loc (k + 1) a = loc k a ∨ (run k).relocates (run (k + 1)) (loc k a) (loc (k + 1) a)
  memory : ∀ k ≤ n, ∀ a, loc k a ≠ .gone → (run k).spot (loc k a) = m (cut k) a
  holds : ∀ k < n, ∀ i u, cut k ≤ i → i < cut (k + 1) → (x.ev i).held = some u →
    ∃ a ∈ (x.ev i).bytes, ∃ b o y, loc k a = .spad b o ∧ (run k).block? b = some y ∧ sparseGet .idle y.chunks (o / 512) = .engaged u
  start : ∀ a, x.start a = m 0 a
  write : ∀ i a, x.writes i a → m (i + 1) a = x.put i a
  keep : ∀ i a, ¬ x.writes i a → m (i + 1) a = m i a
  read : ∀ i a, x.reads i a → x.got i a = m i a
  src : ∀ r a, x.reads r a → match x.src r a with
    | some w => w < r ∧ x.writes w a ∧ ∀ v, w < v → v < r → ¬ x.writes v a
    | none => ∀ v, v < r → ¬ x.writes v a
  coh : ∀ a i, x.coh a i = i
  total : ∀ i, x.total i = i
  given : ∀ i j, x.passes i j → i < j
  newest : ∀ i j p q, i < j → p ∈ (x.ev i).gives → q ∈ (x.ev j).takes → q.series ≠ none → p.series = q.series →
    p.number ≤ q.number ∧ ∃ h < j, q ∈ (x.ev h).gives
  counted : ∀ i j p q, i < j → p ∈ (x.ev i).gives → q ∈ (x.ev j).gives → ¬ q.later p

end Sys2Proof.Machine
end

