-- ==== Sys2Proof/Safety.lean ====
section
/-!
DEFINITION. What counts as a safe step, who issues, and what a step leaves as it was, in the terms that statements use.
-/

namespace Sys2Proof

open Machine

/-- A step of the package goes on: it answers a next state. -/
def Goes (s : State) : Prop := ∃ t, Machine.step s = .next t

/-- The memory of a state has its canonical form. -/
def MemOk (s : State) : Prop := Memory.wf s.mem = true

/-! ### Who issues -/

/-- The scalar thread of crew c, whose registers are k, has the turn, and R91 lets it execute any instruction. -/
def ScalarAt (s : State) (c : CrewRef) (k : Crew) : Prop :=
  s.turn = .scalar c ∧ s.crew? c = some k ∧ (k.growth = false ∨ k.h = true)

/-- The same for a crew of a block: the instructions that a control crew does not have (R67, R215). -/
def BlockAt (s : State) (b j : Nat) (k : Crew) : Prop := ScalarAt s (.blk b j) k

/-- A gang has the turn: t is the gang of a slice that takes part in the executing run and has not left it. -/
def GangAt (s : State) (t : LaneTurn) : Prop :=
  ∃ i k r, s.turn = .gang t.c i ∧ s.crew? t.c = some k ∧ k.runNow = some r ∧ (r.slice i).live = true ∧ t = r.laneTurn t.c k i

/-- Every vector register of a list lies below the run's group limit (R70). -/
def Below (t : LaneTurn) (regs : List Nat) : Prop := ∀ n ∈ regs, n < 8 * t.r.groups

/-- The lanes that an instruction with guard g executes in (R42): in a replay of lanes, those of TREP whatever the guard reads (R319). -/
def lanesOn (t : LaneTurn) (g : Guard) : W32 := if t.guarded then t.cur &&& t.k.guardMask g else t.cur

/-- Lane l is among them. -/
def OnLane (t : LaneTurn) (g : Guard) (l : Nat) : Prop := (lanesOn t g).toNat.testBit l = true

/-! ### What an instruction answers -/

/-- A scalar instruction writes v to rd at once and goes on to the next word. -/
def Writes (i : Instr) (s : State) (c : CrewRef) (k : Crew) (rd : BitVec 7) (v : W64) (sw : Bool) : Prop :=
  exec i s = .next (s.putCrew c ((k.swrite rd v).next sw))

/-- A scalar instruction goes on to the next word; v and its flags reach rd later (R46, R187). -/
def Delivers (i : Instr) (s : State) (c : CrewRef) (k : Crew) (rd : BitVec 7) (v : W64) (f : Flags) (sw : Bool) : Prop :=
  exec i s = .next (s.putCrew c ((k.pendS rd v f).next sw))

/-- A scalar instruction takes a precise trap with a cause and an address (R315). -/
def Traps (i : Instr) (s : State) (c : CrewRef) (cause : Nat) (addr : W64) : Prop := exec i s = .next (s.trapAt c cause addr)

/-- The error log has taken an entry of four words, when it is enabled and its ring may be reached, and nothing else has changed
(R327); an entry whose write must wait is kept behind those that wait (R252, R301). -/
def LogTakes (s t : State) (cause chiplet code addr : Nat) : Prop :=
  (s.mbox.elEn = false → t = s) ∧
  (s.mbox.elEn = true → ∀ pa bs, pa = s.mbox.elBase.toNat + 32 * (s.mbox.elTail.toNat % 2 ^ s.mbox.elLog2.toNat) →
    bs = bytesOf 8 (cause + 256 * chiplet) ++ bytesOf 8 code ++ bytesOf 8 addr ++ bytesOf 8 s.ident.stamp.toNat →
    ((s.mbox.elWait ≠ [] ∨ (s.reaches false pa 32 = true ∧ s.stalledPa 0 pa 32 = true)) →
      t = { s with mbox := { s.mbox with elWait := s.mbox.elWait ++ [bs] } }) ∧
    (s.mbox.elWait = [] → s.stalledPa 0 pa 32 = false →
      t = { s with mem := t.mem, mbox := { s.mbox with elTail := s.mbox.elTail + 1 } } ∧
      (s.reaches false pa 32 = true → sparseRead unlistedByte t.mem pa 32 = bs ∧
        ∀ a, (a < pa ∨ pa + 32 ≤ a) → t.byte a = s.byte a)))

/-- A scalar instruction waits: it has no effect yet, and is issued again (R65). -/
def Waits (i : Instr) (s : State) (c : CrewRef) : Prop := exec i s = .next (s.waitScalar c)

/-- A scalar instruction changes the crew to k' and goes on to the next word. -/
def Changes (i : Instr) (s : State) (c : CrewRef) (k' : Crew) (sw : Bool) : Prop := exec i s = .next (s.putCrew c (k'.next sw))

/-- A transfer to tgt, with the registers of k': it takes place when the target is valid (R53, R54), and traps BADTGT with nothing
written when it is not. -/
def Transfers (i : Instr) (s : State) (c : CrewRef) (k k' : Crew) (sw : Bool) (tgt : W64) : Prop :=
  (s.scalarTarget c k tgt = true → exec i s = .next (s.putCrew c (k'.jump sw (tgt.setWidth 24)))) ∧
  (s.scalarTarget c k tgt = false → Traps i s c cBADTGT 0)

/-- The target of a branch with an offset in words: the offset is added modulo 2^16 and the overlay stays (R54, R68). -/
def branchTarget (k : Crew) (words : Int) : W64 :=
  BitVec.ofNat 64 (k.pc.toNat / 65536 * 65536 + ((((k.pc.toNat % 65536 : Nat) : Int) + 4 * words) % 65536).toNat)

/-- A load of n bytes: the checks of R255 name the bytes or a cause; the bytes, as a number, give rd its value later; an access that
cannot be made now stalls (State.stallScalar). -/
def Loads (i : Instr) (s : State) (c : CrewRef) (k : Crew) (o : OpDAI) (n : Nat) (val : Nat → W64) : Prop :=
  ∀ va : W64, va = BitVec.ofInt 64 ((s.sread c k o.ra).toInt + o.imm.toInt * n) →
    (∀ ls s1, s.access c .read va n = (.ok ls, s1) → s.stalledLocs (s.seat c) ls = false → s.poisonedLocs ls = false →
      exec i s = .next (s1.putCrew c ((k.pendS o.rd (val (ofBytes (s.readLocs c ls))) 0).next o.sw))) ∧
    (∀ ls s1, s.access c .read va n = (.ok ls, s1) → s.stalledLocs (s.seat c) ls = true →
      exec i s = .next (s.stallScalar c k.pc ls va)) ∧
    (∀ ls s1, s.access c .read va n = (.ok ls, s1) → s.stalledLocs (s.seat c) ls = false → s.poisonedLocs ls = true →
      ∃ e : MemErr, e.inH = k.h ∧ e.ipc = k.pc ∧ e.addr = va ∧
        exec i s = .next (s1.putCrew c ({ k with memerr := k.memerr ++ [e] }.next o.sw))) ∧
    (∀ e s1, s.access c .read va n = (.error e, s1) → Traps i s c e (s.failAddr c .read va n e))

/-- A store of the low n bytes of the register that rd names: the checks of R255 name the bytes written or a cause. -/
def Stores (i : Instr) (s : State) (c : CrewRef) (k : Crew) (o : OpDAI) (n : Nat) : Prop :=
  ∀ va : W64, va = BitVec.ofInt 64 ((s.sread c k o.ra).toInt + o.imm.toInt * n) →
    (∀ ls s1, s.access c .write va n = (.ok ls, s1) → s.stalledLocs (s.seat c) ls = false →
      exec i s = .next ((s1.putCrew c (k.next o.sw)).writeLocs c true ls (bytesOf n (s.sread c k o.rd).toNat))) ∧
    (∀ ls s1, s.access c .write va n = (.ok ls, s1) → s.stalledLocs (s.seat c) ls = true →
      exec i s = .next (s.stallScalar c k.pc ls va)) ∧
    (∀ e s1, s.access c .write va n = (.error e, s1) → Traps i s c e (s.failAddr c .write va n e))

/-- A scalar atomic on n bytes with operator op: the location's old value reaches rd later, and the new one is written at once
(R261, R263, R266). -/
def Atomic (i : Instr) (s : State) (c : CrewRef) (k : Crew) (o : OpAt) (n : Nat) (op : Nat → Nat → Nat → Nat × Flags) : Prop :=
  ∀ va : W64, va = s.sread c k o.ra →
    (∀ ls s1, s.access c .atomic va n = (.ok ls, s1) → s.stalledLocs (s.seat c) ls = false → s.poisonedLocs ls = false →
      (o.sc = .sy → s.bellStall ls = false) →
      ∀ old r, old = ofBytes (s.readLocs c ls) →
        r = op old ((s.sread c k o.rb).toNat % 2 ^ (8 * n)) ((s.sread c k (o.rb + 1)).toNat % 2 ^ (8 * n)) →
        ∀ t, t = (s1.putCrew c ((k.pendS o.rd (BitVec.ofNat 64 old) r.2).next o.sw)).writeLocs c false ls (bytesOf n r.1) →
          exec i s = .next (if o.sc = .sy then t.postBells ls else t)) ∧
    (∀ ls s1, s.access c .atomic va n = (.ok ls, s1) → s.stalledLocs (s.seat c) ls = false → s.poisonedLocs ls = true →
      (o.sc = .sy → s.bellStall ls = false) → Traps i s c cMEMERR va) ∧
    (∀ ls s1, s.access c .atomic va n = (.ok ls, s1) →
      (s.stalledLocs (s.seat c) ls = true → exec i s = .next (s.stallScalar c k.pc ls va)) ∧
      (s.stalledLocs (s.seat c) ls = false → o.sc = .sy → s.bellStall ls = true → exec i s = .next s)) ∧
    (∀ e s1, s.access c .atomic va n = (.error e, s1) → Traps i s c e (s.failAddr c .atomic va n e))

/-- A lane instruction leaves the crew as k' and its gang goes on to the next lane word. -/
def LaneGoes (i : Instr) (s : State) (t : LaneTurn) (sw : Bool) (k' : Crew) : Prop :=
  exec i s = .next (s.putCrew t.c (t.next sw k'))

/-- The lane instruction writes one 32-bit register in every lane it executes in: the result of lane l and the flags that
computing it raises; nothing else of the crew changes. -/
def LaneSets (i : Instr) (s : State) (t : LaneTurn) (g : Guard) (sw : Bool) (vd : BitVec 9) (f : Nat → W32 × Flags) : Prop :=
  ∃ k', LaneGoes i s t sw k' ∧ k' = { t.k with v := k'.v, flags := k'.flags } ∧
    (∀ l n, l < 32 → OnLane t g l → k'.vread l n = if n = vd.toNat then (f l).1 else t.k.vread l n) ∧
    (∀ l n, l < 32 → ¬ OnLane t g l → k'.vread l n = t.k.vread l n) ∧
    (∀ b : Nat, k'.flags.toNat.testBit b =
      (t.k.flags.toNat.testBit b || (List.range 32).any (fun l => (lanesOn t g).toNat.testBit l && (f l).2.toNat.testBit b)))

/-- The same with a 64-bit result in the pair vd, vd + 1, and no flags. -/
def LaneSets64 (i : Instr) (s : State) (t : LaneTurn) (g : Guard) (sw : Bool) (vd : BitVec 9) (f : Nat → W64) : Prop :=
  ∃ k', LaneGoes i s t sw k' ∧ k' = { t.k with v := k'.v } ∧
    (∀ l n, l < 32 → OnLane t g l → k'.vread l n =
      if n = vd.toNat then (f l).setWidth 32 else if n = vd.toNat + 1 then (f l >>> 32).setWidth 32 else t.k.vread l n) ∧
    (∀ l n, l < 32 → ¬ OnLane t g l → k'.vread l n = t.k.vread l n)

/-- The lane instruction writes a predicate in the lanes it executes in. -/
def LanePreds (i : Instr) (s : State) (t : LaneTurn) (g : Guard) (sw : Bool) (pd : Nat) (f : Nat → Bool) : Prop :=
  ∃ k', LaneGoes i s t sw k' ∧ k' = { t.k with p := k'.p } ∧
    (∀ l n, l < 32 → OnLane t g l → k'.pread l n = if n = pd then f l else t.k.pread l n) ∧
    (∀ l n, l < 32 → ¬ OnLane t g l → k'.pread l n = t.k.pread l n)

/-! ### Lane operands and results -/

/-- The number that a 32-bit or a 64-bit register value stands for under TY (R45, R193). -/
def tyNum (ty : Ty) (x : W32) (y : W64) : Int :=
  match ty with
  | .i32 => x.toInt
  | .u32 => (x.toNat : Int)
  | .i64 => y.toInt
  | .u64 => (y.toNat : Int)

/-- The first operand of lane l as a number under TY: a register or pair, or a run constant (R43). -/
def numA (t : LaneTurn) (ty : Ty) (a : SrcA) (l : Nat) : Int := tyNum ty (srcA32 t.k t.r a l) (srcA64 t.k t.r a l)

/-- The second operand: a register or pair, or an immediate, sign-extended for .i64 and zero-extended for .u64 (R44, R186). -/
def numB (t : LaneTurn) (ty : Ty) (b : SrcB) (l : Nat) : Int :=
  match b with
  | .reg v => tyNum ty (t.k.vread l v.toNat) (t.k.vread64 l v.toNat)
  | .imm w => (match ty with | .i32 | .i64 => w.toInt | .u32 | .u64 => (w.toNat : Int))

/-- A register operand. -/
def numV (t : LaneTurn) (ty : Ty) (v : BitVec 9) (l : Nat) : Int := tyNum ty (t.k.vread l v.toNat) (t.k.vread64 l v.toNat)

/-- The least and the greatest number under TY. -/
def tyMin : Ty → Int | .i32 => -2147483648 | .u32 => 0 | .i64 => -9223372036854775808 | .u64 => 0
def tyMax : Ty → Int
  | .i32 => 2147483647 | .u32 => 4294967295 | .i64 => 9223372036854775807 | .u64 => 18446744073709551615

/-- With .sat a result is clipped to the range of TY (R193). -/
def satNum (sat : Bool) (ty : Ty) (v : Int) : Int := if sat then min (max v (tyMin ty)) (tyMax ty) else v

/-- The lane instruction writes the integer f l modulo 2^w to vd, a pair when w is 64, in every lane it executes in. -/
def LaneInts (i : Instr) (s : State) (t : LaneTurn) (g : Guard) (sw : Bool) (ty : Ty) (vd : BitVec 9) (f : Nat → Int) : Prop :=
  if ty = .i64 ∨ ty = .u64 then LaneSets64 i s t g sw vd (fun l => BitVec.ofInt 64 (f l))
  else LaneSets i s t g sw vd (fun l => (BitVec.ofInt 32 (f l), 0))

/-- The width w of TY. -/
def tyBits (ty : Ty) : Nat := if ty = .i64 ∨ ty = .u64 then 64 else 32

/-- The registers that a 32-bit instruction of two sources names. -/
def regs32 (vd : BitVec 9) (a : SrcA) (b : SrcB) : List Nat := vd.toNat :: (a.named false ++ b.named false)

/-- The guard of a lane instruction that names vector registers, and the registers it names, its destination first, then its
sources: both registers of a pair, and every register of a group that REORD moves (R43, R70, R93). -/
def vectorRegs : Instr → Option (Guard × List Nat)
  | .iadd o | .isub o | .imul o | .imulh o | .imin o | .imax o | .iand o | .ior o | .ixor o | .ishl o | .ishr o | .isar o =>
    let p := o.ty.is64
    some (o.g, vNamed p o.vd ++ o.va.named p ++ o.vb.named p)
  | .imad o => let p := o.ty.is64; some (o.g, vNamed p o.vd ++ o.va.named p ++ o.vb.named p ++ vNamed p o.vc)
  | .ipop o | .iclz o => some (o.g, o.vd.toNat :: o.va.named o.ty.is64)
  | .ibfe o => let p := o.ty.is64; some (o.g, vNamed p o.vd ++ o.va.named p)
  | .ibfi o => let p := o.ty.is64; some (o.g, vNamed p o.vd ++ o.va.named p ++ vNamed p o.vb)
  | .fadd o | .fsub o | .fmul o => some (o.g, regs32 o.vd o.va o.vb)
  | .fmin o | .fmax o => some (o.g, regs32 o.vd o.va o.vb)
  | .ffma o => some (o.g, regs32 o.vd o.va o.vb ++ [o.vc.toNat])
  | .frnd o => some (o.g, o.vd.toNat :: o.va.named false)
  | .cvt o => some (o.g, o.vd.toNat :: o.va.named false)
  | .exp2 o | .log2 o | .rcp o | .rsq o | .sqrt o | .tanh o | .mov o => some (o.g, o.vd.toNat :: o.va.named false)
  | .pack o | .unpack o => some (o.g, regs32 o.vd o.va (.reg o.vb))
  | .icmp o => some (o.g, o.va.named o.ty.is64 ++ o.vb.named o.ty.is64)
  | .fcmp o => some (o.g, o.va.named false ++ o.vb.named false)
  | .movi o => some (o.g, [o.vd.toNat])
  | .laneSel o => some (o.g, regs32 o.vd o.va (.reg o.vb))
  | .shfl o => some (o.g, o.vd.toNat :: (o.va.named false ++ o.src.named))
  | .vote o => if o.mode = .ballot ∨ o.mode = .popc then some (o.g, [o.d.toNat]) else none
  | .xput o => some (o.g, o.va.named false)
  | .reord o => some (⟨false, false, 0⟩, o.vd.toNat :: (o.va.named false ++ (maskList 32 o.groups.toNat).map (fun g => 8 * g)))
  | .ld o => some (o.g, vNamed (o.wd == .b64) o.vd ++ o.va.named true)
  | .st o => some (o.g, vNamed (o.wd == .b64) o.vb ++ o.va.named true)
  | .pref o => some (o.g, o.va.named true)
  | .atom o => some (o.g, vNamed o.w64 o.vd ++ o.va.named true ++ vNamed o.w64 o.vb ++ (if o.op.hasC then vNamed o.w64 o.vc else []))
  | _ => none

/-- The lane instruction leaves the value f l outstanding in register vd of each lane it executes in, in ascending order; nothing
else of the crew changes (R46). -/
def LaneLate (i : Instr) (s : State) (t : LaneTurn) (g : Guard) (sw : Bool) (vd : BitVec 9) (f : Nat → W32 × Flags) : Prop :=
  ∃ k', LaneGoes i s t sw k' ∧ k' = { t.k with out := t.k.out ++ (maskList 32 (lanesOn t g).toNat).map (fun l =>
    ⟨.slice (l / 4), t.k.h, .vreg (32 * vd.toNat + l), some (f l).1.toNat, (f l).2, 0⟩) }

/-- A control instruction of gang t has left the crew as k': each slice of the gang has changed as f says and stays in the run, its
slices share a gang exactly when they share an address, and every other slice and all else of the crew are as before (R74). -/
def Branched (t : LaneTurn) (k' : Crew) (f : Nat → Slice → Slice → Prop) : Prop :=
  ∃ r, k'.runNow = some r ∧ k' = { t.k with runs := k'.runs, hrun := k'.hrun } ∧
    ∀ j < 8, (j ∉ t.gang → r.slice j = t.r.slice j) ∧
      (j ∈ t.gang → f j (t.r.slice j) (r.slice j) ∧ (r.slice j).live = true ∧
        ∀ i ∈ t.gang, ((r.slice i).gang = (r.slice j).gang ↔ (r.slice i).pc = (r.slice j).pc))

/-- A slice has reconverged: the deferred path of the top entry runs, or the entry is popped and its mask restored (R75). -/
def Rejoined (x y : Slice) : Prop :=
  match x.stack with
  | [] => False
  | e :: rest =>
    if e.pending ≠ 0 ∧ e.ran = false then
      y.cur = e.pending ∧ y.pc = codeIn x.pc e.target.toNat ∧ y.stack = { e with ran := true } :: rest
    else y.cur = e.restore ∧ y.pc = codeIn x.pc e.join.toNat ∧ y.stack = rest

/-! ### Serving instructions -/

/-- A serving instruction whose effect reaches some ranges of memory, in the state u: SRVCFG when the Foreman may not reach one of them
(R291), a stall while a page of them migrates or no link leads there (R252, R301), and what is said last when neither holds. The trap and
the stall leave the state q. -/
def ServedFrom (i : Instr) (s q : State) (c : CrewRef) (u : State) (x : Nat) (spans : List (Nat × Nat)) (goes : Prop) : Prop :=
  ((∃ r ∈ spans, u.reaches (u.ctxWorld x) r.1 r.2 = false) → exec i s = .next (q.trapAt c cSRVCFG 0)) ∧
  ((∀ r ∈ spans, u.reaches (u.ctxWorld x) r.1 r.2 = true) →
    ((∃ r ∈ spans, u.stalledPa 0 r.1 r.2 = true) → exec i s = .next q) ∧
    ((∀ r ∈ spans, u.stalledPa 0 r.1 r.2 = false) → goes))

/-- The same of an instruction that has changed nothing before. -/
def Served (i : Instr) (s : State) (c : CrewRef) (u : State) (x : Nat) (spans : List (Nat × Nat)) (goes : Prop) : Prop :=
  ServedFrom i s s c u x spans goes

/-! ### Tile instructions -/

/-- An entry of the MOS queue as an instruction gives it: everything that its acceptance fixes, but for the context, the ranges it
uses, its record, its chunks and its gang word (R114). -/
def EntryOf (s : State) (c : CrewRef) (k : Crew) (i : Instr) (vals : List W64) (e : MosEntry) : Prop :=
  e = { s.newTile c k i vals with ctx := e.ctx, sp := e.sp, wb := e.wb, tsr := e.tsr, chunks := e.chunks, gang := e.gang }

/-- An entry joins the queue at its end, the crew goes on to the next word, and a destination of the instruction is outstanding
until the entry completes (R46, R114). -/
def queued (s : State) (c : CrewRef) (k : Crew) (sw : Bool) (rd : Option (BitVec 7)) (e : MosEntry) : State :=
  let k1 : Crew := match rd with
    | some r => if r.toNat < 96 then k.pend (.sreg r.toNat) none 0 e.uid else k
    | none => k
  { (s.putCrew c (k1.next sw)).putMos c (s.mosOf c ++ [e]) with nextUid := s.nextUid + 1 }

/-- A tile instruction is accepted: an entry e of which P holds joins the queue. A full queue makes the instruction wait without an
effect (R114). -/
def Accepts (i : Instr) (s : State) (c : CrewRef) (k k' : Crew) (sw : Bool) (rd : Option (BitVec 7)) (vals : List W64)
    (P : MosEntry → Prop) : Prop :=
  (s.mosFull c = true → exec i s = .next s) ∧
  (s.mosFull c = false → ∃ e, EntryOf s c k i vals e ∧ P e ∧ exec i s = .next (queued s c k' sw rd e))

/-- The checks that an instruction makes in order: the first whose condition holds traps precisely with its cause; when none holds,
the instruction does what is said last (R52, R215). -/
def InOrder (i : Instr) (s : State) (c : CrewRef) : List (Prop × Nat) → Prop → Prop
  | [], goes => goes
  | (bad, cause) :: rest, goes => (bad → Traps i s c cause 0) ∧ (¬ bad → InOrder i s c rest goes)

/-- A scratchpad range passes the block's allocation (R215). -/
def PastPad (s : State) (b : Nat) (r : Nat × Nat) : Prop := 512 * s.scrchOf b < r.2

/-- The columns and rows of a softmax instruction lie below 128, and its two column ranges do not overlap (R229). -/
def ColsOk (w : Cols) : Prop :=
  w.c0 + w.ns ≤ 128 ∧ w.o0 + w.no ≤ 128 ∧ (w.no = 0 ∨ w.c0 + w.ns ≤ w.o0 ∨ w.o0 + w.no ≤ w.c0)

/-- A binary32 scale that is positive, finite and normal (R229). -/
def ScaleOk (v : Nat) : Prop := 0x00800000 ≤ v ∧ v < 0x7F800000

/-- The operand codes of a copy: s[rd] is the copy word, s[ra] the record's address, and rb the origin run. -/
def copyForm : Instr → Option (Bool × BitVec 7 × BitVec 7 × BitVec 7)
  | .tld o | .tst o | .tgath o | .tscat o => some (o.sw, o.rd, o.ra, o.rb)
  | .tred o => some (o.sw, o.rd, o.ra, o.rb)
  | _ => none

/-- The five operand words of a copy: the copy word, the record's address, and the origin run. -/
def copyVals (s : State) (c : CrewRef) (k : Crew) (rd ra rb : BitVec 7) : List W64 :=
  [s.sread c k rd, s.sread c k ra, s.sread c k rb, s.sread c k (rb + 1), s.sread c k (rb + 2)]

/-- Check 1 of R271: a copy word or an origin field lies outside the limits that need no record. -/
def CopyWordBad (i : Instr) (vals : List W64) : Prop :=
  let w := (listGet 0 vals 0).toNat
  bitsN w 31 28 ≠ 0 ∨ w % 64 ≠ 0 ∨ bitsN (listGet 0 vals 4).toNat 63 32 % 4 ≠ 0 ∨ (bitsN w 63 48 ≠ 0 ∧ ∀ o, i ≠ .tld o)

/-- The step of entry e, of a crew of the core, is the next one of its engine: MOS_STEP performs it. -/
def StepTurn (s : State) (core n : Nat) (e : MosEntry) : Prop :=
  s.tileAtQ core n = some e ∧ e ∈ s.mosOf e.crew ∧ s.coreOf e.crew < s.cores.length ∧ s.hasStep e = true ∧ s.arrayTurn e = true ∧
    s.tileFirst e = true ∧ (e.isJoint = true → e.joint ≠ none)

/-- The same of an entry of a block's crew that uses context ci of its core. -/
def ContextTurn (s : State) (core n b j ci : Nat) (e : MosEntry) : Prop :=
  StepTurn s core n e ∧ e.crew = .blk b j ∧ e.ctx = some ci ∧ ci < (s.core (s.coreOf e.crew)).ctxs.length

/-- Of an entry with a number of steps in all, one is done: it stands at the next step, or has left the queue with a result v for its
destination (R46, R218). -/
def SteppedOn (s t : State) (e : MosEntry) (total v : Nat) : Prop :=
  (e.step + 1 < total → { e with started := true, step := e.step + 1 } ∈ t.mosOf e.crew) ∧
  (total ≤ e.step + 1 → (∀ x ∈ t.mosOf e.crew, x.uid ≠ e.uid) ∧ ∀ k, s.crew? e.crew = some k → ∃ k', t.crew? e.crew = some k' ∧
    k' = { k with out := k'.out, flags := k'.flags } ∧
    k'.out = k.out.map (fun p => if p.tag = e.uid ∧ p.val = none then { p with val := some v } else p))

/-- binary32 code c after the groups of R183 among 16 indices from k0 on: each adds the exact sum of g products, rounded once. -/
def sumGroups (g k0 c : Nat) (p : Nat → Ex) : Nat :=
  (List.range (16 / g)).foldl (fun c q =>
    (rn32 ((val32 c).add false (groupSum ((List.range g).map (fun n => p (k0 + q * g + n)))))).code % 2 ^ 32) c

/-- An entry (distance, index) ranks before another (R228). -/
def ranksBefore (a b : Nat × Nat) : Bool := (val32 a.1).lt (val32 b.1) || (!(val32 b.1).lt (val32 a.1) && decide (a.2 < b.2))

/-- A list of R228 that has taken a candidate: a NaN distance and an entry that it holds change nothing. -/
def ranked (k : Nat) (l : List (Nat × Nat)) (e : Nat × Nat) : List (Nat × Nat) :=
  if (val32 e.1).isNan = true ∨ e ∈ l then l
  else (l.takeWhile (fun h => !ranksBefore e h) ++ e :: l.dropWhile (fun h => !ranksBefore e h)).take k

/-- Row i of a context holds a list of nearest candidates, with its side registers (R228). -/
def ListRow (x : Ctx) (k i : Nat) (l : List (Nat × Nat)) : Prop :=
  l.length ≤ k ∧ (∀ n y, l[n]? = some y → x.at i (2 * n) = y.1 ∧ x.at i (2 * n + 1) = y.2) ∧
  x.sumAt i = (rn32 (Ex.ofInt l.length)).code ∧ (l.length < k → x.maxAt i = 0x7F800000) ∧
  (∀ y, l.length = k → l.getLast? = some y → x.maxAt i = y.1)

/-- The binary32 code of exp2(rn(rn(a - b) x SCALE)), as R229 and R231 use it. -/
def softExp (sc a b : Nat) : Nat := (exp2R (val32 (rn2 Ex.mul (rn2 (Ex.sub false) a b).1 sc).1)).code

/-- The maximum of two codes as R229 and R231 take it: a NaN makes it NaN. -/
def softMax (a b : Nat) : Nat := if (val32 a).isNan = true ∨ (val32 b).isNan = true then 0x7FC00000 else maxCode a b

/-- The scratchpad ranges of a copy: its tile, and its index list. -/
def copyRanges (g : Geo) : List (Nat × Nat) := g.extent :: g.list

/-- The chunks that TWAIT and TGIVE name: bit i of the mask names chunk first + i (R270). -/
def Named (first mask : W64) (n : Nat) : Prop := ∃ i < 64, mask.toNat.testBit i = true ∧ n = first.toNat + i

/-! ### Barriers -/

/-- The number of 1 bits of a value. -/
def ones (v : W32) : Nat := ((List.range 32).filter (fun n => v.toNat.testBit n)).length

/-- The accumulator a after an arrival with an operator and a value v, of which .popc counts n, where the phase has gathered acc under
the operator now (R87). -/
def Joined (now op : BarOp) (acc v : W32) (n : Nat) (a : W32) : Prop :=
  (op = .none → a = acc) ∧
  (op = .and → a = if now = .none then v else acc &&& v) ∧
  (op = .or → a = if now = .none then v else acc ||| v) ∧
  (op = .sum → a = if now = .none then v else acc + v) ∧
  (op = .popc → a = BitVec.ofNat 32 ((if now = .none then 0 else acc.toNat) + n))

/-- Barrier y has become z by the arrival of member me (R84, R86, R87): the last member completes the phase. -/
def PhaseStep (y z : Barrier) (me : Nat) (op : BarOp) (v : W32) (n : Nat) : Prop :=
  ∃ a, Joined y.op op y.acc v n a ∧
    (y.arrivals + 1 = y.members → z.phase = y.phase + 1 ∧ z.arrivals = 0 ∧ z.arrived = [] ∧ z.op = .none ∧ z.deferred = 0 ∧
      z.members = y.members - y.deferred ∧ z.result = a) ∧
    (y.arrivals + 1 ≠ y.members →
      z = { y with arrivals := y.arrivals + 1, arrived := y.arrived ++ [me], op := if op = .none then y.op else op, acc := a })

/-- The scalar instructions that a control crew does not have (R67, R215). -/
def needsBlock : Instr → Bool
  | .lrun _ | .lrunReg _ | .ljoin _ | .barrive _ | .bwait _ | .btest _ | .attach _ | .detach _ | .claim _ | .release _ => true
  | .tld _ | .tst _ | .tgath _ | .tscat _ | .tred _ | .twait _ | .tgive _ => true
  | .tshape _ | .gang _ | .wloadImg _ | .wloadTile _ | .mma _ | .mxpop _ | .mdist _ | .msmax _ | .mnorm _ | .mmerge _ => true
  | .mdrain _ | .mzeroAcq _ | .mzeroClr _ | .mzeroRel _ => true
  | _ => false

/-! ### Frames -/

/-- Nothing but the crew c has changed: every other crew, every byte of memory and every other part of the package is as before. -/
def OnlyCrew (s t : State) (c : CrewRef) : Prop :=
  { t with crews := s.crews } = s ∧ (∀ d, d ≠ c → t.crew? d = s.crew? d) ∧ (∀ a, t.byte a = s.byte a)

/-- A scalar instruction has left all of its crew but register rd, its code address and its stream's markers; a register that the
supervisor bank hides keeps its value too (R313). -/
def OnlyReg (k k' : Crew) (rd : BitVec 7) : Prop :=
  k' = { k with s := k'.s, bank := k'.bank, pc := k'.pc, park := k'.park, parkH := k'.parkH, wait := k'.wait } ∧
  (∀ r, r ≠ rd.toNat → sparseGet 0 k'.s r = sparseGet 0 k.s r) ∧
  (∀ r, 80 + r ≠ rd.toNat → sparseGet 0 k'.bank r = sparseGet 0 k.bank r) ∧
  (if k.h = true ∧ 80 ≤ rd.toNat then k'.s = k.s else k'.bank = k.bank)

/-- A scalar instruction has left every register of its crew: only its code address and its stream's markers have changed. -/
def OnlyPc (k k' : Crew) : Prop :=
  k' = { k with pc := k'.pc, park := k'.park, parkH := k'.parkH, wait := k'.wait }

/-- A crew one scalar word on, with the markers of k'. -/
def pastWord (k k' : Crew) : Crew := { k with pc := codeAdd k.pc 4, park := k'.park, parkH := k'.parkH, wait := false }

/-- The register that a scalar ALU, select or constant instruction writes; NOP and SFENCE write none, which code 96 says. -/
def aluDest : Instr → Option (BitVec 7)
  | .add o | .sub o | .mul o | .mulh o | .and o | .or o | .xor o | .shl o | .shr o | .sar o | .min o | .max o | .minu o
  | .maxu o => some o.rd
  | .sel o => some o.rd
  | .addImm o | .mulImm o | .andImm o | .orImm o | .xorImm o => some o.rd
  | .shlImm o | .shrImm o | .sarImm o => some o.rd
  | .li o | .lih o => some o.rd
  | .nop _ | .sfence _ => some 96
  | _ => none

/-- The operands and the bytes of a scalar load. -/
def loadForm : Instr → Option (OpDAI × Nat)
  | .sldU8 o | .sldI8 o => some (o, 1)
  | .sldU16 o | .sldI16 o => some (o, 2)
  | .sldU32 o | .sldI32 o => some (o, 4)
  | .sld64 o => some (o, 8)
  | _ => none

/-- The operands and the bytes of a scalar store. -/
def storeForm : Instr → Option (OpDAI × Nat)
  | .sst8 o => some (o, 1)
  | .sst16 o => some (o, 2)
  | .sst32 o => some (o, 4)
  | .sst64 o => some (o, 8)
  | _ => none

/-- The operands and the bytes of a scalar atomic. -/
def atomicForm : Instr → Option (OpAt × Nat)
  | .satomAdd32 o | .satomAnd32 o | .satomOr32 o | .satomXor32 o | .satomMin32 o | .satomMax32 o | .satomMinu32 o
  | .satomMaxu32 o | .satomXchg32 o | .satomCas32 o | .satomFadd32 o | .satomIncw32 o | .satomBfadd32 o => some (o, 4)
  | .satomAdd64 o | .satomAnd64 o | .satomOr64 o | .satomXor64 o | .satomMin64 o | .satomMax64 o | .satomMinu64 o
  | .satomMaxu64 o | .satomXchg64 o | .satomCas64 o | .satomIncw64 o | .satomBfadd64 o => some (o, 8)
  | _ => none

/-- The physical bytes that an access reaches. -/
def Reaches (ls : List Loc) (a : Nat) : Prop := ∃ p, Loc.phys p ∈ ls ∧ p.pa ≤ a ∧ a < p.pa + p.n

/-- The bytes of the error log ring, while it is enabled (R327). -/
def InLog (s : State) (a : Nat) : Prop :=
  s.mbox.elEn = true ∧ s.mbox.elBase.toNat ≤ a ∧ a < s.mbox.elBase.toNat + 32 * 2 ^ s.mbox.elLog2.toNat

end Sys2Proof
end

