-- ==== Sys2Proof/Certificates/Slice0/Obligations.lean ====
section
/-!
DEFINITION. The statements for the provers. Each docstring names the rules of spec/ that the statement formalises, or says
whose choice it rests on.
-/

open Sys2Proof Sys2Proof.Machine

/-! ### Encodings -/

/-- Decoding the word of a well-formed scalar instruction gives it back: no field of an encoding is dropped (R37, R50). Decoding the
three words of a well-formed lane instruction gives it back (R41 to R45, R51). -/
def Obligations.DecodeEncode : Prop :=
  (∀ (i : Instr) (w : W32), i.wf = true → encodeScalar i = some w → decodeScalar w = some i) ∧
  (∀ (i : Instr) (w : W32 × W32 × W32), i.wf = true → encodeLane i = some w → decodeLane w.1 w.2.1 w.2.2 = some i)

/-- A scalar word that decodes names a well-formed instruction, and is the only word of it: reserved bits are refused (R37, R52
check 4). A lane word that decodes names a well-formed instruction, and is the only one of it (R41, R52 check 4). -/
def Obligations.EncodeDecode : Prop :=
  (∀ (w : W32) (i : Instr), decodeScalar w = some i → i.wf = true ∧ encodeScalar i = some w) ∧
  (∀ (a b c : W32) (i : Instr), decodeLane a b c = some i → i.wf = true ∧ encodeLane i = some (a, b, c))

/-- Words that the spec writes out decode to the instructions they stand for (R68, R188, R190, R191, R192, R193, R196). -/
def Obligations.WrittenWordsDecode : Prop :=
  decodeScalar 0x1A040805 = some (.shrImm ⟨false, 2, 2, 5⟩) ∧
  decodeScalar 0x12461028 = some (.cmp ⟨false, .ltu, 3, 4, 5⟩) ∧
  decodeScalar 0x130E0413 = some (.sel ⟨false, 7, 1, 2, 3⟩) ∧
  decodeScalar 0x1D024000 = some (.li ⟨false, 1, 0x4000⟩) ∧
  decodeScalar 0x1E020000 = some (.lih ⟨false, 1, 0⟩) ∧
  decodeScalar 0x270BFFFD = some (.loop ⟨false, 5, 0x1FFFD⟩) ∧
  decodeLane 0x0020010C 0x00000602 0 =
    some (.iadd ⟨false, ⟨false, false, 0⟩, .u32, true, 4, .reg 2, .reg 3⟩) ∧
  decodeLane 0x08600188 0x00100602 0 = some (.ffma ⟨false, ⟨false, false, 0⟩, .h2, .rn, 6, .reg 2, .reg 3, 4⟩)

/-! ### Steps -/

/-- When the turn's stream is ready, its pipe may choose it, and the bytes at its code address are the words of an instruction, a
step is exec of that instruction, after time has passed and the issue has been noted; the instruction itself moves the code address
on (R52, R115; who has the turn is log entry 4's). A stream that waits in an instruction executes the word that it fetched, whatever
its overlay has become (R56). -/
def Obligations.StepRunsDecodedInstruction : Prop :=
  (∀ (s : State) (c : CrewRef) (rest : List Turn) (k : Crew) (m : Sparse Byte) (w : W32) (i : Instr),
    s.agenda = .scalar c :: rest →
    let s1 := ({ s with agenda := rest }).begin (.scalar c)
    let off := k.pc.toNat % 65536
    s1.crew? c = some k → s1.powered = true → s1.scalarReady c k = true → s1.chosen c k false = true → decodeScalar w = some i →
    ((k.wait = false ∧ s1.image? c k (k.pc.toNat / 65536) = some m ∧ inSection (imageSc m) 4 off = true ∧
        sparseRead 0 m off 4 = bytesOf 4 w.toNat) ∨ (k.wait = true ∧ k.word = some (k.pc, w))) →
    step s = exec i (s1.noteIssue (.scalar c))) ∧
  (∀ (s : State) (c : CrewRef) (n : Nat) (rest : List Turn) (k : Crew) (r : Run) (m : Sparse Byte) (a b d : W32) (i : Instr),
    s.agenda = .gang c n :: rest →
    let s1 := ({ s with agenda := rest }).begin (.gang c n)
    let off := (r.slice n).pc.toNat % 65536
    s1.crew? c = some k → k.runNow = some r → s1.powered = true → s1.gangReady c k n = true → s1.gangTurn c k n = true →
    s1.chosen c k true = true → decodeLane a b d = some i →
    (((r.slice n).wait = false ∧ s1.image? c k ((r.slice n).pc.toNat / 65536) = some m ∧ inSection (imageLn m) 12 off = true ∧
        sparseRead 0 m off 12 = bytesOf 4 a.toNat ++ bytesOf 4 b.toNat ++ bytesOf 4 d.toNat) ∨
      ((r.slice n).wait = true ∧ (r.slice n).word = some ((r.slice n).pc, (a, b, d)))) →
    step s = exec i (s1.noteIssue (.gang c n)))

/-- What a step adds around an instruction: beginning a turn of a stream and noting its issue change no code address and no
register, only the turn, the clocks, the waiting times and boosts of crews, condition D's time, the word that the stream has fetched
with whether it may stall, and, where error log entries have waited (log entry 91), the ring of the log and what waits. A REORD that
still gathers changes nothing of this; one that is complete, or that a departed participant has broken, is performed first (R31,
R56, R83, R93, R115, R116). -/
def Obligations.StepOverheadKeepsRegisters : Prop :=
  ∀ (s : State) (t : Turn) (gathers : Gather → Prop), ((∃ c, t = .scalar c) ∨ ∃ c n, t = .gang c n) →
    (∀ g, gathers g ↔ g.broken = false ∧ ∃ j ∈ g.members, ∀ a ∈ g.issued, a.crew ≠ j) →
    ((∀ p ∈ s.blocks, ∀ g, p.2.gather = some g → gathers g) → ∀ u, u = (s.begin t).noteIssue t →
      { u with turn := s.turn, clk := s.clk, crews := s.crews, cores := s.cores, mem := s.mem, mbox := s.mbox } = s ∧
      { u.mbox with elTail := s.mbox.elTail, elWait := s.mbox.elWait } = s.mbox ∧
      (s.mbox.elWait = [] → u.mem = s.mem ∧ u.mbox = s.mbox) ∧
      (∀ a, (a < s.mbox.elBase.toNat ∨ s.mbox.elBase.toNat + 32 * 2 ^ s.mbox.elLog2.toNat ≤ a) → u.byte a = s.byte a) ∧
      u.cores.map (fun q => { q with deadSince := none }) = s.cores.map (fun q => { q with deadSince := none }) ∧
      ∀ c k, s.crew? c = some k → ∃ k', u.crew? c = some k' ∧
        { k' with sinceS := k.sinceS, sinceL := k.sinceL, boostS := k.boostS, boostL := k.boostL, word := k.word, wait := k.wait,
                  runs := k.runs, hrun := k.hrun } = k ∧
        (k.h = true → k'.runs = k.runs) ∧ (k.h = false → k'.hrun = k.hrun) ∧ (k.runNow = none → k'.runs = k.runs ∧ k'.hrun = k.hrun) ∧
        ∀ r, k.runNow = some r → ∃ r', k'.runNow = some r' ∧
          ∀ bare : Slice → Slice, bare = (fun x => { x with word := none, wait := false, last := 0 }) →
            { r' with issues := r.issues, slices := r'.slices.map bare } = { r with slices := r.slices.map bare }) ∧
    (∀ b x g, s.powered = true → s.block? b = some x → x.gather = some g → ¬ gathers g →
      (∀ p ∈ s.blocks, p.1 ≠ b → ∀ h, p.2.gather = some h → gathers h) →
      s.begin t = ((({ s with turn := t } : State).tick.ageCrews.watchClaims).reordDone b g).flushLog)

/-- An operation or event of the device whose turn it is runs as it stands, and so does the packet that a queue's parser holds; a
word of a scalar stream or of a gang that cannot be fetched or decoded runs the step that takes OVLMISS, BADTGT or ILLINS (R52; log
entry 4). A pipe does not issue an instruction of a crew while four ready crews of its core go before it, by class, which is 0 after
4,096 aclk of waiting, and then by issue age; and not one of a gang while another ready gang of its crew has waited longer (R115,
R116; whether another stream's next word has been fetched is free, log entry 4). In Off nothing moves but POWER_UP: a step of any
other turn only takes the turn (R34; the turn is the model's own, log entry 4). -/
def Obligations.StepRunsEvents : Prop :=
  ((∀ (s : State) (i : Instr) (rest : List Turn), s.agenda = .event i :: rest → s.powered = true → i.isEvent = true →
     step s = exec i (({ s with agenda := rest }).begin (.event i))) ∧
   (∀ (s : State) (q : Nat) (rest : List Turn) (p : Packet), s.agenda = .frontEnd q :: rest →
     let s1 := ({ s with agenda := rest }).begin (.frontEnd q)
     s1.lanePacket q = some p → step s = exec (p.instr q) (s1.noteIssue (.frontEnd q))) ∧
   (∀ (s : State) (c : CrewRef) (rest : List Turn) (k : Crew), s.agenda = .scalar c :: rest →
     let s1 := ({ s with agenda := rest }).begin (.scalar c)
     s1.crew? c = some k →
     (s1.chosen c k false = false → step s = .next s1) ∧
     (s1.powered = true → s1.scalarReady c k = true → s1.chosen c k false = true → k.wait = false →
     (∀ e, s1.fetchScalar c k = .error e → step s = exec .instructionFetchFault (s1.noteIssue (.scalar c))) ∧
     (∀ w, s1.fetchScalar c k = .ok w → decodeScalar w = none → step s = exec .illegalInstruction (s1.noteIssue (.scalar c))))) ∧
   (∀ (s : State) (c : CrewRef) (n : Nat) (rest : List Turn) (k : Crew), s.agenda = .gang c n :: rest →
     let s1 := ({ s with agenda := rest }).begin (.gang c n)
     s1.crew? c = some k →
     ((s1.chosen c k true = false ∨ s1.gangTurn c k n = false) → step s = .next s1) ∧
     (s1.powered = true → s1.gangReady c k n = true → s1.gangTurn c k n = true → s1.chosen c k true = true →
       ∀ r, k.runNow = some r → (r.slice n).wait = false →
       (∀ e, s1.fetchLane c k (r.slice n).pc = .error e → step s = exec .instructionFetchFault (s1.noteIssue (.gang c n))) ∧
       (∀ a b d, s1.fetchLane c k (r.slice n).pc = .ok (a, b, d) → decodeLane a b d = none →
         step s = exec .illegalInstruction (s1.noteIssue (.gang c n))))) ∧
   (∀ (s : State) (c : CrewRef) (k : Crew) (lane : Bool) (cls since : CrewRef × Crew → Nat),
     (∀ p, since p = if lane then p.2.sinceL else p.2.sinceS) →
     (∀ p, cls p = if (if lane then p.2.boostL else p.2.boostS) = true ∨ since p + 4096 ≤ s.cclk (s.dieOf p.1) then 0
       else (s.recOf p.1).prio) →
     (s.chosen c k lane = false ↔ c.isCtl = false ∧ ∃ l : List (CrewRef × Crew), l.length = 4 ∧ l.Sublist (s.crewsOn (s.coreOf c)) ∧
       ∀ p ∈ l, p.1 ≠ c ∧ Config.freeReady s.draws (pipeKey p.1 0) = true ∧
         (if lane then ∃ j < 8, s.readyL p.1 p.2 j = true else s.readyS p.1 p.2 = true) ∧
         (cls p < cls (c, k) ∨ cls p = cls (c, k) ∧ p.2.age < k.age))) ∧
   (∀ (s : State) (c : CrewRef) (k : Crew) (r : Run) (n : Nat), k.runNow = some r →
     (s.gangTurn c k n = false ↔ ∃ j < 8, (r.slice j).last < (r.slice n).last ∧ (r.slice j).live = true ∧ s.readyL c k j = true ∧
       Config.freeReady s.draws (pipeKey c (1 + j)) = true))) ∧
  (∀ s : State, s.powered = false → (∀ x y, s.pick.1 ≠ .event (.powerUp x y)) →
     step s = .next { s.pick.2 with turn := s.pick.1 })

/-- Every step of the package goes on, from every state: no data, no word and no event stops the model. -/
def Obligations.EveryStepGoesOn : Prop :=
  ∀ s : State, Goes s

/-- Every step keeps the canonical form of memory. The form is the model's own representation of the bytes. -/
def Obligations.StepKeepsMemoryCanonical : Prop :=
  ∀ s t : State, MemOk s → step s = .next t → MemOk t

/-- Memory at reset has the canonical form. What reset leaves, as R24, R120, R131, R290 and R327 give it: every chiplet shuttered
and the identity registers at their reset values, the queue pages, drive blocks and the world map clear, the mailbox in mode 1 and
state 4. -/
def Obligations.ResetState : Prop :=
  (MemOk State.reset) ∧
  (State.reset.ident.shut = 0x1FFFF ∧ State.reset.ident.gen = 0 ∧ State.reset.ident.repl = false ∧ State.reset.ident.reason = 0 ∧
   State.reset.ident.epoch = 0 ∧ State.reset.ident.stamp = 0 ∧
   State.reset.ident.hclk = 3300 ∧ State.reset.ident.c0clk = 3300 ∧ State.reset.ident.c1clk = 3300 ∧
   (∀ n < 5, 1 ≤ n → State.reset.idReg n = 0) ∧ State.reset.idReg 5 = 0x0CE40CE40CE4 ∧ State.reset.idReg 7 = 0x1FFFF ∧
   (∀ q < 32, State.reset.queue q = ⟨0, false, false, 0, 0, 0, 0, 0, 0, false, false, false, ⟨0, 0, 0, none⟩, [], [], none, none⟩ ∧
     State.reset.space q = ⟨0, false, 0, 0, false, 0⟩) ∧
   (∀ d < 8, State.reset.drive d = ⟨0, 0, 0, false, 0, 0, 0, 0, 0, 0, [], 0⟩) ∧
   State.reset.worlds.secure = [] ∧ State.reset.mbox.mode = 1 ∧ State.reset.mbox.state = 4 ∧ State.reset.mbox.restarts = 0 ∧
   State.reset.mbox.elEn = false ∧ State.reset.mbox.cause = 0 ∧ State.reset.notify.en = false)

/-! ### Scalar arithmetic -/

/-- The scalar ALU of registers: each result by exact arithmetic on the operands, narrowed to 64 bits; nothing else of the crew but
its code address and the switch marker changes (R188). The immediate forms of the scalar ALU, and the constants of LI and LIH: imm10
and LI's imm17 sign-extended, a shift count in imm10[5:0], LIH's imm17 zero-extended below the register shifted by 17 (R40, R188,
R192). -/
def Obligations.ScalarAluResults : Prop :=
  (∀ (s : State) (c : CrewRef) (k : Crew) (o : OpDAB), ScalarAt s c k → ∀ a b : W64, a = s.sread c k o.ra → b = s.sread c k o.rb →
     Writes (.add o) s c k o.rd (BitVec.ofNat 64 (a.toNat + b.toNat)) o.sw ∧
     Writes (.sub o) s c k o.rd (BitVec.ofInt 64 (a.toNat - b.toNat)) o.sw ∧
     Writes (.mul o) s c k o.rd (BitVec.ofNat 64 (a.toNat * b.toNat)) o.sw ∧
     Writes (.mulh o) s c k o.rd (BitVec.ofInt 64 (a.toInt * b.toInt / 2 ^ 64)) o.sw ∧
     Writes (.and o) s c k o.rd (BitVec.ofNat 64 (a.toNat &&& b.toNat)) o.sw ∧
     Writes (.or o) s c k o.rd (BitVec.ofNat 64 (a.toNat ||| b.toNat)) o.sw ∧
     Writes (.xor o) s c k o.rd (BitVec.ofNat 64 (a.toNat ^^^ b.toNat)) o.sw ∧
     Writes (.shl o) s c k o.rd (BitVec.ofNat 64 (a.toNat * 2 ^ (b.toNat % 64))) o.sw ∧
     Writes (.shr o) s c k o.rd (BitVec.ofNat 64 (a.toNat / 2 ^ (b.toNat % 64))) o.sw ∧
     Writes (.sar o) s c k o.rd (BitVec.ofInt 64 (a.toInt / 2 ^ (b.toNat % 64))) o.sw ∧
     Writes (.min o) s c k o.rd (BitVec.ofInt 64 (min a.toInt b.toInt)) o.sw ∧
     Writes (.max o) s c k o.rd (BitVec.ofInt 64 (max a.toInt b.toInt)) o.sw ∧
     Writes (.minu o) s c k o.rd (BitVec.ofNat 64 (min a.toNat b.toNat)) o.sw ∧
     Writes (.maxu o) s c k o.rd (BitVec.ofNat 64 (max a.toNat b.toNat)) o.sw) ∧
  ((∀ (s : State) (c : CrewRef) (k : Crew) (o : OpDAI), ScalarAt s c k → ∀ a : W64, a = s.sread c k o.ra →
     Writes (.addImm o) s c k o.rd (BitVec.ofInt 64 (a.toInt + o.imm.toInt)) o.sw ∧
     Writes (.mulImm o) s c k o.rd (BitVec.ofInt 64 (a.toInt * o.imm.toInt)) o.sw ∧
     (∀ b : W64, b = BitVec.ofInt 64 o.imm.toInt →
       Writes (.andImm o) s c k o.rd (BitVec.ofNat 64 (a.toNat &&& b.toNat)) o.sw ∧
       Writes (.orImm o) s c k o.rd (BitVec.ofNat 64 (a.toNat ||| b.toNat)) o.sw ∧
       Writes (.xorImm o) s c k o.rd (BitVec.ofNat 64 (a.toNat ^^^ b.toNat)) o.sw)) ∧
   (∀ (s : State) (c : CrewRef) (k : Crew) (o : OpShI), ScalarAt s c k → ∀ a : W64, a = s.sread c k o.ra →
     Writes (.shlImm o) s c k o.rd (BitVec.ofNat 64 (a.toNat * 2 ^ o.cnt.toNat)) o.sw ∧
     Writes (.shrImm o) s c k o.rd (BitVec.ofNat 64 (a.toNat / 2 ^ o.cnt.toNat)) o.sw ∧
     Writes (.sarImm o) s c k o.rd (BitVec.ofInt 64 (a.toInt / 2 ^ o.cnt.toNat)) o.sw) ∧
   (∀ (s : State) (c : CrewRef) (k : Crew) (o : OpDL), ScalarAt s c k →
     Writes (.li o) s c k o.rd (BitVec.ofInt 64 o.imm.toInt) o.sw ∧
     Writes (.lih o) s c k o.rd (BitVec.ofNat 64 ((s.sread c k o.rd).toNat * 2 ^ 17 + o.imm.toNat)) o.sw))

/-- Scalar division truncates toward zero and never traps; a zero divisor gives the value of the table with DZ, delivered with rd,
and DIVS of -2^63 by -1 gives -2^63 (R189). -/
def Obligations.DivisionResults : Prop :=
  ∀ (s : State) (c : CrewRef) (k : Crew) (o : OpDAB), ScalarAt s c k → ∀ a b : W64, a = s.sread c k o.ra → b = s.sread c k o.rb →
    (b = 0 →
      Delivers (.divu o) s c k o.rd 0xFFFFFFFFFFFFFFFF flagDZ o.sw ∧
      Delivers (.divs o) s c k o.rd (BitVec.ofInt 64 (-1)) flagDZ o.sw ∧
      Delivers (.remu o) s c k o.rd a flagDZ o.sw) ∧
    (b ≠ 0 →
      Delivers (.divu o) s c k o.rd (BitVec.ofNat 64 (a.toNat / b.toNat)) 0 o.sw ∧
      (¬ (a.toInt = -2 ^ 63 ∧ b.toInt = -1) → Delivers (.divs o) s c k o.rd (BitVec.ofInt 64 (a.toInt.tdiv b.toInt)) 0 o.sw) ∧
      (a.toInt = -2 ^ 63 → b.toInt = -1 → Delivers (.divs o) s c k o.rd (BitVec.ofInt 64 (-2 ^ 63)) 0 o.sw) ∧
      Delivers (.remu o) s c k o.rd (BitVec.ofNat 64 (a.toNat - b.toNat * (a.toNat / b.toNat))) 0 o.sw)

/-- CMP sets qd by the condition on both operands, register or sign-extended imm10, and keeps the other seven; SEL writes ra when qx
is 1 and rb when it is 0; both have the encodings of R190 and R191, with ILLINS for a bit that must be 0. -/
def Obligations.CompareAndSelect : Prop :=
  (∀ (s : State) (c : CrewRef) (k : Crew) (sw : Bool) (cond : SCond) (qd : BitVec 3) (ra rb : BitVec 7) (imm : BitVec 10),
    ScalarAt s c k → ∀ (i : Instr) (a b : W64), a = s.sread c k ra →
      (i = .cmp ⟨sw, cond, qd, ra, rb⟩ ∧ b = s.sread c k rb ∨ i = .cmpImm ⟨sw, cond, qd, ra, imm⟩ ∧ b = BitVec.ofInt 64 imm.toInt) →
      ∃ q, Changes i s c { k with q := q } sw ∧ (∀ n < 8, n ≠ qd.toNat → q.toNat.testBit n = k.q.toNat.testBit n) ∧
        (q.toNat.testBit qd.toNat = true ↔
          (cond = .eq ∧ a.toNat = b.toNat ∨ cond = .ne ∧ a.toNat ≠ b.toNat ∨ cond = .lt ∧ a.toInt < b.toInt ∨
            cond = .ge ∧ b.toInt ≤ a.toInt ∨ cond = .ltu ∧ a.toNat < b.toNat ∨ cond = .geu ∧ b.toNat ≤ a.toNat ∨
            cond = .any ∧ a.toNat &&& b.toNat ≠ 0 ∨ cond = .none ∧ a.toNat &&& b.toNat = 0))) ∧
  (∀ (s : State) (c : CrewRef) (k : Crew) (o : OpDABX), ScalarAt s c k →
    (k.q.toNat.testBit o.x.toNat = true → Writes (.sel o) s c k o.rd (s.sread c k o.ra) o.sw) ∧
    (k.q.toNat.testBit o.x.toNat = false → Writes (.sel o) s c k o.rd (s.sread c k o.rb) o.sw)) ∧
  (∀ (sw : Bool) (cond : SCond) (qd x : BitVec 3) (rd ra rb : BitVec 7) (imm : BitVec 10),
    encodeScalar (.cmp ⟨sw, cond, qd, ra, rb⟩) = some (BitVec.ofBool sw ++ 0x12#7 ++ (0#1 ++ cond.code ++ qd ++ ra ++ (rb ++ 0#3))) ∧
    encodeScalar (.cmpImm ⟨sw, cond, qd, ra, imm⟩) = some (BitVec.ofBool sw ++ 0x1C#7 ++ (0#1 ++ cond.code ++ qd ++ ra ++ imm)) ∧
    encodeScalar (.sel ⟨sw, rd, ra, rb, x⟩) = some (BitVec.ofBool sw ++ 0x13#7 ++ (rd ++ ra ++ rb ++ x))) ∧
  (∀ w : W32, (w.extractLsb' 24 7 = 0x12 → (w.getLsbD 23 = true ∨ w.extractLsb' 0 3 ≠ 0) → decodeScalar w = none) ∧
    (w.extractLsb' 24 7 = 0x1C → w.getLsbD 23 = true → decodeScalar w = none)) ∧
  decodeScalar 0x12461028 = some (.cmp ⟨false, .ltu, 3, 4, 5⟩) ∧ decodeScalar 0x130E0413 = some (.sel ⟨false, 7, 1, 2, 3⟩)

/-- The frame of the scalar ALU, select, constant, NOP and SFENCE instructions and of CMP: they change rd or qd, the code address
and the markers of the stream, and nothing else of the crew, of another crew, of memory or of the package (R68, R188, R190 to R192).
Code 96 reads 0 in ra and rb and discards a result: with rd = 96 an ADD only goes on, and a delivered value reaches no register
(R38, R39). The frame of the scalar loads and the divisions: no register and no byte of memory changes when they issue; a load that
defers MEMERR adds that, and the others add one outstanding destination (R46, R189, R256, R259). -/
def Obligations.ScalarRegisterFrame : Prop :=
  ((∀ (s t : State) (c : CrewRef) (k : Crew) (i : Instr) (rd : BitVec 7), ScalarAt s c k → aluDest i = some rd → exec i s = .next t →
     OnlyCrew s t c ∧ ∃ k', t.crew? c = some k' ∧ OnlyReg k k' rd) ∧
   (∀ (s t : State) (c : CrewRef) (k : Crew) (i : Instr) (qd : BitVec 3), ScalarAt s c k →
     ((∃ o, i = .cmp o ∧ o.qd = qd) ∨ ∃ o, i = .cmpImm o ∧ o.qd = qd) → exec i s = .next t →
     OnlyCrew s t c ∧ ∃ k', t.crew? c = some k' ∧
       k' = { k with q := k'.q, pc := k'.pc, park := k'.park, parkH := k'.parkH, wait := k'.wait } ∧
       ∀ n, n ≠ qd.toNat → k'.q.toNat.testBit n = k.q.toNat.testBit n)) ∧
  ((∀ (s : State) (c : CrewRef) (k : Crew), s.sread c k 96 = 0) ∧
   (∀ (s : State) (c : CrewRef) (k : Crew) (sw : Bool) (ra rb : BitVec 7), ScalarAt s c k →
     Changes (.add ⟨sw, 96, ra, rb⟩) s c k sw ∧ Changes (.li ⟨sw, 96, 5⟩) s c k sw) ∧
   (∀ (s : State) (c : CrewRef) (k : Crew) (o : OpDAB), ScalarAt s c k → o.rd = 96 →
     ∃ t k', exec (.remu o) s = .next t ∧ t.crew? c = some k' ∧ k'.s = k.s ∧ k'.bank = k.bank ∧ k'.pc = codeAdd k.pc 4)) ∧
  ((∀ (s t : State) (c : CrewRef) (k : Crew) (i : Instr) (o : OpDAI) (n : Nat) (ls : List Loc) (s1 : State), ScalarAt s c k →
     loadForm i = some (o, n) → s.access c .read (BitVec.ofInt 64 ((s.sread c k o.ra).toInt + o.imm.toInt * n)) n = (.ok ls, s1) →
     s.stalledLocs (s.seat c) ls = false → exec i s = .next t →
     (∀ a, t.byte a = s.byte a) ∧ (∀ d, d ≠ c → t.crew? d = s.crew? d) ∧
     ∃ k' m e, t.crew? c = some k' ∧ k' = { pastWord k k' with out := k.out ++ e, memerr := k.memerr ++ m } ∧ e.length + m.length ≤ 1) ∧
   (∀ (s t : State) (c : CrewRef) (k : Crew) (o : OpDAB) (i : Instr), ScalarAt s c k → (i = .divu o ∨ i = .divs o ∨ i = .remu o) →
     exec i s = .next t →
     OnlyCrew s t c ∧ ∃ k' e, t.crew? c = some k' ∧ k' = { pastWord k k' with out := k.out ++ e } ∧ e.length ≤ 1))

/-- The scalar control transfers: their targets, the link that CALL writes to s95, the counter of LOOP, and BADTGT with no register
written for a target that R53 does not allow; NOP only goes on (R68, R321). That RET to an overlay that is not resident goes on as
JR does is log entry 24's reading. -/
def Obligations.ControlTransfers : Prop :=
  ∀ (s : State) (c : CrewRef) (k : Crew), ScalarAt s c k →
    (∀ o : OpB, Transfers (.b o) s c k k o.sw (branchTarget k o.off.toInt)) ∧
    (∀ o : OpBQ, (k.q.toNat.testBit o.q.toNat = true → Transfers (.bq o) s c k k o.sw (branchTarget k o.off.toInt)) ∧
      (k.q.toNat.testBit o.q.toNat = false → Changes (.bq o) s c k o.sw)) ∧
    (∀ o : OpBQ, (k.q.toNat.testBit o.q.toNat = false → Transfers (.bqN o) s c k k o.sw (branchTarget k o.off.toInt)) ∧
      (k.q.toNat.testBit o.q.toNat = true → Changes (.bqN o) s c k o.sw)) ∧
    (∀ o : OpB, Transfers (.call o) s c k (k.swrite 95 (branchTarget k 1)) o.sw (branchTarget k o.off.toInt)) ∧
    (∀ o : OpA, Transfers (.callReg o) s c k (k.swrite 95 (branchTarget k 1)) o.sw (s.sread c k o.ra)) ∧
    (∀ o : OpZ, Transfers (.ret o) s c k k o.sw (s.sread c k 95)) ∧
    (∀ o : OpA, Transfers (.jr o) s c k k o.sw (s.sread c k o.ra)) ∧
    (∀ o : OpDL, (s.sread c k o.rd = 1 → Changes (.loop o) s c (k.swrite o.rd 0) o.sw) ∧
      (s.sread c k o.rd ≠ 1 →
        Transfers (.loop o) s c k (k.swrite o.rd (s.sread c k o.rd - 1)) o.sw (branchTarget k o.imm.toInt))) ∧
    (∀ o : OpZ, Changes (.nop o) s c k o.sw)

/-! ### Scalar memory -/

/-- The scalar loads read 1, 2, 4 or 8 bytes at ra plus imm10 times the size; the value reaches rd zero-extended, or sign-extended
in the signed forms; a failed check of R255 traps with the address that failed (log entry 75), and an uncorrectable error defers
MEMERR (R256, R259). The scalar stores write the low bytes of the register that rd names; a failed check of R255 traps with the
address that failed (log entry 75) and writes nothing. SFENCE only goes on: every access here is already performed in order (R259,
R260; log entry 6). -/
def Obligations.ScalarLoadsAndStores : Prop :=
  (∀ (s : State) (c : CrewRef) (k : Crew) (o : OpDAI), ScalarAt s c k →
     Loads (.sldU8 o) s c k o 1 (BitVec.ofNat 64) ∧ Loads (.sldU16 o) s c k o 2 (BitVec.ofNat 64) ∧
     Loads (.sldU32 o) s c k o 4 (BitVec.ofNat 64) ∧ Loads (.sld64 o) s c k o 8 (BitVec.ofNat 64) ∧
     Loads (.sldI8 o) s c k o 1 (fun v => BitVec.ofInt 64 (BitVec.ofNat 8 v).toInt) ∧
     Loads (.sldI16 o) s c k o 2 (fun v => BitVec.ofInt 64 (BitVec.ofNat 16 v).toInt) ∧
     Loads (.sldI32 o) s c k o 4 (fun v => BitVec.ofInt 64 (BitVec.ofNat 32 v).toInt)) ∧
  (∀ (s : State) (c : CrewRef) (k : Crew), ScalarAt s c k →
     (∀ o : OpDAI, Stores (.sst8 o) s c k o 1 ∧ Stores (.sst16 o) s c k o 2 ∧ Stores (.sst32 o) s c k o 4 ∧
       Stores (.sst64 o) s c k o 8) ∧
     (∀ o : OpS, Changes (.sfence o) s c k o.sw))

/-- What a scalar store writes is what a read of the same bytes then gives, in a scratchpad and in memory whose bytes hold no
uncorrectable error and lie outside the error log (R259). -/
def Obligations.StoredBytesReadBack : Prop :=
  (∀ (s : State) (c : CrewRef) (sst : Bool) (b o n : Nat) (bs : List Byte) (x : Block), s.block? b = some x → bs.length = n →
    (s.writeLocs c sst [.spad b o n] bs).readLocs c [.spad b o n] = bs) ∧
  (∀ (s : State) (c : CrewRef) (sst : Bool) (p : Phys) (bs : List Byte), isDev p.pa = false → bs.length = p.n →
    s.poisonedRange p.pa p.n = false → (s.writeLocs c sst [.phys p] bs).readLocs c [.phys p] = bs) ∧
  (∀ (s : State) (c : CrewRef) (sst : Bool) (p q : Phys) (bs : List Byte), isDev p.pa = false → isDev q.pa = false →
    bs.length = p.n → s.poisonedRange p.pa p.n = false → (p.pa + p.n ≤ q.pa ∨ q.pa + q.n ≤ p.pa) →
    (s.writeLocs c sst [.phys p] bs).readLocs c [.phys q] = s.readLocs c [.phys q])

/-- Every scalar atomic: the new value of each operator in exact arithmetic modulo 2^w, the old value to rd, MEMERR or a failed
check taken at the atomic with nothing written (R261, R263, R264, R266). -/
def Obligations.ScalarAtomics : Prop :=
  ∀ (s : State) (c : CrewRef) (k : Crew) (o : OpAt), ScalarAt s c k →
    (Atomic (.satomAdd32 o) s c k o 4 (fun old b _ => ((old + b) % 2 ^ 32, 0)) ∧
      Atomic (.satomAdd64 o) s c k o 8 (fun old b _ => ((old + b) % 2 ^ 64, 0)) ∧
      Atomic (.satomAnd32 o) s c k o 4 (fun old b _ => (old &&& b, 0)) ∧
      Atomic (.satomAnd64 o) s c k o 8 (fun old b _ => (old &&& b, 0)) ∧
      Atomic (.satomOr32 o) s c k o 4 (fun old b _ => (old ||| b, 0)) ∧
      Atomic (.satomOr64 o) s c k o 8 (fun old b _ => (old ||| b, 0)) ∧
      Atomic (.satomXor32 o) s c k o 4 (fun old b _ => (old ^^^ b, 0)) ∧
      Atomic (.satomXor64 o) s c k o 8 (fun old b _ => (old ^^^ b, 0))) ∧
    (Atomic (.satomMin32 o) s c k o 4 (fun old b _ => (if (BitVec.ofNat 32 old).toInt ≤ (BitVec.ofNat 32 b).toInt then old else b, 0)) ∧
      Atomic (.satomMin64 o) s c k o 8 (fun old b _ => (if (BitVec.ofNat 64 old).toInt ≤ (BitVec.ofNat 64 b).toInt then old else b, 0)) ∧
      Atomic (.satomMax32 o) s c k o 4 (fun old b _ => (if (BitVec.ofNat 32 old).toInt ≤ (BitVec.ofNat 32 b).toInt then b else old, 0)) ∧
      Atomic (.satomMax64 o) s c k o 8 (fun old b _ => (if (BitVec.ofNat 64 old).toInt ≤ (BitVec.ofNat 64 b).toInt then b else old, 0)) ∧
      Atomic (.satomMinu32 o) s c k o 4 (fun old b _ => (min old b, 0)) ∧
      Atomic (.satomMinu64 o) s c k o 8 (fun old b _ => (min old b, 0)) ∧
      Atomic (.satomMaxu32 o) s c k o 4 (fun old b _ => (max old b, 0)) ∧
      Atomic (.satomMaxu64 o) s c k o 8 (fun old b _ => (max old b, 0))) ∧
    (Atomic (.satomXchg32 o) s c k o 4 (fun _ b _ => (b, 0)) ∧
      Atomic (.satomXchg64 o) s c k o 8 (fun _ b _ => (b, 0)) ∧
      Atomic (.satomCas32 o) s c k o 4 (fun old b d => (if old = b then d else old, 0)) ∧
      Atomic (.satomCas64 o) s c k o 8 (fun old b d => (if old = b then d else old, 0)) ∧
      Atomic (.satomFadd32 o) s c k o 4 (fun old b _ => ((addF32 old b).code, (addF32 old b).flags)) ∧
      Atomic (.satomIncw32 o) s c k o 4 (fun old b _ => (if old ≥ b then 0 else old + 1, 0)) ∧
      Atomic (.satomIncw64 o) s c k o 8 (fun old b _ => (if old ≥ b then 0 else old + 1, 0)) ∧
      Atomic (.satomBfadd32 o) s c k o 4 (fun old b d => (if old ≤ d then min (old + b) d else old, 0)) ∧
      Atomic (.satomBfadd64 o) s c k o 8 (fun old b d => (if old ≤ d then min (old + b) d else old, 0)))

/-- The frame of the scalar stores and atomics: where the checks of R255 name the bytes, every byte of memory outside them (and
outside the error log, where a discarded write is reported) reads as before, no other crew changes, and of the issuing crew only its
outstanding destinations, code address and markers do (R256, R259, R263, R266). -/
def Obligations.ScalarStoreFrame : Prop :=
  (∀ (s t : State) (c : CrewRef) (k : Crew) (i : Instr) (o : OpDAI) (n : Nat) (ls : List Loc) (s1 : State), ScalarAt s c k →
    storeForm i = some (o, n) → s.access c .write (BitVec.ofInt 64 ((s.sread c k o.ra).toInt + o.imm.toInt * n)) n = (.ok ls, s1) →
    s.stalledLocs (s.seat c) ls = false → exec i s = .next t →
    (∀ a, ¬ Reaches ls a → ¬ InLog s a → t.byte a = s.byte a) ∧ (∀ d, d ≠ c → t.crew? d = s.crew? d) ∧
    ∃ k', t.crew? c = some k' ∧ OnlyPc k k') ∧
  (∀ (s t : State) (c : CrewRef) (k : Crew) (i : Instr) (o : OpAt) (n : Nat) (ls : List Loc) (s1 : State), ScalarAt s c k →
    atomicForm i = some (o, n) → s.access c .atomic (s.sread c k o.ra) n = (.ok ls, s1) → s.stalledLocs (s.seat c) ls = false →
    s.poisonedLocs ls = false → (o.sc = .sy → s.bellStall ls = false) → exec i s = .next t →
    (∀ a, ¬ Reaches ls a → ¬ InLog s a → t.byte a = s.byte a) ∧ (∀ d, d ≠ c → t.crew? d = s.crew? d) ∧
    ∃ k' e, t.crew? c = some k' ∧ k' = { pastWord k k' with out := k.out ++ e } ∧
      e.length ≤ 1)

/-! ### Runs, traps and system registers -/

/-- LRUN in both forms fills a run slot with a snapshot of s0 to s31, the group count, the mask and the start; it traps ILLINS for a
mask of 0 or with high bits, BADTGT for a start that R53 does not allow, and RUNOVF when the slots are full. A handler's run takes
the lanes of FMASK. LJOIN waits for the oldest run, returns its four results and empties its slot, and traps NORUN without one (R69
to R73, R313). -/
def Obligations.LaneRunsStartAndJoin : Prop :=
  (∀ (s : State) (b j : Nat) (k : Crew) (i : Instr) (sw : Bool) (m tgt : W64), BlockAt s b j k →
    ((∃ mask off, i = .lrun ⟨sw, mask, off⟩ ∧ m = mask.setWidth 64 ∧
        tgt = BitVec.ofNat 64 (k.pc.toNat / 65536 * 65536 + off.toNat)) ∨
      ∃ ra rb, i = .lrunReg ⟨sw, ra, rb⟩ ∧ m = s.sread (.blk b j) k rb ∧ tgt = s.sread (.blk b j) k ra) →
    (m = 0 ∨ 256 ≤ m.toNat → Traps i s (.blk b j) cILLINS 0) ∧
    (m ≠ 0 → m.toNat < 256 → s.laneTarget (.blk b j) k tgt = false → Traps i s (.blk b j) cBADTGT 0) ∧
    (m ≠ 0 → m.toNat < 256 → s.laneTarget (.blk b j) k tgt = true →
      ((k.h = true ∧ k.hrun ≠ none ∨ k.h = false ∧ 2 ≤ k.runs.length) → Traps i s (.blk b j) cRUNOVF 0) ∧
      ((k.h = true ∧ k.hrun = none ∨ k.h = false ∧ k.runs.length < 2) →
        ∃ (k' : Crew) (r : Run), Changes i s (.blk b j) k' sw ∧ k' = { k with runs := k'.runs, hrun := k'.hrun } ∧
          r.mask = m.setWidth 8 ∧ r.groups = k.groups ∧ r.start = tgt.setWidth 24 ∧ r.x = [0, 0, 0, 0] ∧
          (∀ n < 32, sparseGet 0 r.consts n = sparseGet 0 k.s n) ∧
          (k.h = false → k'.hrun = k.hrun ∧ k'.runs = k.runs ++ [r] ∧
            (r.state = .queued ↔ ∃ x ∈ k.runs, x.state = .executing) ∧ (r.state ≠ .queued → r.state = .executing ∧
              ∀ l < 8, (r.slice l).live = m.toNat.testBit l ∧ (r.slice l).cur = 0xF ∧ (r.slice l).pc = r.start)) ∧
          (k.h = true → k'.runs = k.runs ∧ k'.hrun = some r ∧
            ∀ l < 8, (r.slice l).cur = (k.tr.fmask >>> (4 * l)).setWidth 4 ∧
              ((r.slice l).live = true ↔ m.toNat.testBit l = true ∧ (r.slice l).cur ≠ 0))))) ∧
  (∀ (s : State) (b j : Nat) (k : Crew) (o : OpD), BlockAt s b j k →
    (k.scalarErr ≠ [] → Waits (.ljoin o) s (.blk b j)) ∧
    (k.scalarErr = [] →
      (k.slots = [] → Traps (.ljoin o) s (.blk b j) cNORUN 0) ∧
      (∀ r rest, k.slots = r :: rest → r.state ≠ .ended → Waits (.ljoin o) s (.blk b j)) ∧
      (∀ r rest, k.slots = r :: rest → r.state = .ended → o.rd.toNat ≤ 92 →
        ∃ k', Changes (.ljoin o) s (.blk b j) k' o.sw ∧ (∀ n < 4, k'.sreg (o.rd.toNat + n) = (listGet 0 r.x n).setWidth 64) ∧
          (∀ n < 96, (n < o.rd.toNat ∨ o.rd.toNat + 4 ≤ n) → k'.sreg n = k.sreg n) ∧ k'.slots = rest)))

/-- TRAP and BRK enter the handler with nothing outstanding: H is 1, the thread stands at TVEC, TCAUSE holds the cause and the
number, TPC and TSPC the next word, FINFO the instruction's address, and every register, flag and byte of memory is as it was; the
thread is to park before the next word where the instruction was marked (R47); an outstanding destination makes the entry wait,
whether its value is there or has yet to come, but for those of tile instructions that a fault of the crew holds or that wait behind
one that is held (R312, R315, R318, R352; log entry 23). Every precise trap of a scalar thread that Traps names is taken in that
way: with nothing outstanding the handler is entered with the cause, the address and the instruction's own code address in TPC and
TSPC (R312, R315). A trap raised while H is 1 is a double fault, whatever raises it: the launch of a block's crew fails with DBLFLT,
and a control crew stops, each after an entry in the error log with the nested cause, the code address of the instruction that met
it (log entry 92) and its address; no handler is entered. TRAP and BRK are such; what the log takes is the second clause's (R314,
R327). -/
def Obligations.TrapEntry : Prop :=
  (∀ (s : State) (c : CrewRef) (k : Crew) (o : OpN) (i : Instr) (cause : Nat), ScalarAt s c k → k.h = false → k.trapping = none →
     (i = .trap o ∧ cause = 0x60 ∨ i = .brk o ∧ cause = 0x61) →
     ((∀ e ∈ k.out, s.stuck c e = true) → ∃ t k', exec i s = .next t ∧ t.crew? c = some k' ∧ k'.h = true ∧ k'.pc = s.handlerEntry c ∧
       k'.out = k.out ∧ k'.tr.tcause = BitVec.ofNat 64 (cause + o.num.toNat * 2 ^ 32) ∧ k'.tr.tpc = codeAdd k.pc 4 ∧ k'.tr.tspc = codeAdd k.pc 4 ∧
       k'.tr.finfo = k.pc.setWidth 64 ∧ k'.tr.faddr = 0 ∧ k'.tr.fmask = 0 ∧ k'.tr.trep = 0 ∧ k'.trapping = none ∧
       k'.park = o.sw ∧
       k'.s = k.s ∧ k'.bank = k.bank ∧ k'.q = k.q ∧ k'.v = k.v ∧ k'.p = k.p ∧ k'.flags = k.flags ∧ k'.groups = k.groups ∧
       (∀ a, t.byte a = s.byte a) ∧ ∀ d, d ≠ c → t.crew? d = s.crew? d) ∧
     (∀ e ∈ k.out, (e.val ≠ none ∨ s.stuck c e = false ∨ ∀ m ∈ s.mosOf c, m.crew = c → m.held = false) →
       ∃ t k', exec i s = .next t ∧ t.crew? c = some k' ∧ k'.h = false ∧ k'.trapping ≠ none ∧ k'.park = o.sw ∧
         k'.s = k.s)) ∧
  (∀ (s : State) (c : CrewRef) (k : Crew) (cause : Nat) (addr : W64), s.crew? c = some k → k.h = false → k.trapping = none →
     k.out = [] → cause < 256 →
     ∃ k', (s.trapAt c cause addr).crew? c = some k' ∧ k'.h = true ∧ k'.pc = s.handlerEntry c ∧
       k'.tr.tcause = BitVec.ofNat 64 cause ∧ k'.tr.tpc = k.pc ∧ k'.tr.tspc = k.pc ∧ k'.tr.finfo = k.pc.setWidth 64 ∧
       k'.tr.faddr = addr ∧ k'.tr.fmask = 0 ∧ k'.tr.trep = 0 ∧
       k'.s = k.s ∧ k'.bank = k.bank ∧ k'.q = k.q ∧ k'.v = k.v ∧ k'.p = k.p ∧ k'.flags = k.flags) ∧
  ((∀ (s : State) (c : CrewRef) (k : Crew), s.crew? c = some k → k.h = true →
     (∀ (cause : Nat) (addr : W64) (u : State), cause < 256 → u = s.log cause (1 + s.dieOf c) k.pc.toNat addr.toNat →
       (∀ b j, c = .blk b j → s.trapAt c cause addr = u.failLaunch 0x87 k.unit) ∧
       (∀ d, c = .ctl d → s.trapAt c cause addr = u.stopCtl d ∧ (u.stopCtl d).crew? c = none ∧ ((u.stopCtl d).ctl d).load = [])) ∧
     (∀ (o : OpN) (i : Instr) (cause : Nat) (u : State), ScalarAt s c k → (i = .trap o ∧ cause = 0x60 ∨ i = .brk o ∧ cause = 0x61) →
       u = (s.putCrew c (k.issued o.sw)).log cause (1 + s.dieOf c) k.pc.toNat 0 →
       (∀ b j, c = .blk b j → exec i s = .next (u.failLaunch 0x87 k.unit)) ∧
       (∀ d, c = .ctl d → exec i s = .next (u.stopCtl d)))) ∧
   (∀ (s : State) (cause chiplet code addr : Nat), LogTakes s (s.log cause chiplet code addr) cause chiplet code addr))

/-- ERET leaves the handler: H is 0, the handler's run slot is empty, the thread resumes at TSPC, and the trapped gang at TPC. With
TREP nonzero the gang's next turn there enables the lanes of TREP that the mask stack enables, and no others; with TREP 0 it enables
those of the mask stack. Other slices and other gangs are as they were. ERET waits for a handler run that has not ended, and raises
ILLINS outside a handler, which is a double fault inside one for a scalar trap whose TPC differs from TSPC (R314, R319). -/
def Obligations.ExceptionReturn : Prop :=
  ∀ (s : State) (c : CrewRef) (k : Crew) (o : OpZ), ScalarAt s c k →
    (k.h = false → Traps (.eret o) s c cILLINS 0) ∧
    (k.h = true → k.tr.tcause.toNat.testBit 8 = false → k.tr.tpc ≠ k.tr.tspc → Traps (.eret o) s c cILLINS 0) ∧
    (k.h = true → (k.tr.tcause.toNat.testBit 8 = true ∨ k.tr.tpc = k.tr.tspc) →
      (∀ r, k.hrun = some r → r.state ≠ .ended → Waits (.eret o) s c) ∧
      ((∀ r, k.hrun = some r → r.state = .ended) →
        ∃ t k', exec (.eret o) s = .next t ∧ t.crew? c = some k' ∧ k'.h = false ∧ k'.hrun = none ∧ k'.pc = k.tr.tspc ∧
          k'.s = k.s ∧ k'.bank = k.bank ∧ k'.q = k.q ∧ k'.v = k.v ∧ k'.p = k.p ∧ k'.flags = k.flags ∧ k'.tr = k.tr ∧
          (∀ a, t.byte a = s.byte a) ∧
          (o.sw = true → k'.park = true) ∧
          (k.tr.tcause.toNat.testBit 8 = false → k'.runs = k.runs) ∧
          (∀ r, k.tr.tcause.toNat.testBit 8 = true → ({ k with h := false } : Crew).runNow = some r →
            ∃ x, k'.runNow = some x ∧
              (∀ l < 8, (x.slice l).cur = (r.slice l).cur ∧ (x.slice l).stack = (r.slice l).stack ∧
                (x.slice l).pc =
                  (if k.tr.tcause.toNat.testBit (16 + l) = true ∧ (r.slice l).live = true then k.tr.tpc else (r.slice l).pc)) ∧
              ∀ l < 8, k.tr.tcause.toNat.testBit (16 + l) = true → (r.slice l).live = true →
                (∀ n < l, ¬ (k.tr.tcause.toNat.testBit (16 + n) = true ∧ (r.slice n).live = true)) →
                (x.laneTurn c k' l).gang = r.gangOf l ∧
                (x.laneTurn c k' l).cur = (if k.tr.trep = 0 then BitVec.ofNat 32 (r.curMask (r.gangOf l))
                  else BitVec.ofNat 32 (r.curMask (r.gangOf l)) &&& k.tr.trep) ∧
                (k.tr.trep ≠ 0 → k.unread = false → ∀ g, lanesOn (x.laneTurn c k' l) g = (x.laneTurn c k' l).cur) ∧
                ∀ n < 8, (r.slice n).live = true → (r.slice n).gang ≠ (r.slice l).gang →
                  (x.laneTurn c k' n).cur = (r.laneTurn c k n).cur)))

/-- HALT of a block's crew ends the crew once its runs have ended, nothing of its scalar thread is outstanding, its tile
instructions are over and the way to its barriers is open (log entry 119), and waits otherwise; while a MEMERR of the scalar thread
is deferred it waits for that, which is taken at it (R256). In a handler the run is the handler's, and the tile instructions of the
crew that a fault holds are discarded first (log entry 26). HALT of a control crew stops the crew (R66, R256, R314, R321). What
writing LFAIL does to the launch: 0 does nothing, a listed or software cause fails a block crew's launch with it, another value
fails it with SWTRAP and is logged, and a control crew stops with an entry in the log (R317). -/
def Obligations.CrewAndLaunchEnds : Prop :=
  ((∀ (s : State) (b j : Nat) (k : Crew) (o : OpZ), BlockAt s b j k → k.scalarErr = [] → k.h = false →
     ((∀ r ∈ k.runs, r.state = .ended) → k.scalarOut = [] → (∀ m ∈ s.mosOf (.blk b j), m.crew ≠ .blk b j) →
       (∀ n, 1 ≤ n → n ≤ 2 → s.barWay (.blk b j) n = true) →
       exec (.halt o) s = .next ((s.putCrew (.blk b j) { k with leave := .halt }).endCrew (.blk b j)) ∧
       ((s.putCrew (.blk b j) { k with leave := .halt }).endCrew (.blk b j)).crew? (.blk b j) = none) ∧
     ((∃ r ∈ k.runs, r.state ≠ .ended) ∨ k.scalarOut ≠ [] ∨ (∃ m ∈ s.mosOf (.blk b j), m.crew = .blk b j) ∨
         s.barWay (.blk b j) 1 = false ∨ s.barWay (.blk b j) 2 = false →
       exec (.halt o) s = .next (s.putCrew (.blk b j) { k with leave := .halt, wait := true }))) ∧
   (∀ (s : State) (b j : Nat) (k : Crew) (o : OpZ), BlockAt s b j k → k.scalarErr = [] → k.h = true →
     ((∀ r, k.hrun = some r → r.state = .ended) → k.scalarOut = [] →
       (∀ m ∈ s.mosOf (.blk b j), m.crew = .blk b j → m.held = true) → (∀ n, 1 ≤ n → n ≤ 2 → s.barWay (.blk b j) n = true) →
       ∃ t, exec (.halt o) s = .next t ∧ t.crew? (.blk b j) = none ∧ ∀ m ∈ (t.core (s.coreOf (.blk b j))).mos, m.crew ≠ .blk b j) ∧
     (((∃ r, k.hrun = some r ∧ r.state ≠ .ended) ∨ k.scalarOut ≠ [] ∨ (∃ m ∈ s.mosOf (.blk b j), m.crew = .blk b j ∧ m.held = false) ∨
         s.barWay (.blk b j) 1 = false ∨ s.barWay (.blk b j) 2 = false) →
       ∃ t, exec (.halt o) s = .next t ∧ t.crew? (.blk b j) = some { k with leave := .halt, wait := true } ∧
         (∀ m ∈ t.mosOf (.blk b j), ¬ (m.crew = .blk b j ∧ m.held = true)) ∧
         (∀ m ∈ s.mosOf (.blk b j), ¬ (m.crew = .blk b j ∧ m.held = true) → m ∈ t.mosOf (.blk b j)) ∧
         (∀ a, t.byte a = s.byte a) ∧ ∀ e, e ≠ .blk b j → t.crew? e = s.crew? e)) ∧
   (∀ (s : State) (b j : Nat) (k : Crew) (o : OpZ), BlockAt s b j k → k.scalarErr ≠ [] → Waits (.halt o) s (.blk b j)) ∧
   (∀ (s : State) (d : Nat) (k : Crew) (o : OpZ), ScalarAt s (.ctl d) k →
     ∃ t, exec (.halt o) s = .next t ∧ t.crew? (.ctl d) = none ∧ (t.ctl d).load = [] ∧ ∀ e, e ≠ .ctl d → t.crew? e = s.crew? e)) ∧
  (∀ (s : State) (c : CrewRef) (v : W64) (w : Nat), w = v.toNat % 256 →
     (w = 0 → exec (.lfailWrite c v) s = .next s) ∧
     (∀ b j k, c = .blk b j → s.crew? c = some k → w ≠ 0 →
       ((w ∈ listedCauses ∨ 0xC0 ≤ w) → exec (.lfailWrite c v) s = .next (s.failLaunch w k.unit)) ∧
       (w ∉ listedCauses → w < 0xC0 →
         exec (.lfailWrite c v) s = .next ((s.log cSWTRAP (1 + s.dieOf c) 0 w).failLaunch cSWTRAP k.unit))) ∧
     (∀ (d : Nat) (t : State) (cause x : Nat), c = .ctl d → w ≠ 0 →
       ((w ∈ listedCauses ∨ 0xC0 ≤ w) ∧ cause = w ∧ x = 0 ∨ (w ∉ listedCauses ∧ w < 0xC0) ∧ cause = cSWTRAP ∧ x = w) →
       t = (s.log cause (1 + d) 0 x).stopCtl d → exec (.lfailWrite c v) s = .next t ∧ t.crew? c = none ∧ (t.ctl d).load = []))

/-- MFSR and MTSR on every system register: the value read, the write that takes effect, PRIVINS on a register marked P outside a
handler of an ordinary crew, ILLINS on a number that is not listed and on a write to a read-only register (R315, R320; an
unprivileged write of a read-only P register takes PRIVINS). What codes 97 to 123 read, as an operand of any scalar instruction: in
a block's crew the quantities of the table, each from the piece of state that holds it, and in a control crew 0, 255 and the
registers that it has (R17, R39). -/
def Obligations.SystemRegisters : Prop :=
  (∀ (s : State) (c : CrewRef) (k : Crew), ScalarAt s c k →
     (∀ (sw : Bool) (rd : BitVec 7) (n : BitVec 10) (v : W64),
       (n = 0 ∧ v = k.tr.tcause ∨ n = 1 ∧ v = k.tr.tpc.setWidth 64 ∨ n = 2 ∧ v = k.tr.fmask.setWidth 64 ∨ n = 3 ∧ v = k.tr.faddr ∨
         n = 4 ∧ v = k.tr.finfo ∨ n = 5 ∧ v = k.tr.trep.setWidth 64 ∨ n = 6 ∧ v = k.tr.tspc.setWidth 64 ∨ n = 10 ∧ v = 0 ∨
         n = 11 ∧ v = k.ftstat.setWidth 64 ∨ n = 12 ∧ v = 0) →
       ((c.isCtl = true ∨ k.h = true) → Writes (.mfsr ⟨sw, rd, n⟩) s c k rd v sw) ∧
       (c.isCtl = false → k.h = false → Traps (.mfsr ⟨sw, rd, n⟩) s c cPRIVINS 0 ∧ ∀ ra, Traps (.mtsr ⟨sw, n, ra⟩) s c cPRIVINS 0)) ∧
     (∀ (sw : Bool) (rd : BitVec 7), Writes (.mfsr ⟨sw, rd, 8⟩) s c k rd (k.flags.setWidth 64) sw ∧
       Writes (.mfsr ⟨sw, rd, 9⟩) s c k rd (s.mbox.mode.setWidth 64) sw ∧
       Writes (.mfsr ⟨sw, rd, 13⟩) s c k rd ((s.handlerEntry c).setWidth 64) sw) ∧
     (∀ (sw : Bool) (rd ra : BitVec 7) (n : BitVec 10), (n = 7 ∨ 14 ≤ n.toNat) →
       Traps (.mfsr ⟨sw, rd, n⟩) s c cILLINS 0 ∧ Traps (.mtsr ⟨sw, n, ra⟩) s c cILLINS 0) ∧
     (∀ (sw : Bool) (ra : BitVec 7), Traps (.mtsr ⟨sw, 9, ra⟩) s c cILLINS 0 ∧ Traps (.mtsr ⟨sw, 13, ra⟩) s c cILLINS 0 ∧
       Changes (.mtsr ⟨sw, 8, ra⟩) s c { k with flags := (s.sread c k ra).setWidth 6 } sw) ∧
     ((c.isCtl = true ∨ k.h = true) → ∀ (sw : Bool) (ra : BitVec 7) (v : W64), v = s.sread c k ra →
       (∀ n : BitVec 10, (n = 0 ∨ n = 2 ∨ n = 3 ∨ n = 4 ∨ n = 11) → Traps (.mtsr ⟨sw, n, ra⟩) s c cILLINS 0) ∧
       Changes (.mtsr ⟨sw, 1, ra⟩) s c { k with tr := { k.tr with tpc := v.setWidth 24 } } sw ∧
       Changes (.mtsr ⟨sw, 5, ra⟩) s c { k with tr := { k.tr with trep := v.setWidth 32 } } sw ∧
       Changes (.mtsr ⟨sw, 6, ra⟩) s c { k with tr := { k.tr with tspc := v.setWidth 24 } } sw ∧
       (v.toNat % 256 = 0 → Changes (.mtsr ⟨sw, 12, ra⟩) s c k sw) ∧
       (∀ b j w, c = .blk b j → v.toNat % 256 = w → w ≠ 0 → (w ∈ listedCauses ∨ 0xC0 ≤ w) →
         exec (.mtsr ⟨sw, 12, ra⟩) s = .next ((s.putCrew c (k.next sw)).failLaunch w k.unit)) ∧
       (k.scalarErr = [] → k.ftReq = none → ∃ t, exec (.mtsr ⟨sw, 10, ra⟩) s = .next t ∧
         t.crew? c = some { k with ftReq := some (v, sw), wait := true } ∧ t.fore.ftq = s.fore.ftq ++ [c]))) ∧
  ((∀ (s : State) (c : CrewRef) (k : Crew) (sw : Bool) (rd code : BitVec 7), ScalarAt s c k → 97 ≤ code.toNat →
     Writes (.add ⟨sw, rd, code, 96⟩) s c k rd (s.special c k code.toNat) sw) ∧
   (∀ (s : State) (b j : Nat) (k : Crew) (x : Block) (l : Launch) (r : Nat → Nat), s.crew? (.blk b j) = some k →
     s.block? b = some x → s.launch? x.unit = some l → (∀ n, r n = (s.special (.blk b j) k n).toNat) → ∀ w : Nat → Nat, (∀ n, w n = n % 2 ^ 64) →
     (r 97 = w j ∧ r 98 = w (if l.lr.csize = 0 then 0 else x.index % l.lr.csize) ∧ r 99 = w x.index ∧ r 100 = l.lr.lid.toNat ∧
       r 101 = w x.core ∧ r 102 = w (s.dieOfCore x.core) ∧ r 103 = w (s.cclk (s.dieOfCore x.core)) ∧ r 104 = (if x.shrink then 1 else 0) ∧
       r 105 = k.grant.toNat ∧ r 106 = w k.groups ∧ r 107 = w x.members) ∧
     (r 108 = w (x.index % l.lr.gx) ∧ r 109 = w (x.index / l.lr.gx % l.lr.gy) ∧ r 110 = w (x.index / l.lr.gx / l.lr.gy) ∧
       r 111 = w l.lr.gx ∧ r 112 = w l.lr.gy ∧ r 113 = w l.lr.gz ∧ r 114 = w (x.index / l.lr.csize) ∧ r 115 = w l.lr.csize) ∧
     (∀ n lv, (n = 116 ∧ lv = .gph ∨ n = 117 ∧ lv = .phs ∨ n = 118 ∧ lv = .job) → ∀ u, s.ancestor 4 k.unit lv = some u → r n = u.id.toNat) ∧
     (r 119 = k.flags.toNat ∧ r 120 = (if l.lr.world then 1 else 0) ∧ r 121 = k.pc.toNat ∧
       ((r 122).testBit 0 = true ↔ ∃ x ∈ k.slots, x.state = .executing) ∧ ((r 122).testBit 1 = true ↔ ∃ x ∈ k.slots, x.state = .queued) ∧
       r 123 = w l.lr.prio)) ∧
   (∀ (s : State) (d : Nat) (k : Crew), s.crew? (.ctl d) = some k →
     (∀ n, (97 ≤ n ∧ n ≤ 100 ∨ 104 ≤ n ∧ n ≤ 118 ∨ n = 122 ∨ n = 123) → s.special (.ctl d) k n = 0) ∧
     s.special (.ctl d) k 101 = 255 ∧ s.special (.ctl d) k 102 = BitVec.ofNat 64 d ∧
     s.special (.ctl d) k 103 = BitVec.ofNat 64 (s.cclk d) ∧ s.special (.ctl d) k 119 = k.flags.setWidth 64 ∧
     s.special (.ctl d) k 120 = (if s.worlds.ctx.toNat.testBit d then 1 else 0) ∧ s.special (.ctl d) k 121 = k.pc.setWidth 64))

/-- Which crews have which instructions: a control crew takes ILLINS at every run, barrier, membership, group, copy, chunk and
matrix instruction, before any operand is read (R67, R215); a crew of a block takes it at every serving instruction (R134); and a
growth crew that has not attached takes ATTSEQ at every scalar instruction but ATTACH (R91). -/
def Obligations.InstructionsByCrew : Prop :=
  (∀ (s : State) (d : Nat) (k : Crew) (i : Instr), ScalarAt s (.ctl d) k → needsBlock i = true → Traps i s (.ctl d) cILLINS 0) ∧
  (∀ (s : State) (b j : Nat) (k : Crew) (i : Instr), BlockAt s b j k → serves i = true → Traps i s (.blk b j) cILLINS 0) ∧
  (∀ (s : State) (b j : Nat) (k : Crew) (i : Instr) (w : W32), s.turn = .scalar (.blk b j) → s.crew? (.blk b j) = some k →
    k.growth = true → k.h = false → decodeScalar w = some i → (∀ o, i ≠ .attach o) → Traps i s (.blk b j) cATTSEQ 0)

/-- The barriers of a block, of a cluster and of a launch: BARRIVE writes the token and counts the arrival, joined by its operator
to what the phase has gathered; the last member completes the phase, with that as its result. A block arrives at a launch barrier
when its last crew has, with their joined value (log entry 78 for a block that had arrived already). BARIDX, BARDUP and BARMIX trap
with nothing changed; BWAIT waits until the token's phase is over and returns the result; BTEST answers at once. While a message of
the crew cannot pass to a barrier of its cluster or its launch, all three wait (R84 to R88; log entry 119). A growth crew that has
not attached arrives in a handler as any crew does (log entry 112). -/
def Obligations.BarrierInstructions : Prop :=
  (∀ (s : State) (b j : Nat) (k : Crew) (o : OpBar) (x : Block) (i : Nat) (y : Barrier) (v : W32) (done : State), BlockAt s b j k →
    s.block? b = some x → (s.sread (.blk b j) k o.ra).toNat = i → i < 16 → i < (s.recOf (.blk b j)).nbb →
    y = listGet (Barrier.start 0) x.bars i → v = (s.sread (.blk b j) k o.rb).setWidth 32 →
    done = s.putCrew (.blk b j) ((k.swrite o.rd (BitVec.ofNat 64 (i * 2 ^ 16 + y.phase.toNat))).next o.sw) →
    InOrder (.barrive o) s (.blk b j) [(j ∈ y.arrived, cBARDUP), (o.op ≠ .none ∧ y.op ≠ .none ∧ y.op ≠ o.op, cBARMIX)]
      (∃ z, PhaseStep y z j o.op v (ones v) ∧
        exec (.barrive o) s = .next (done.putBlock b { x with bars := listSet x.bars i z }))) ∧
  (∀ (s : State) (b j : Nat) (k : Crew) (o : OpBar) (x : Block) (u : Cluster) (l : Launch) (i me : Nat) (y : Barrier) (v : W32)
      (done : State), BlockAt s b j k →
    s.block? b = some x → s.cluster? x.cluster = some u → s.launch? x.unit = some l → 0 < l.lr.csize → s.barWay (.blk b j) 1 = true →
    me = 16 * (x.index % l.lr.csize) + j → (s.sread (.blk b j) k o.ra).toNat = 16 + i → i < 16 → i < l.lr.ncb →
    y = listGet (Barrier.start 0) u.bars i → v = (s.sread (.blk b j) k o.rb).setWidth 32 →
    done = s.putCrew (.blk b j) ((k.swrite o.rd (BitVec.ofNat 64 ((16 + i) * 2 ^ 16 + y.phase.toNat))).next o.sw) →
    InOrder (.barrive o) s (.blk b j) [(me ∈ y.arrived, cBARDUP), (o.op ≠ .none ∧ y.op ≠ .none ∧ y.op ≠ o.op, cBARMIX)]
      (∃ z, PhaseStep y z me o.op v (ones v) ∧
        exec (.barrive o) s = .next (done.putCluster x.cluster { u with bars := listSet u.bars i z }))) ∧
  (∀ (s : State) (b j : Nat) (k : Crew) (o : OpBar) (x : Block) (l : Launch) (i : Nat) (cb : Combine) (y : Barrier) (v : W32)
      (done : State), BlockAt s b j k →
    s.block? b = some x → s.launch? x.unit = some l → (s.sread (.blk b j) k o.ra).toNat = 32 + i → i < 16 → i < l.lr.nlb →
    s.barWay (.blk b j) 2 = true →
    i < x.combine.length → i < l.bars.length → cb = listGet ⟨[], .none, 0⟩ x.combine i → y = listGet (Barrier.start 0) l.bars i →
    v = (s.sread (.blk b j) k o.rb).setWidth 32 →
    done = s.putCrew (.blk b j) ((k.swrite o.rd (BitVec.ofNat 64 ((32 + i) * 2 ^ 16 + y.phase.toNat))).next o.sw) →
    InOrder (.barrive o) s (.blk b j) [(j ∈ cb.arrived, cBARDUP), (o.op ≠ .none ∧ cb.op ≠ .none ∧ cb.op ≠ o.op, cBARMIX)]
      (∃ cb' : Combine, cb'.arrived = cb.arrived ++ [j] ∧ cb'.op = (if o.op = .none then cb.op else o.op) ∧
        Joined cb.op o.op cb.acc v (ones v) cb'.acc ∧
        ∀ here, here = done.putBlock b { x with combine := listSet x.combine i cb' } →
          ((cb.arrived.length + 1 ≠ x.members ∨ x.index ∈ y.arrived) → exec (.barrive o) s = .next here) ∧
          (cb.arrived.length + 1 = x.members → x.index ∉ y.arrived → (cb'.op = .none ∨ y.op = .none ∨ y.op = cb'.op) →
            ∃ z t l', PhaseStep y z x.index cb'.op cb'.acc cb'.acc.toNat ∧ exec (.barrive o) s = .next t ∧
              t.launch? x.unit = some l' ∧ l'.bars = listSet l.bars i z ∧ t.crews = done.crews ∧
              (z.phase = y.phase → t.blocks = here.blocks) ∧
              (z.phase ≠ y.phase → ∀ p ∈ t.blocks, p.2.unit = x.unit → i < p.2.combine.length →
                listGet ⟨[], .none, 0⟩ p.2.combine i = ⟨[], .none, 0⟩)))) ∧
  (∀ (s : State) (b j : Nat) (k : Crew) (o : OpBar), BlockAt s b j k →
    selector? (s.recOf (.blk b j)) (s.sread (.blk b j) k o.ra).toNat = none → Traps (.barrive o) s (.blk b j) cBARIDX 0) ∧
  (∀ (s : State) (b j : Nat) (k : Crew) (o : OpBar) (lev i : Nat), BlockAt s b j k →
    selector? (s.recOf (.blk b j)) (s.sread (.blk b j) k o.ra).toNat = some (lev, i) → s.barWay (.blk b j) lev = false →
    exec (.barrive o) s = .next s) ∧
  (∀ (s : State) (b j : Nat) (k : Crew) (o : OpDA) (t : Nat) (lev i : Nat) (y : Barrier), BlockAt s b j k →
    t = (s.sread (.blk b j) k o.ra).toNat → t < 2 ^ 22 → selector? (s.recOf (.blk b j)) (t / 2 ^ 16) = some (lev, i) →
    y = s.barOf (.blk b j) lev i →
    (s.barWay (.blk b j) lev = false → exec (.btest o) s = .next s ∧ Waits (.bwait o) s (.blk b j)) ∧
    (s.barWay (.blk b j) lev = true → y.phase.toNat = t % 2 ^ 16 →
      Writes (.btest o) s (.blk b j) k o.rd 0 o.sw ∧ Waits (.bwait o) s (.blk b j)) ∧
    (s.barWay (.blk b j) lev = true → y.phase.toNat ≠ t % 2 ^ 16 → Writes (.btest o) s (.blk b j) k o.rd 1 o.sw ∧
      (k.scalarErr = [] → Writes (.bwait o) s (.blk b j) k o.rd (y.result.setWidth 64) o.sw))) ∧
  (∀ (s : State) (b j : Nat) (k : Crew) (o : OpDA), BlockAt s b j k → 2 ^ 22 ≤ (s.sread (.blk b j) k o.ra).toNat →
    Traps (.btest o) s (.blk b j) cBARIDX 0 ∧ (k.scalarErr = [] → Traps (.bwait o) s (.blk b j) cBARIDX 0))

/-- ATTACH and DETACH: a growth crew joins every barrier of its block and the block's membership, and any other crew takes ATTSEQ; a
departure below the block's minimum takes DETMIN at the next word, where a marked thread parks (R47), and one that is allowed marks
the block and waits or ends the crew; both wait for the way to the barriers of the cluster and the launch (R91, R92; log entry
119). -/
def Obligations.AttachAndDetach : Prop :=
  (∀ (s : State) (b j : Nat) (k : Crew) (o : OpD) (x : Block), s.turn = .scalar (.blk b j) → s.crew? (.blk b j) = some k →
    k.scalarErr = [] → s.block? b = some x →
    (k.growth = false → Traps (.attach o) s (.blk b j) cATTSEQ 0) ∧
    (k.growth = true → (x.gather ≠ none ∨ s.barWay (.blk b j) 1 = false) → Waits (.attach o) s (.blk b j)) ∧
    (k.growth = true → x.gather = none → s.barWay (.blk b j) 1 = true → ∃ t, exec (.attach o) s = .next t ∧
      t.crew? (.blk b j) = some (({ k with growth := false }.swrite o.rd (BitVec.ofNat 64 (x.members + 1))).next o.sw) ∧
      t.block? b = some { x with members := x.members + 1, bars := x.bars.map (fun y => { y with members := y.members + 1 }) } ∧
      (∀ a, t.byte a = s.byte a) ∧ ∀ d, d ≠ .blk b j → t.crew? d = s.crew? d)) ∧
  (∀ (s : State) (b j : Nat) (k : Crew) (o : OpZ) (x : Block), BlockAt s b j k → k.scalarErr = [] → s.block? b = some x →
    k.leave ≠ .detach →
    (x.members < x.departing + 1 + (s.recOf (.blk b j)).minc → exec (.detach o) s = .next (s.trapNext (.blk b j) cDETMIN 0 o.sw)) ∧
    (x.departing + 1 + (s.recOf (.blk b j)).minc ≤ x.members →
      ((∀ r ∈ k.runs ++ k.hrun.toList, r.state = .ended) → k.scalarOut = [] → (∀ m ∈ s.mosOf (.blk b j), m.crew ≠ .blk b j) →
        (∀ n, 1 ≤ n → n ≤ 2 → s.barWay (.blk b j) n = true) →
        exec (.detach o) s = .next (((s.putBlock b { x with departing := x.departing + 1 }).putCrew (.blk b j)
          { k with leave := .detach }).endCrew (.blk b j))) ∧
      ((∃ r ∈ k.runs ++ k.hrun.toList, r.state ≠ .ended) ∨ k.scalarOut ≠ [] ∨ (∃ m ∈ s.mosOf (.blk b j), m.crew = .blk b j) ∨
          s.barWay (.blk b j) 1 = false ∨ s.barWay (.blk b j) 2 = false →
        exec (.detach o) s = .next ((s.putBlock b { x with departing := x.departing + 1 }).putCrew (.blk b j)
          { k with leave := .detach, wait := true }))))

/-- CLAIM, RELEASE and YIELD: a claim beyond 64 groups and a release of more than are held take REGLIM; a claim that no other
precedes and that fits the pool is granted at once with zero-filled registers, a count of 0 returns at once, another claim waits in
the queue; a release returns the top groups once no run uses them; YIELD makes the crew the youngest (R80 to R82, R94). WDONE and
WCANCEL: an identifier above 32 bits takes WIDRNG; WDONE delivers the word of the visible counter, or 0; WCANCEL of no visible unit
takes CANPERM, and otherwise delivers the word as it was and cancels the unit (R109, R110). -/
def Obligations.GroupsAndCounters : Prop :=
  ((∀ (s : State) (b j : Nat) (k : Crew) (o : OpDA) (n : Nat) (q : Core), BlockAt s b j k → k.scalarErr = [] →
     n = (s.sread (.blk b j) k o.ra).toNat → q = s.core (s.coreOf (.blk b j)) →
     (64 < k.groups + n → Traps (.claim o) s (.blk b j) cREGLIM 0) ∧
     (k.groups + n ≤ 64 → (n = 0 ∨ q.claims = [] ∧ n ≤ s.freeGroups (s.coreOf (.blk b j))) →
       ∃ v, Changes (.claim o) s (.blk b j) ({ k with v := v, groups := k.groups + n }.swrite o.rd (BitVec.ofNat 64 (k.groups + n))) o.sw ∧
         ∀ l < 32, ∀ m, sparseGet 0 v (32 * m + l) = if 8 * k.groups ≤ m ∧ m < 8 * (k.groups + n) then 0 else k.vread l m) ∧
     (k.groups + n ≤ 64 → 0 < n → (∀ x ∈ q.claims, x.crew ≠ .blk b j) → (q.claims ≠ [] ∨ s.freeGroups (s.coreOf (.blk b j)) < n) →
       ∃ e : Claim, e.crew = .blk b j ∧ e.n = n ∧ e.rd = o.rd ∧ e.sw = o.sw ∧
         exec (.claim o) s = .next ((s.putCore (s.coreOf (.blk b j)) { q with claims := q.claims ++ [e] }).waitScalar (.blk b j)))) ∧
   (∀ (s : State) (b j : Nat) (k : Crew) (o : OpDA) (n : Nat), BlockAt s b j k → k.scalarErr = [] →
     n = (s.sread (.blk b j) k o.ra).toNat →
     (k.groups < n → Traps (.release o) s (.blk b j) cREGLIM 0) ∧
     (n ≤ k.groups → (n = 0 ∨ ∀ r ∈ k.runs ++ k.hrun.toList, r.state ≠ .ended → r.groups ≤ k.groups - n) →
       ∃ v, Changes (.release o) s (.blk b j) ({ k with v := v, groups := k.groups - n }.swrite o.rd (BitVec.ofNat 64 (k.groups - n))) o.sw ∧
         ∀ l < 32, ∀ m < 8 * (k.groups - n), sparseGet 0 v (32 * m + l) = k.vread l m) ∧
     (n ≤ k.groups → 0 < n → (∃ r ∈ k.runs ++ k.hrun.toList, r.state ≠ .ended ∧ k.groups - n < r.groups) →
       Waits (.release o) s (.blk b j))) ∧
   (∀ (s : State) (c : CrewRef) (k : Crew) (o : OpZ), ScalarAt s c k →
     (c.isCtl = false → Changes (.yield o) s c { k with age := s.cclk (s.dieOf c) } o.sw) ∧
     (c.isCtl = true → Changes (.yield o) s c k o.sw))) ∧
  (∀ (s : State) (c : CrewRef) (k : Crew) (o : OpLev) (id : W64), ScalarAt s c k → id = s.sread c k o.ra →
     (2 ^ 32 ≤ id.toNat → Traps (.wdone o) s c cWIDRNG 0 ∧ Traps (.wcancel o) s c cWIDRNG 0) ∧
     (id.toNat < 2 ^ 32 →
       (∀ u, s.visibleUnit c k o.lev (id.setWidth 32) = some u → Delivers (.wdone o) s c k o.rd u.word 0 o.sw ∧
         exec (.wcancel o) s = .next ((s.putCrew c ((k.pendS o.rd u.word 0).next o.sw)).cancelUnit cCANCEL u.uid)) ∧
       (s.visibleUnit c k o.lev (id.setWidth 32) = none → Delivers (.wdone o) s c k o.rd 0 0 o.sw ∧
         Traps (.wcancel o) s c cCANPERM 0) ∧
       (∀ u, s.visibleUnit c k o.lev (id.setWidth 32) = some u → u ∈ s.units ∧ u.level = o.lev ∧ u.id = id.setWidth 32 ∧
         (s.worldOf c = true ∨ u.world = false) ∧ ∀ x ∈ s.units, x.level = o.lev → x.id = id.setWidth 32 →
           c.isCtl = true → (s.worldOf c = true ∨ x.world = false) → x.uid ≤ u.uid)))

/-! ### Lane arithmetic -/

/-- The two-operand integer instructions and IMAD: the exact result of the table, clipped with .sat, modulo 2^w, in exactly the
lanes that are enabled and pass the guard; nothing else of the crew changes (R186, R193). -/
def Obligations.LaneIntegerResults : Prop :=
  (∀ (s : State) (t : LaneTurn) (o : LInt), GangAt s t →
    Below t (vNamed o.ty.is64 o.vd ++ o.va.named o.ty.is64 ++ o.vb.named o.ty.is64) →
    ∀ a b : Nat → Int, a = numA t o.ty o.va → b = numB t o.ty o.vb →
    (LaneInts (.iadd o) s t o.g o.sw o.ty o.vd (fun l => satNum o.sat o.ty (a l + b l)) ∧
      LaneInts (.isub o) s t o.g o.sw o.ty o.vd (fun l => satNum o.sat o.ty (a l - b l)) ∧
      LaneInts (.imul o) s t o.g o.sw o.ty o.vd (fun l => satNum o.sat o.ty (a l * b l))) ∧
    (o.sat = false →
      LaneInts (.imulh o) s t o.g o.sw o.ty o.vd (fun l => a l * b l / 2 ^ tyBits o.ty) ∧
      LaneInts (.imin o) s t o.g o.sw o.ty o.vd (fun l => min (a l) (b l)) ∧
      LaneInts (.imax o) s t o.g o.sw o.ty o.vd (fun l => max (a l) (b l)) ∧
      (∀ x y : Nat → Nat, (∀ l, x l = (a l % 2 ^ tyBits o.ty).toNat) → (∀ l, y l = (b l % 2 ^ tyBits o.ty).toNat) →
        LaneInts (.iand o) s t o.g o.sw o.ty o.vd (fun l => ((x l &&& y l : Nat) : Int)) ∧
        LaneInts (.ior o) s t o.g o.sw o.ty o.vd (fun l => ((x l ||| y l : Nat) : Int)) ∧
        LaneInts (.ixor o) s t o.g o.sw o.ty o.vd (fun l => ((x l ^^^ y l : Nat) : Int)) ∧
        LaneInts (.ishl o) s t o.g o.sw o.ty o.vd (fun l => ((x l * 2 ^ (y l % tyBits o.ty) : Nat) : Int)) ∧
        LaneInts (.ishr o) s t o.g o.sw o.ty o.vd (fun l => ((x l / 2 ^ (y l % tyBits o.ty) : Nat) : Int)) ∧
        LaneInts (.isar o) s t o.g o.sw o.ty o.vd (fun l =>
          (if x l < 2 ^ (tyBits o.ty - 1) then (x l : Int) else (x l : Int) - 2 ^ tyBits o.ty) / 2 ^ (y l % tyBits o.ty))))) ∧
  (∀ (s : State) (t : LaneTurn) (o : LMad), GangAt s t →
    Below t (vNamed o.ty.is64 o.vd ++ o.va.named o.ty.is64 ++ o.vb.named o.ty.is64 ++ vNamed o.ty.is64 o.vc) →
    LaneInts (.imad o) s t o.g o.sw o.ty o.vd (fun l =>
      satNum o.sat o.ty (numA t o.ty o.va l * numB t o.ty o.vb l + numV t o.ty o.vc l)))

/-- IPOP and ICLZ write one 32-bit register: the number of 1 bits, and of 0 bits above the highest 1 bit. IBFE and IBFI extract and
insert the field [pos + len - 1 : pos], bit by bit (R194, R195). -/
def Obligations.LaneBitResults : Prop :=
  (∀ (s : State) (t : LaneTurn) (o : LCnt) (x : Nat → Nat), GangAt s t → Below t (o.vd.toNat :: o.va.named o.ty.is64) →
    (∀ l, x l = (numA t o.ty o.va l % 2 ^ tyBits o.ty).toNat) →
    ∃ pop clz : Nat → W32,
      LaneSets (.ipop o) s t o.g o.sw o.vd (fun l => (pop l, 0)) ∧ LaneSets (.iclz o) s t o.g o.sw o.vd (fun l => (clz l, 0)) ∧
      (∀ l, (pop l).toNat = ((List.range (tyBits o.ty)).filter (fun n => (x l).testBit n)).length) ∧
      (∀ l, (clz l).toNat ≤ tyBits o.ty ∧ x l < 2 ^ (tyBits o.ty - (clz l).toNat) ∧
        ((clz l).toNat < tyBits o.ty → 2 ^ (tyBits o.ty - 1 - (clz l).toNat) ≤ x l))) ∧
  (∀ (s : State) (t : LaneTurn) (o : LBfe) (x : Nat → Nat), GangAt s t →
    Below t (vNamed o.ty.is64 o.vd ++ o.va.named o.ty.is64) → (Instr.ibfe o).wf = true →
    (∀ l, x l = (numA t o.ty o.va l % 2 ^ tyBits o.ty).toNat / 2 ^ o.pos.toNat % 2 ^ o.len.toNat) →
    LaneInts (.ibfe o) s t o.g o.sw o.ty o.vd (fun l =>
      if (o.ty = .i32 ∨ o.ty = .i64) ∧ 2 ^ (o.len.toNat - 1) ≤ x l then (x l : Int) - 2 ^ o.len.toNat else (x l : Int))) ∧
  (∀ (s : State) (t : LaneTurn) (o : LBfi), GangAt s t →
    Below t (vNamed o.ty.is64 o.vd ++ o.va.named o.ty.is64 ++ vNamed o.ty.is64 o.vb) → (Instr.ibfi o).wf = true →
    ∃ y : Nat → Nat, LaneInts (.ibfi o) s t o.g o.sw o.ty o.vd (fun l => (y l : Int)) ∧ ∀ l n, n < tyBits o.ty →
      (y l).testBit n = (if o.pos.toNat ≤ n ∧ n < o.pos.toNat + o.len.toNat
        then ((numV t o.ty o.vb l) % 2 ^ tyBits o.ty).toNat.testBit (n - o.pos.toNat)
        else ((numA t o.ty o.va l) % 2 ^ tyBits o.ty).toNat.testBit n))

/-- Floating addition, subtraction, multiplication and the fused form, one element or two a register: a NaN operand gives the
canonical NaN, and otherwise the exact result is rounded once, with its flags; FMIN, FMAX and FRND by their rules (R180, R196 to
R199). The exact operations on extended numbers and the rounding are the model's (Machine/Num.lean). -/
def Obligations.LaneFloatResults : Prop :=
  (∀ e : Nat → Rounded, Pk.f32.each e = (BitVec.ofNat 32 (e 0).code, (e 0).flags) ∧ ∀ p : Pk, p ≠ .f32 →
    p.each e = (BitVec.ofNat 32 ((e 0).code + (e 1).code * 2 ^ 16), (e 0).flags ||| (e 1).flags)) ∧
  (∀ (s : State) (t : LaneTurn) (g : Guard) (sw : Bool) (pk : Pk) (rm : Rm) (vd : BitVec 9) (va : SrcA) (vb : SrcB) (x y : Nat → Nat → Nat)
      (a b : Nat → Nat → Ex), GangAt s t → Below t (regs32 vd va vb) →
    (∀ l h, x l h = pk.elem (srcA32 t.k t.r va l) h) → (∀ l h, y l h = pk.elem (srcB32 t.k vb l) h) →
    (∀ l h, a l h = (pk.fmt.value (x l h)).1) → (∀ l h, b l h = (pk.fmt.value (y l h)).1) →
    LaneSets (.fadd ⟨sw, g, pk, rm, vd, va, vb⟩) s t g sw vd (fun l => pk.each (fun h =>
      arith pk.fmt rm ((a l h).isNan || (b l h).isNan) ((a l h).add (rm == .rdn) (b l h)))) ∧
    LaneSets (.fsub ⟨sw, g, pk, rm, vd, va, vb⟩) s t g sw vd (fun l => pk.each (fun h =>
      arith pk.fmt rm ((a l h).isNan || (b l h).isNan) ((a l h).add (rm == .rdn) (b l h).neg))) ∧
    LaneSets (.fmul ⟨sw, g, pk, rm, vd, va, vb⟩) s t g sw vd (fun l => pk.each (fun h =>
      arith pk.fmt rm ((a l h).isNan || (b l h).isNan) ((a l h).mul (b l h)))) ∧
    (∃ lo hi : Nat → Nat → Nat,
      LaneSets (.fmin ⟨sw, g, pk, vd, va, vb⟩) s t g sw vd (fun l => pk.each (fun h => ⟨lo l h, 0⟩)) ∧
      LaneSets (.fmax ⟨sw, g, pk, vd, va, vb⟩) s t g sw vd (fun l => pk.each (fun h => ⟨hi l h, 0⟩)) ∧
      ∀ l h, ((a l h).isNan = true → (b l h).isNan = true → lo l h = pk.fmt.nanCode ∧ hi l h = pk.fmt.nanCode) ∧
        ((a l h).isNan = true → (b l h).isNan = false → lo l h = y l h ∧ hi l h = y l h) ∧
        ((a l h).isNan = false → (b l h).isNan = true → lo l h = x l h ∧ hi l h = x l h) ∧
        ((a l h).isNan = false → (b l h).isNan = false →
          ((a l h).lt (b l h) = true → lo l h = x l h ∧ hi l h = y l h) ∧
          ((b l h).lt (a l h) = true → lo l h = y l h ∧ hi l h = x l h) ∧
          (x l h = y l h → lo l h = x l h ∧ hi l h = x l h) ∧
          ((a l h).isZero = true → (b l h).isZero = true → (a l h).sign = true → (b l h).sign = false → lo l h = x l h ∧ hi l h = y l h) ∧
          ((a l h).isZero = true → (b l h).isZero = true → (a l h).sign = false → (b l h).sign = true →
            lo l h = y l h ∧ hi l h = x l h))) ∧
    (∀ vc : BitVec 9, Below t [vc.toNat] → ∀ c : Nat → Nat → Ex,
      (∀ l h, c l h = (pk.fmt.value (pk.elem (t.k.vread l vc.toNat) h)).1) →
      LaneSets (.ffma ⟨sw, g, pk, rm, vd, va, vb, vc⟩) s t g sw vd (fun l => pk.each (fun h =>
        if ((a l h).isNan || (b l h).isNan || (c l h).isNan) = true then
          ⟨pk.fmt.nanCode, nvIf (((a l h).isZero && (b l h).isInf) || ((a l h).isInf && (b l h).isZero))⟩
        else arith pk.fmt rm false (((a l h).mul (b l h)).add (rm == .rdn) (c l h)))))) ∧
  (∀ (s : State) (t : LaneTurn) (o : LFrnd) (x : Nat → Nat → Nat), GangAt s t → Below t (o.vd.toNat :: o.va.named false) →
    (∀ l h, x l h = o.pk.elem (srcA32 t.k t.r o.va l) h) →
    LaneSets (.frnd o) s t o.g o.sw o.vd (fun l => o.pk.each (fun h =>
      match (o.pk.fmt.value (x l h)).1 with
      | .nan => ⟨o.pk.fmt.nanCode, 0⟩
      | .inf _ => ⟨x l h, 0⟩
      | .fin neg n d => ⟨(roundTo o.pk.fmt o.rm false (.fin neg (roundInt o.rm neg n d).1.natAbs 1)).code,
          if (roundInt o.rm neg n d).2 = true then flagNX else 0⟩)))

/-- The transcendental instructions leave one outstanding destination for each enabled lane: the correctly rounded value of the
function of a binary32 operand, with its flags, delivered later (R46, R200, R201; the rounding by brackets is log entry 8's). The
special operands of the six functions: NaN, zeros, infinities, finite negative numbers and 1 (R201). -/
def Obligations.TranscendentalResults : Prop :=
  (∀ (s : State) (t : LaneTurn) (o : LUn), GangAt s t → Below t (o.vd.toNat :: o.va.named false) →
     ∀ x : Nat → Ex, (∀ l, x l = (fmtF32.value (srcA32 t.k t.r o.va l).toNat).1) →
     LaneLate (.exp2 o) s t o.g o.sw o.vd (fun l => (BitVec.ofNat 32 (exp2R (x l)).code, (exp2R (x l)).flags)) ∧
     LaneLate (.log2 o) s t o.g o.sw o.vd (fun l => (BitVec.ofNat 32 (log2R (x l)).code, (log2R (x l)).flags)) ∧
     LaneLate (.rcp o) s t o.g o.sw o.vd (fun l => (BitVec.ofNat 32 (rcpR (x l)).code, (rcpR (x l)).flags)) ∧
     LaneLate (.rsq o) s t o.g o.sw o.vd (fun l => (BitVec.ofNat 32 (rsqR (x l)).code, (rsqR (x l)).flags)) ∧
     LaneLate (.sqrt o) s t o.g o.sw o.vd (fun l => (BitVec.ofNat 32 (sqrtR (x l)).code, (sqrtR (x l)).flags)) ∧
     LaneLate (.tanh o) s t o.g o.sw o.vd (fun l => (BitVec.ofNat 32 (tanhR (x l)).code, (tanhR (x l)).flags))) ∧
  ((∀ f : Ex → Rounded, (f = exp2R ∨ f = log2R ∨ f = rcpR ∨ f = rsqR ∨ f = sqrtR ∨ f = tanhR) → f .nan = ⟨fmtF32.nanCode, 0⟩) ∧
   (∀ neg : Bool, exp2R (.fin neg 0 1) = ⟨0x3F800000, 0⟩ ∧ log2R (.fin neg 0 1) = ⟨0xFF800000, flagDZ⟩ ∧
     rcpR (.fin neg 0 1) = ⟨if neg then 0xFF800000 else 0x7F800000, flagDZ⟩ ∧
     rsqR (.fin neg 0 1) = ⟨if neg then 0xFF800000 else 0x7F800000, flagDZ⟩ ∧
     sqrtR (.fin neg 0 1) = ⟨if neg then 0x80000000 else 0, 0⟩ ∧ tanhR (.fin neg 0 1) = ⟨if neg then 0x80000000 else 0, 0⟩) ∧
   (exp2R (.inf false) = ⟨0x7F800000, 0⟩ ∧ log2R (.inf false) = ⟨0x7F800000, 0⟩ ∧ rcpR (.inf false) = ⟨0, 0⟩ ∧
     rsqR (.inf false) = ⟨0, 0⟩ ∧ sqrtR (.inf false) = ⟨0x7F800000, 0⟩ ∧ tanhR (.inf false) = ⟨0x3F800000, 0⟩) ∧
   (exp2R (.inf true) = ⟨0, 0⟩ ∧ log2R (.inf true) = ⟨fmtF32.nanCode, flagNV⟩ ∧ rcpR (.inf true) = ⟨0x80000000, 0⟩ ∧
     rsqR (.inf true) = ⟨fmtF32.nanCode, flagNV⟩ ∧ sqrtR (.inf true) = ⟨fmtF32.nanCode, flagNV⟩ ∧
     tanhR (.inf true) = ⟨0xBF800000, 0⟩) ∧
   (∀ n d : Nat, 0 < n → 0 < d → log2R (.fin true n d) = ⟨fmtF32.nanCode, flagNV⟩ ∧ rsqR (.fin true n d) = ⟨fmtF32.nanCode, flagNV⟩ ∧
     sqrtR (.fin true n d) = ⟨fmtF32.nanCode, flagNV⟩) ∧
   (exp2R (.fin false 1 1) = ⟨0x40000000, 0⟩ ∧ log2R (.fin false 1 1) = ⟨0, 0⟩ ∧ rcpR (.fin false 1 1) = ⟨0x3F800000, 0⟩ ∧
     rsqR (.fin false 1 1) = ⟨0x3F800000, 0⟩ ∧ sqrtR (.fin false 1 1) = ⟨0x3F800000, 0⟩))

/-- CVT, PACK and UNPACK: with their registers in range, a slot that may not be used takes ILLFMT in the enabled lanes (log entry
117); otherwise the code in the source container is converted (by CVT and UNPACK kept when the types are the same, but for NaN and
reserved codes) and placed, with its flags: CVT in the register, sign-extended for i8 and i4; PACK at the top of the shifted
register; UNPACK from the element that vb selects (R175, R177, R202 to R204). -/
def Obligations.LaneConversions : Prop :=
  (∀ (s : State) (t : LaneTurn) (i : Instr) (g : Guard) (dt st : Dt) (fs : BitVec 3), GangAt s t →
    ((∃ sw sat rm vd va, i = .cvt ⟨sw, g, sat, rm, vd, va, dt, st, fs⟩ ∧ Below t (vd.toNat :: va.named false)) ∨
      (∃ sw sat rm vd va vb, (i = .pack ⟨sw, g, sat, rm, vd, va, vb, dt, st, fs⟩ ∨ i = .unpack ⟨sw, g, sat, rm, vd, va, vb, dt, st, fs⟩) ∧
        Below t (regs32 vd va (.reg vb)))) →
    s.cvtSlotBad t.c dt st fs = true → exec i s = .next (s.laneTrap t cILLFMT (lanesOn t g) (lanesOn t g) 0)) ∧
  (∀ (s : State) (t : LaneTurn) (o : LCvt) (src dst : Fmt) (r : Nat → Rounded), GangAt s t →
    Below t (o.vd.toNat :: o.va.named false) → s.cvtSlotBad t.c o.dt o.st o.fs = false →
    src = s.dtFmt t.c o.fs.toNat o.st → dst = s.dtFmt t.c o.fs.toNat o.dt →
    (∀ l, r l = convert s.recordsRsvd (o.dt == o.st) src dst o.rm o.sat
      ((srcA32 t.k t.r o.va l).toNat % 2 ^ s.dtCont t.c o.fs.toNat o.st)) →
    LaneSets (.cvt o) s t o.g o.sw o.vd (fun l =>
      (if o.dt = .i8 then BitVec.ofInt 32 (BitVec.ofNat 8 (r l).code).toInt
        else if o.dt = .i4 then BitVec.ofInt 32 (BitVec.ofNat 4 (r l).code).toInt else BitVec.ofNat 32 (r l).code, (r l).flags))) ∧
  (∀ (s : State) (t : LaneTurn) (o : LPack) (w : Nat) (r : Nat → Rounded), GangAt s t → Below t (regs32 o.vd o.va (.reg o.vb)) →
    s.cvtSlotBad t.c o.dt o.st o.fs = false → w = s.dtCont t.c o.fs.toNat o.dt →
    (∀ l, r l = convert s.recordsRsvd false (s.dtFmt t.c o.fs.toNat o.st) (s.dtFmt t.c o.fs.toNat o.dt) o.rm o.sat
      ((srcA32 t.k t.r o.va l).toNat % 2 ^ s.dtCont t.c o.fs.toNat o.st)) →
    LaneSets (.pack o) s t o.g o.sw o.vd (fun l =>
      (BitVec.ofNat 32 ((t.k.vread l o.vb.toNat).toNat / 2 ^ w + (r l).code * 2 ^ (32 - w)), (r l).flags))) ∧
  (∀ (s : State) (t : LaneTurn) (o : LPack) (w : Nat) (x : Nat → Nat) (r : Nat → Rounded), GangAt s t →
    Below t (regs32 o.vd o.va (.reg o.vb)) → s.cvtSlotBad t.c o.dt o.st o.fs = false → w = s.dtCont t.c o.fs.toNat o.st →
    (∀ l, x l = (srcA32 t.k t.r o.va l).toNat / 2 ^ (w * ((t.k.vread l o.vb.toNat).toNat % 32 % (32 / w))) % 2 ^ w) →
    (∀ l, r l = convert s.recordsRsvd (o.dt == o.st) (s.dtFmt t.c o.fs.toNat o.st) (s.dtFmt t.c o.fs.toNat o.dt) o.rm o.sat (x l)) →
    LaneSets (.unpack o) s t o.g o.sw o.vd (fun l =>
      (if o.dt = .i8 then BitVec.ofInt 32 (BitVec.ofNat 8 (r l).code).toInt
        else if o.dt = .i4 then BitVec.ofInt 32 (BitVec.ofNat 4 (r l).code).toInt else BitVec.ofNat 32 (r l).code, (r l).flags)))

/-- The compares write one predicate (FCMP of packed elements two), the predicate instructions their combination, and the moves one
register, each in exactly the lanes that are enabled and pass the guard, which is read before the write (R186, R205 to R208). -/
def Obligations.LanePredicatesAndMoves : Prop :=
  (∀ (s : State) (t : LaneTurn) (o : LICmp), GangAt s t → Below t (o.va.named o.ty.is64 ++ o.vb.named o.ty.is64) →
    ∀ f : Nat → Bool, (∀ l, f l = true ↔
      (o.cond = .eq ∧ numA t o.ty o.va l = numB t o.ty o.vb l ∨ o.cond = .ne ∧ numA t o.ty o.va l ≠ numB t o.ty o.vb l ∨
        o.cond = .lt ∧ numA t o.ty o.va l < numB t o.ty o.vb l ∨ o.cond = .le ∧ numA t o.ty o.va l ≤ numB t o.ty o.vb l ∨
        o.cond = .gt ∧ numB t o.ty o.vb l < numA t o.ty o.va l ∨ o.cond = .ge ∧ numB t o.ty o.vb l ≤ numA t o.ty o.va l)) →
    LanePreds (.icmp o) s t o.g o.sw o.pd.toNat f) ∧
  (∀ (s : State) (t : LaneTurn) (o : LFCmp), GangAt s t → Below t (o.va.named false ++ o.vb.named false) →
    ∀ (a b : Nat → Nat → Ex) (f : Nat → Nat → Bool),
    (∀ l h, a l h = (o.pk.fmt.value (o.pk.elem (srcA32 t.k t.r o.va l) h)).1) →
    (∀ l h, b l h = (o.pk.fmt.value (o.pk.elem (srcB32 t.k o.vb l) h)).1) →
    (∀ l h, f l h = true ↔ (o.cond = .ne ∧ (a l h).eqv (b l h) = false ∨
      o.cond = .un ∧ ((a l h).isNan = true ∨ (b l h).isNan = true) ∨
      (a l h).isNan = false ∧ (b l h).isNan = false ∧
        (o.cond = .ord ∨ o.cond = .eq ∧ (a l h).eqv (b l h) = true ∨ o.cond = .lt ∧ (a l h).lt (b l h) = true ∨
          o.cond = .le ∧ (b l h).lt (a l h) = false ∨ o.cond = .gt ∧ (b l h).lt (a l h) = true ∨
          o.cond = .ge ∧ (a l h).lt (b l h) = false))) →
    ∃ k', LaneGoes (.fcmp o) s t o.sw k' ∧ k' = { t.k with p := k'.p, flags := k'.flags } ∧
      (∀ l n, l < 32 → OnLane t o.g l → k'.pread l n = if n = o.pd.toNat then f l 0
        else if o.pk ≠ .f32 ∧ n = o.pd.toNat + 1 then f l 1 else t.k.pread l n) ∧
      (∀ l n, l < 32 → ¬ OnLane t o.g l → k'.pread l n = t.k.pread l n) ∧
      (∀ n, n ≠ 4 → k'.flags.toNat.testBit n = t.k.flags.toNat.testBit n) ∧
      (k'.flags.toNat.testBit 4 = true ↔ t.k.flags.toNat.testBit 4 = true ∨
        ((o.cond = .lt ∨ o.cond = .le ∨ o.cond = .gt ∨ o.cond = .ge) ∧ ∃ l h, l < 32 ∧ OnLane t o.g l ∧
          (h = 0 ∨ h = 1 ∧ o.pk ≠ .f32) ∧ ((a l h).isNan = true ∨ (b l h).isNan = true)))) ∧
  (∀ (s : State) (t : LaneTurn) (o : LP3), GangAt s t →
    LanePreds (.pand o) s t o.g o.sw o.pd.toNat (fun l => t.k.pread l o.pa.toNat && t.k.pread l o.pb.toNat) ∧
    LanePreds (.por o) s t o.g o.sw o.pd.toNat (fun l => t.k.pread l o.pa.toNat || t.k.pread l o.pb.toNat) ∧
    LanePreds (.pxor o) s t o.g o.sw o.pd.toNat (fun l => t.k.pread l o.pa.toNat != t.k.pread l o.pb.toNat)) ∧
  (∀ (s : State) (t : LaneTurn) (o : LP2), GangAt s t →
    LanePreds (.pnot o) s t o.g o.sw o.pd.toNat (fun l => !t.k.pread l o.pa.toNat)) ∧
  (∀ (s : State) (t : LaneTurn) (sw : Bool) (g : Guard) (pd pa : BitVec 4) (b : Bool), GangAt s t →
    LanePreds (.pmov ⟨sw, g, pd, .reg pa⟩) s t g sw pd.toNat (fun l => t.k.pread l pa.toNat) ∧
    LanePreds (.pmov ⟨sw, g, pd, .imm b⟩) s t g sw pd.toNat (fun _ => b)) ∧
  (∀ (s : State) (t : LaneTurn) (o : LUn), GangAt s t → Below t (o.vd.toNat :: o.va.named false) →
    LaneSets (.mov o) s t o.g o.sw o.vd (fun l => (srcA32 t.k t.r o.va l, 0))) ∧
  (∀ (s : State) (t : LaneTurn) (o : LMovi), GangAt s t → Below t [o.vd.toNat] →
    LaneSets (.movi o) s t o.g o.sw o.vd (fun _ => (o.imm, 0))) ∧
  (∀ (s : State) (t : LaneTurn) (o : LSel), GangAt s t → Below t (regs32 o.vd o.va (.reg o.vb)) →
    LaneSets (.laneSel o) s t o.g o.sw o.vd (fun l =>
      (if t.k.pread l o.pc.toNat = true then srcA32 t.k t.r o.va l else t.k.vread l o.vb.toNat, 0)))

/-- A vector register at or above the run's group limit takes REGRNG, whichever lane instruction names it and as whichever operand,
a destination or a source; the trap is in exactly the lanes the instruction executes in, which is the model's choice of the faulter
mask (log entry 113), and nothing is written (R70). A lane memory instruction whose checks fail in some lane traps with the cause
and the address that failed in the lowest failing lane (its address, or the start of the next page, log entry 75), exactly the lanes
that failed a check in FMASK and the enabled lanes in TREP, and accesses nothing. While a check of some lane is not decided, because
a table entry cannot be read now, it waits, whatever the other lanes have met; where all pass and some bytes cannot be reached now,
it stalls as a whole, and what it holds for a shuttered die is the lanes' accesses that go there (R252, R255, R300, R315; log entry
111). -/
def Obligations.LaneTraps : Prop :=
  (∀ (s : State) (t : LaneTurn) (i : Instr) (g : Guard) (regs : List Nat) (n : Nat), GangAt s t → vectorRegs i = some (g, regs) →
     n ∈ regs → 8 * t.r.groups ≤ n → exec i s = .next (s.laneTrap t cREGRNG (lanesOn t g) (lanesOn t g) 0)) ∧
  (∀ (s : State) (t : LaneTurn) (i : Instr) (g : Guard) (kind : AccKind) (n : Nat) (addr : Nat → W64), GangAt s t →
     ((∃ o, i = .ld o ∧ g = o.g ∧ kind = .read ∧ n = o.wd.bytes ∧ addr = offAddr t o.va o.off ∧
         Below t (vNamed (o.wd == .b64) o.vd ++ o.va.named true)) ∨
       (∃ o, i = .st o ∧ g = o.g ∧ kind = .write ∧ n = o.wd.bytes ∧ addr = offAddr t o.va o.off ∧
         Below t (vNamed (o.wd == .b64) o.vb ++ o.va.named true)) ∨
       (∃ o, i = .atom o ∧ g = o.g ∧ kind = .atomic ∧ n = (if o.w64 then 8 else 4) ∧ addr = srcA64 t.k t.r o.va ∧
         Below t (vNamed o.w64 o.vd ++ o.va.named true ++ vNamed o.w64 o.vb ++ (if o.op.hasC then vNamed o.w64 o.vc else [])))) →
     ((∃ a ∈ (s.checkLanes t (lanesOn t g) kind n addr).ok, undecided a.locs = true) → exec i s = .next s) ∧
     ((∀ a ∈ (s.checkLanes t (lanesOn t g) kind n addr).ok, undecided a.locs = false) →
     ∀ l e va rest, (s.checkLanes t (lanesOn t g) kind n addr).bad = (l, e, va) :: rest →
       ∃ m, exec i s = .next (s.laneTrap t e m (lanesOn t g) va) ∧ OnLane t g l ∧
          (va = addr l ∨ (0x10000 < (addr l).toNat % 0x10000 + n ∧ va = BitVec.ofNat 64 (((addr l).toNat / 0x10000 + 1) * 0x10000))) ∧
         (∀ l' < 32, m.toNat.testBit l' = true ↔ ∃ e' va', (l', e', va') ∈ (l, e, va) :: rest) ∧
         (∀ x ∈ rest, l < x.1 ∧ OnLane t g x.1)) ∧
     (∀ as s1 lost, s.checkLanes t (lanesOn t g) kind n addr = ⟨as, [], s1⟩ → (∃ a ∈ as, s.stalledLocs (s.seat t.c) a.locs = true) →
       (∀ a ∈ as, undecided a.locs = false) → lost = as.filter (fun a => (s.lostWay (s.seat t.c) a.locs).isSome) →
       ∃ m, (∀ l < 32, m.toNat.testBit l = true ↔ ∃ a ∈ lost, a.lane = l) ∧
         exec i s = .next (s.stallStream t.c (some (t.gang.headD 0)) t.pc (lost.flatMap (·.locs)) (fun u =>
           u.laneTrap t cXPORTERR m (lanesOn t g) ((lost.map (·.va)).headD 0)))))

/-! ### Lanes together -/

/-- SHFL, VOTE and XPUT: SHFL delivers another gang lane's operand, or the lane's own outside 0 to 31 or the gang; VOTE delivers the
mask, its count, or any and all as predicates; XPUT combines the enabled lanes into the slices' partials in lane order and takes
XPMIX when the slot has another operator (R209 to R211). -/
def Obligations.CrossLaneResults : Prop :=
  (∀ (s : State) (t : LaneTurn) (o : LShfl) (src : Nat → Int), GangAt s t → Below t (o.vd.toNat :: (o.va.named false ++ o.src.named)) →
    (∀ l, src l = match o.src with
      | .idx vb => (((t.k.vread l vb.toNat).toNat % 32 : Nat) : Int)
      | .up d => (l : Int) - d.toNat
      | .down d => (l : Int) + d.toNat
      | .xor d => ((l ^^^ d.toNat : Nat) : Int)) →
    LaneLate (.shfl o) s t o.g o.sw o.vd (fun l =>
      (srcA32 t.k t.r o.va (if 0 ≤ src l ∧ src l ≤ 31 ∧ t.all.toNat.testBit (src l).toNat = true then (src l).toNat else l), 0))) ∧
  (∀ (s : State) (t : LaneTurn) (o : LVote) (m : W32), GangAt s t → m = lanesOn t o.g &&& t.k.pmask o.pa.toNat →
    (o.mode = .ballot → Below t [o.d.toNat] → LaneLate (.vote o) s t o.g o.sw o.d (fun _ => (m, 0))) ∧
    (o.mode = .popc → Below t [o.d.toNat] → LaneLate (.vote o) s t o.g o.sw o.d (fun _ => (BitVec.ofNat 32 (popN 32 m.toNat), 0))) ∧
    ((o.mode = .any ∨ o.mode = .all) → ∃ k', LaneGoes (.vote o) s t o.sw k' ∧
      k' = { t.k with out := t.k.out ++ (maskList 32 (lanesOn t o.g).toNat).map (fun l => ⟨.slice (l / 4), t.k.h, .pred o.d.toNat l,
        some (if (o.mode = .any ∧ m ≠ 0) ∨ (o.mode = .all ∧ m = lanesOn t o.g) then 1 else 0), 0, 0⟩) })) ∧
  (∀ (s : State) (t : LaneTurn) (o : LXput), GangAt s t → Below t (o.va.named false) →
    (∀ op, listGet none t.r.ops o.k.toNat = some op → op ≠ o.op →
      exec (.xput o) s = .next (s.laneTrap t cXPMIX (lanesOn t o.g) (lanesOn t o.g) 0)) ∧
    ((listGet none t.r.ops o.k.toNat = none ∨ listGet none t.r.ops o.k.toNat = some o.op) →
      ∃ k' r, exec (.xput o) s = .next (s.putCrew t.c k') ∧ k'.runNow = some r ∧
        k' = { t.k with runs := k'.runs, hrun := k'.hrun, flags := k'.flags } ∧
        (t.r.ops.length = 4 → listGet none r.ops o.k.toNat = some o.op) ∧
        ∀ j < 8, (r.slice j).cur = (t.r.slice j).cur ∧
          (j ∈ t.gang → (t.r.slice j).parts.length = 4 → (r.slice j).pc = codeAdd (t.r.slice j).pc 12 ∧
            listGet none (r.slice j).parts o.k.toNat = (partFold o.op (listGet none (t.r.slice j).parts o.k.toNat)
              ((maskList 32 (lanesOn t o.g).toNat).filterMap (fun l => if l / 4 = j then some (srcA32 t.k t.r o.va l) else none))).1) ∧
          (j ∉ t.gang → r.slice j = t.r.slice j)))

/-- What the gang of a control instruction does in each of its slices: divergence, leaving, jumps and JOIN by the mask stack, with
BADTGT, MSKOVF and JOINMIS where R76 and R77 name them (R74 to R77). The faulter mask of the last two is that of the enabled lanes
of the slices that fail the test, which is the model's choice for a gang of several slices (log entry 11). REGANG, LEND and LTRAP: a
gang parks at REGANG, and when every slice of the run is parked there or has left they go on; LEND waits for the slices' outstanding
destinations, takes JOINMIS inside a region, in the enabled lanes of the slices that are in one (log entry 11), and ends the run
with its last slices; LTRAP takes LANETRAP with its number in the enabled lanes and resumes after the instruction, where a marked
gang parks (R47), and only goes on when no lane is enabled (R78, R79, R321). -/
def Obligations.LaneBranchesAndEnds : Prop :=
  ((∀ (s : State) (t : LaneTurn) (o : LBraD) (en : W32), GangAt s t → en = lanesOn t o.g →
     ((s.laneOff t o.target = false ∨ s.laneOff t o.join = false) → exec (.braDivergent o) s = .next (s.laneTrap t cBADTGT en en 0)) ∧
     (s.laneOff t o.target = true → s.laneOff t o.join = true →
       ((∃ j ∈ t.gang, 8 ≤ (t.r.slice j).stack.length) → ∃ m, exec (.braDivergent o) s = .next (s.laneTrap t cMSKOVF m en 0) ∧
         ∀ l < 32, m.toNat.testBit l = true ↔ en.toNat.testBit l = true ∧ l / 4 ∈ t.gang ∧ 8 ≤ (t.r.slice (l / 4)).stack.length) ∧
       ((∀ j ∈ t.gang, (t.r.slice j).stack.length < 8) →
         ∃ k', exec (.braDivergent o) s = .next (s.putCrew t.c k') ∧ Branched t k' (fun j x y =>
           let take := (en >>> (4 * j)).setWidth 4
           y.stack.length = x.stack.length + 1 ∧ y.stack.tail = x.stack ∧
           (take = x.cur → y.cur = x.cur ∧ y.pc = codeIn x.pc o.target.toNat) ∧
           (take ≠ x.cur → y.pc = codeAdd x.pc 12 ∧ y.cur = x.cur &&& ~~~ take) ∧
           y.stack.head? = some ⟨o.join, x.cur, o.target, if take = x.cur then 0 else take, false⟩)))) ∧
   (∀ (s : State) (t : LaneTurn) (o : LBraL) (en : W32), GangAt s t → en = lanesOn t o.g →
     (s.laneOff t o.join = false → exec (.braLeave o) s = .next (s.laneTrap t cBADTGT en en 0)) ∧
     (s.laneOff t o.join = true → (∃ j ∈ t.gang, (t.r.slice j).topIs o.join = false) →
       ∃ m, exec (.braLeave o) s = .next (s.laneTrap t cJOINMIS m en 0) ∧
         ∀ l < 32, m.toNat.testBit l = true ↔ en.toNat.testBit l = true ∧ l / 4 ∈ t.gang ∧ (t.r.slice (l / 4)).topIs o.join = false) ∧
     (s.laneOff t o.join = true → (∀ j ∈ t.gang, (t.r.slice j).topIs o.join = true) →
       ∃ k', exec (.braLeave o) s = .next (s.putCrew t.c k') ∧ Branched t k' (fun j x y =>
         let left := x.cur &&& ~~~ ((en >>> (4 * j)).setWidth 4)
         (left ≠ 0 → y.cur = left ∧ y.pc = codeAdd x.pc 12 ∧ y.stack = x.stack) ∧ (left = 0 → Rejoined x y)))) ∧
   (∀ (s : State) (t : LaneTurn) (o : LOff), GangAt s t →
     (s.laneOff t o.off = false → exec (.braJump o) s = .next (s.laneTrap t cBADTGT t.cur t.cur 0)) ∧
     (s.laneOff t o.off = true → ∃ k', exec (.braJump o) s = .next (s.putCrew t.c k') ∧
       Branched t k' (fun _ x y => y.cur = x.cur ∧ y.stack = x.stack ∧ y.pc = codeIn x.pc o.off.toNat)) ∧
     ((∃ j ∈ t.gang, (t.r.slice j).topIs o.off = false) → ∃ m, exec (.join o) s = .next (s.laneTrap t cJOINMIS m t.cur 0) ∧
       ∀ l < 32, m.toNat.testBit l = true ↔ t.cur.toNat.testBit l = true ∧ l / 4 ∈ t.gang ∧ (t.r.slice (l / 4)).topIs o.off = false) ∧
     ((∀ j ∈ t.gang, (t.r.slice j).topIs o.off = true) → ∃ k', exec (.join o) s = .next (s.putCrew t.c k') ∧
       Branched t k' (fun _ x y => Rejoined x y)))) ∧
  ((∀ (s : State) (t : LaneTurn) (o : OpZ), GangAt s t →
     ∃ k' r, exec (.regang o) s = .next (s.putCrew t.c k') ∧ k'.runNow = some r ∧ k' = { t.k with runs := k'.runs, hrun := k'.hrun } ∧
       ((∃ j < 8, j ∉ t.gang ∧ (t.r.slice j).live = true ∧ (t.r.slice j).atRegang = false) →
         ∀ j < 8, (r.slice j).pc = (t.r.slice j).pc ∧ (j ∈ t.gang → (r.slice j).atRegang = true)) ∧
       ((∀ j < 8, j ∉ t.gang → (t.r.slice j).live = true → (t.r.slice j).atRegang = true) →
         ∀ j < 8, (t.r.slice j).live = true → (r.slice j).atRegang = false ∧ (r.slice j).pc = codeAdd (t.r.slice j).pc 12 ∧
           (r.slice j).cur = (t.r.slice j).cur)) ∧
   (∀ (s : State) (t : LaneTurn) (o : OpZ), GangAt s t →
     ((∃ j ∈ t.gang, (t.r.slice j).stack ≠ []) → ∃ m, exec (.lend o) s = .next (s.laneTrap t cJOINMIS m t.cur 0) ∧
       ∀ l < 32, m.toNat.testBit l = true ↔ t.cur.toNat.testBit l = true ∧ l / 4 ∈ t.gang ∧ (t.r.slice (l / 4)).stack ≠ []) ∧
     ((∀ j ∈ t.gang, (t.r.slice j).stack = []) → (∃ j ∈ t.gang, t.k.sliceOut j = true ∨ (t.r.slice j).memerr ≠ []) →
       exec (.lend o) s = .next (s.putCrew t.c (t.hold t.k))) ∧
     ((∀ j ∈ t.gang, (t.r.slice j).stack = []) → (∀ j ∈ t.gang, t.k.sliceOut j = false ∧ (t.r.slice j).memerr = []) →
       ∃ k', exec (.lend o) s = .next (s.putCrew t.c k') ∧ k'.s = t.k.s ∧ k'.v = t.k.v ∧ k'.out = t.k.out ∧
         (t.k.h = false → t.k.runs = [t.r] → t.r.slices.length = 8 → (∀ j < 8, j ∉ t.gang → (t.r.slice j).live = false) →
           ∃ r, k'.runs = [r] ∧ r.state = .ended ∧ r.x = (List.range 4).map (fun n => (t.r.slotEnd n).1)))) ∧
   (∀ (s : State) (t : LaneTurn) (o : LTrap), GangAt s t →
     (lanesOn t o.g = 0 → LaneGoes (.ltrap o) s t o.sw t.k) ∧
     (lanesOn t o.g ≠ 0 → exec (.ltrap o) s = .next ((s.putCrew t.c (t.mark o.sw)).takeTrap t.c
       ⟨BitVec.ofNat 64 (0x62 + 2 ^ 8 + t.slices * 2 ^ 16 + o.num.toNat * 2 ^ 32),
       codeAdd t.pc 12, lanesOn t o.g, 0, t.pc.setWidth 64, 0, t.k.pc⟩))))

/-- REORD: it opens its block's gathering, of the members at that time, or joins the one that is open, and waits. When every
participant has issued, the exchange is made: the lanes of all of them, in ascending order of their crews, take the places of the
stable order of their 16-bit keys, every register of the named groups follows, and vd receives the crew and lane it came from; where
a gang is not whole, the groups differ or a participant has departed, all that have issued take REORDSH. The sole member of a block
does so at once (R93). -/
def Obligations.ReorderLanes : Prop :=
  (∀ (s : State) (b j : Nat) (t : LaneTurn) (o : LReord) (x : Block), GangAt s t → t.c = .blk b j → s.block? b = some x → x.gather = none →
    Below t (regs32 o.vd o.va (.imm 0) ++ (maskList 32 o.groups.toNat).map (fun g => 8 * g)) →
    (∃ i k, i ∈ s.crewsOf b ∧ s.crew? (.blk b i) = some k ∧ k.growth = false ∧ i ≠ j) →
    ∃ g, exec (.reord o) s = .next ((s.putCrew t.c (t.hold t.k)).putBlock b { x with gather := some g }) ∧
      g.broken = false ∧ g.issued.map (·.crew) = [j] ∧
      ∀ i, i ∈ g.members ↔ i ∈ s.crewsOf b ∧ ∃ k, s.crew? (.blk b i) = some k ∧ k.growth = false) ∧
  (∀ (s : State) (b j : Nat) (t : LaneTurn) (o : LReord) (x : Block) (key : Nat → Nat), GangAt s t → t.c = .blk b j → j < 16 →
    s.block? b = some x → x.gather = none → s.crewsOf b = [j] → t.k.growth = false →
    Below t (regs32 o.vd o.va (.imm 0) ++ (maskList 32 o.groups.toNat).map (fun g => 8 * g)) →
    (∀ l, key l = (srcA32 t.k t.r o.va l).toNat % 65536) →
    (t.gang = List.range 8 → (∀ n < 8, (t.r.slice n).stack = []) →
      ∃ (u : State) (k' : Crew) (from_ : Nat → Nat), exec (.reord o) s = .next u ∧ u.crew? t.c = some k' ∧ (u.block? b).map (·.gather) = some none ∧
        (∀ m < 32, from_ m < 32) ∧
        (∀ m n, m < n → n < 32 → key (from_ m) < key (from_ n) ∨ key (from_ m) = key (from_ n) ∧ from_ m < from_ n) ∧
        k' = { t.k with runs := k'.runs, hrun := k'.hrun, out := k'.out } ∧
        (∀ l n, l < 32 → n < 512 → n ≠ o.vd.toNat → n / 8 ∈ maskList 32 o.groups.toNat →
          ∃ e ∈ k'.out, e.owner = .slice (l / 4) ∧ e.dest = .vreg (32 * n + l) ∧ e.val = some (t.k.vread (from_ l) n).toNat) ∧
        (∀ l < 32, ∃ e ∈ k'.out, e.owner = .slice (l / 4) ∧ e.dest = .vreg (32 * o.vd.toNat + l) ∧ e.val = some (32 * j + from_ l))) ∧
    ((t.gang ≠ List.range 8 ∨ ∃ n < 8, (t.r.slice n).stack ≠ []) → t.k.h = false → t.k.out = [] → t.k.trapping = none →
      ∃ u k', exec (.reord o) s = .next u ∧ u.crew? t.c = some k' ∧ k'.h = true ∧ k'.tr.tcause.toNat % 256 = 0x1B)) ∧
  (∀ (s : State) (b j : Nat) (t : LaneTurn) (o : LReord) (x : Block) (g : Gather), GangAt s t → t.c = .blk b j → s.block? b = some x →
    x.gather = some g → Below t (regs32 o.vd o.va (.imm 0) ++ (maskList 32 o.groups.toNat).map (fun g => 8 * g)) →
    ((∃ a ∈ g.issued, a.crew = j) → exec (.reord o) s = .next (s.putCrew t.c (t.hold t.k))) ∧
    ((∀ a ∈ g.issued, a.crew ≠ j) → ∃ a : ReordArrival, a.crew = j ∧ a.groups = o.groups ∧ a.vd = o.vd ∧ a.va = o.va ∧ a.sw = o.sw ∧
      (a.whole = true ↔ t.gang.length = 8 ∧ ∀ i ∈ t.gang, (t.r.slice i).stack = []) ∧
      exec (.reord o) s = .next
        (((s.putCrew t.c (t.hold t.k)).putBlock b { x with gather := some { g with issued := g.issued ++ [a] } }).settleReord b))) ∧
  (∀ (s : State) (b : Nat) (x : Block) (g : Gather), s.block? b = some x → x.gather = some g → g.broken = false →
    (∃ j ∈ g.members, ∀ a ∈ g.issued, a.crew ≠ j) → s.settleReord b = s) ∧
  (∀ (s u : State) (b n : Nat) (x : Block) (g : Gather) (a : Nat → ReordArrival) (k : Nat → Crew) (r : Nat → Run) (key : Nat → Nat),
    s.block? b = some x → x.gather = some g → (g.broken = true ∨ ∀ j ∈ g.members, ∃ a ∈ g.issued, a.crew = j) →
    g.issued.Perm ((List.range n).map a) → (∀ p < n, (a p).crew < 16 ∧ ∀ q < p, (a q).crew < (a p).crew) →
    (∀ p < n, s.crew? (.blk b (a p).crew) = some (k p) ∧ (k p).runNow = some (r p)) →
    (∀ p < n, ∀ l < 32, key (32 * p + l) = (srcA32 (k p) (r p) (a p).va l).toNat % 65536) → u = s.settleReord b →
    (u.block? b).map (·.gather) = some none ∧
    (g.broken = false → (∀ p < n, (a p).whole = true ∧ (a p).groups = (a 0).groups) →
      ∃ src : Nat → Nat, (∀ m < 32 * n, src m < 32 * n) ∧
        (∀ i m, i < m → m < 32 * n → key (src i) < key (src m) ∨ key (src i) = key (src m) ∧ src i < src m) ∧
        (∀ d, (∀ p < n, d ≠ .blk b (a p).crew) → u.crew? d = s.crew? d) ∧
        ∀ p < n, ∃ k' r', u.crew? (.blk b (a p).crew) = some k' ∧ k' = { k p with runs := k'.runs, hrun := k'.hrun, out := k'.out } ∧
          k'.runNow = some r' ∧ (∀ i < 8, ((r p).slice i).live = true → (r'.slice i).pc = codeAdd ((r p).slice i).pc 12) ∧
          ∀ l < 32, ∀ e, e = src (32 * p + l) →
            (∃ w ∈ k'.out, w.owner = .slice (l / 4) ∧ w.dest = .vreg (32 * (a p).vd.toNat + l) ∧
              w.val = some (32 * (a (e / 32)).crew + e % 32)) ∧
            ∀ i < 512, i ≠ (a p).vd.toNat → i / 8 ∈ maskList 32 (a p).groups.toNat →
              ∃ w ∈ k'.out, w.owner = .slice (l / 4) ∧ w.dest = .vreg (32 * i + l) ∧
                w.val = some ((k (e / 32)).vread (e % 32) i).toNat) ∧
    ((g.broken = true ∨ ∃ p < n, (a p).whole = false ∨ (a p).groups ≠ (a 0).groups) →
      (∀ p < n, (k p).h = false ∧ (k p).out = [] ∧ (k p).trapping = none) →
      ∀ p < n, ∃ k', u.crew? (.blk b (a p).crew) = some k' ∧ k'.h = true ∧ k'.tr.tcause.toNat % 256 = 0x1B))

/-! ### Lane memory -/

/-- LD, PREF and FENCE: where every lane's checks pass and no page migrates, LD leaves one outstanding value for each lane that
reads without error (two registers for .64), zero-extended or sign-extended; the lanes of a slice whose bytes hold an uncorrectable
error leave no value but one deferred MEMERR, with the load's code address, the mask of those lanes and the lowest one's address; no
byte of memory changes; PREF and FENCE only go on (R256 to R258; log entry 6). -/
def Obligations.LaneLoads : Prop :=
  (∀ (s s1 : State) (t : LaneTurn) (o : LLd) (as : List LaneAcc), GangAt s t → Below t (vNamed (o.wd == .b64) o.vd ++ o.va.named true) →
    s.checkLanes t (lanesOn t o.g) .read o.wd.bytes (fun l => BitVec.ofInt 64 ((srcA64 t.k t.r o.va l).toInt + o.off.toInt)) = ⟨as, [], s1⟩ →
    (∀ a ∈ as, s.stalledLocs (s.seat t.c) a.locs = false) → (∀ a ∈ as, s.poisonedLocs a.locs = false) →
    ∃ k', exec (.ld o) s = .next (s1.putCrew t.c (t.next o.sw k')) ∧ as.map (·.lane) = maskList 32 (lanesOn t o.g).toNat ∧
      k' = { t.k with out := t.k.out ++ (as.map (fun a =>
        let v := ofBytes (s.readLocs t.c a.locs)
        let e (n x : Nat) : Pending := ⟨.slice (a.lane / 4), t.k.h, .vreg (32 * n + a.lane), some x, 0, 0⟩
        match o.wd with
        | .b64 => [e o.vd.toNat (v % 2 ^ 32), e (o.vd.toNat + 1) (v / 2 ^ 32 % 2 ^ 32)]
        | .b32 => [e o.vd.toNat (v % 2 ^ 32)]
        | .b16 => [e o.vd.toNat (if o.sx then ((BitVec.ofNat 16 v).signExtend 32).toNat else v % 2 ^ 32)]
        | .b8 => [e o.vd.toNat (if o.sx then ((BitVec.ofNat 8 v).signExtend 32).toNat else v % 2 ^ 32)])).flatten } ∧
      ∀ a, (s1.putCrew t.c (t.next o.sw k')).byte a = s.byte a) ∧
  (∀ (s s1 : State) (t : LaneTurn) (o : LLd) (as bad : List LaneAcc), GangAt s t →
    Below t (vNamed (o.wd == .b64) o.vd ++ o.va.named true) →
    s.checkLanes t (lanesOn t o.g) .read o.wd.bytes (fun l => BitVec.ofInt 64 ((srcA64 t.k t.r o.va l).toInt + o.off.toInt)) = ⟨as, [], s1⟩ →
    (∀ a ∈ as, s.stalledLocs (s.seat t.c) a.locs = false) → bad = as.filter (fun a => s.poisonedLocs a.locs) →
    ∃ k' r, exec (.ld o) s = .next (s1.putCrew t.c k') ∧ k'.runNow = some r ∧
      k' = { t.k with out := k'.out, runs := k'.runs, hrun := k'.hrun } ∧ (∀ a, (s1.putCrew t.c k').byte a = s.byte a) ∧
      (∃ new, k'.out = t.k.out ++ new ∧
        ∀ l < 32, (∃ e ∈ new, e.dest = .vreg (32 * o.vd.toNat + l)) ↔ ∃ a ∈ as, a.lane = l ∧ a ∉ bad) ∧
      ∀ j ∈ t.gang, (r.slice j).pc = codeAdd (t.r.slice j).pc 12 ∧ ∀ mine, mine = bad.filter (fun a => a.lane / 4 == j) →
        (mine = [] → (r.slice j).memerr = (t.r.slice j).memerr) ∧
        (∀ a rest, mine = a :: rest → ∃ e : MemErr, (r.slice j).memerr = (t.r.slice j).memerr ++ [e] ∧ e.inH = t.k.h ∧ e.ipc = t.pc ∧
          e.addr = a.va ∧ ∀ l < 32, e.mask.toNat.testBit l = true ↔ ∃ x ∈ mine, x.lane = l)) ∧
  (∀ (s : State) (t : LaneTurn) (o : LPref), GangAt s t → Below t (o.va.named true) → LaneGoes (.pref o) s t o.sw t.k) ∧
  (∀ (s : State) (t : LaneTurn) (o : LFence), GangAt s t → LaneGoes (.fence o) s t o.sw t.k)

/-- ST writes the low bytes of each lane's register at the lane's address: first the lanes that post no bell word, in lane order
where no two of them share a byte, and else in some order of their single-copy atomic units; then, with scope .sy, the lanes that
store to bell words, in lane order, each posting its word, once all of them have room. Every byte that no lane stores to (and
outside the error log) reads as before, and no register changes (R128, R129, R238, R240, R257; the order is log entry 12's, the wait
log entry 102's). -/
def Obligations.LaneStores : Prop :=
  ∀ (s s1 : State) (t : LaneTurn) (o : LSt) (as : List LaneAcc) (val : Nat → List Byte), GangAt s t →
    Below t (vNamed (o.wd == .b64) o.vb ++ o.va.named true) →
    s.checkLanes t (lanesOn t o.g) .write o.wd.bytes (fun l => BitVec.ofInt 64 ((srcA64 t.k t.r o.va l).toInt + o.off.toInt)) = ⟨as, [], s1⟩ →
    (∀ a ∈ as, s.stalledLocs (s.seat t.c) a.locs = false) →
    (∀ l, val l = bytesOf o.wd.bytes (if o.wd = .b64 then (t.k.vread64 l o.vb.toNat).toNat else (t.k.vread l o.vb.toNat).toNat)) →
    ∀ plain bells : List LaneAcc, bells = as.filter (fun a => decide (o.sc = .sy) && !(bellsOf a.locs).isEmpty) →
    plain = as.filter (fun a => !(decide (o.sc = .sy) && !(bellsOf a.locs).isEmpty)) →
    ∀ post : State → State, post = (fun u => bells.foldl (fun u a => (u.writeLocs t.c false a.locs (val a.lane)).postBells a.locs) u) →
    (bells ≠ [] → 256 < s.notify.waiting.length + bells.length → exec (.st o) s = .next s) ∧
    ((bells = [] ∨ s.notify.waiting.length + bells.length ≤ 256) → anyMeet plain = false →
      exec (.st o) s = .next (post (plain.foldl (fun u a => u.writeLocs t.c false a.locs (val a.lane))
        (s1.putCrew t.c (t.next o.sw t.k))))) ∧
    ((bells = [] ∨ s.notify.waiting.length + bells.length ≤ 256) → anyMeet plain = true →
      ∃ us : List StoreUnit, us.Perm ((plain.map (fun a => storeUnits o.wd.bytes a (val a.lane))).flatten) ∧
        exec (.st o) s = .next (post (us.foldl (fun u x => u.writeLocs t.c false x.1 x.2)
          { s1.putCrew t.c (t.next o.sw t.k) with draws := s.draws + 1 }))) ∧
    (∀ u, exec (.st o) s = .next u → (bells = [] ∨ s.notify.waiting.length + bells.length ≤ 256) →
      (∀ a, (∀ x ∈ as, ¬ Reaches x.locs a) → ¬ InLog s a → u.byte a = s.byte a) ∧
      (∀ d, d ≠ t.c → u.crew? d = s.crew? d) ∧ u.crew? t.c = some (t.next o.sw t.k))

/-- ATOM: the lanes of one address form a group, in the order of their lowest lanes, and act one after another within one
read-modify-write; each receives the value that the lanes before it left; for fadd, the lanes' values are summed first, in lane
order, each sum rounded, the location takes the old value plus the whole sum, and each lane but the first receives the old value
plus the sum of the lanes before it, with the flags of every rounding; the bytes that no lane reaches read as before; groups that
meet an uncorrectable error write nothing, while the others are performed, and MEMERR is taken in exactly their lanes, with the
address of the lowest of them (R261 to R265, R315). -/
def Obligations.LaneAtomics : Prop :=
  (∀ (s s1 : State) (t : LaneTurn) (o : LAtom) (as : List LaneAcc), GangAt s t →
    Below t (vNamed o.w64 o.vd ++ o.va.named true ++ vNamed o.w64 o.vb ++ (if o.op.hasC then vNamed o.w64 o.vc else [])) →
    s.checkLanes t (lanesOn t o.g) .atomic (if o.w64 then 8 else 4) (srcA64 t.k t.r o.va) = ⟨as, [], s1⟩ →
    (∀ a ∈ as, s.stalledLocs (s.seat t.c) a.locs = false) → (o.sc = .sy → s.notify.waiting.length + as.length ≤ 256) →
    ((∀ a ∈ as, s.poisonedLocs a.locs = false) → ∃ u k', exec (.atom o) s = .next u ∧
      u = ((groupAccs as).foldl (fun u g => u.atomGroup t o g) s1).modCrew t.c (t.next o.sw) ∧
      (∀ a, (∀ x ∈ as, ¬ Reaches x.locs a) → ¬ InLog s a → u.byte a = s.byte a) ∧ (∀ d, d ≠ t.c → u.crew? d = s.crew? d) ∧
      u.crew? t.c = some (t.next o.sw k') ∧ k' = { t.k with out := k'.out }) ∧
    ((∀ a ∈ as, s.poisonedLocs a.locs = true) → as ≠ [] → ∃ m va,
      exec (.atom o) s = .next (s1.laneTrap t cMEMERR m m va) ∧ m = lanesOn t o.g) ∧
    (∀ fails : List LaneAcc → Bool, fails = (fun g => g.any (fun a => s.poisonedLocs a.locs)) → (∃ g ∈ groupAccs as, fails g = true) →
      ∃ u m va, exec (.atom o) s = .next (u.laneTrap t cMEMERR m m va) ∧
        u = ((groupAccs as).filter (fun g => !fails g)).foldl (fun u g => u.atomGroup t o g) s1 ∧
        (∀ l < 32, m.toNat.testBit l = true ↔ ∃ g ∈ groupAccs as, fails g = true ∧ ∃ a ∈ g, a.lane = l) ∧
        (∃ l < 32, m.toNat.testBit l = true ∧ (∀ n < l, m.toNat.testBit n = false) ∧ va = srcA64 t.k t.r o.va l) ∧
        ∀ a, (∀ g ∈ groupAccs as, fails g = false → ∀ x ∈ g, ¬ Reaches x.locs a) → ¬ InLog s a → u.byte a = s.byte a)) ∧
  (∀ (s : State) (t : LaneTurn) (o : LAtom) (g : List LaneAcc) (a : LaneAcc) (rest : List LaneAcc), g = a :: rest → o.op ≠ .fadd →
    let w := if o.w64 then 64 else 32
    let old := ofBytes (s.readLocs t.c a.locs)
    let acc (n : Nat) : Nat := (g.take n).foldl (fun v x => (atomNew o.op w v (atomOps t o x.lane).1 (atomOps t o x.lane).2).1) old
    (s.groupRun t o g).1 = acc g.length ∧ (s.groupRun t o g).2.map (·.1) = (List.range g.length).map acc) ∧
  (∀ (s : State) (t : LaneTurn) (o : LAtom) (g : List LaneAcc) (a : LaneAcc) (rest : List LaneAcc) (old : Nat) (b sum : Nat → Nat),
    g = a :: rest → o.op = .fadd → old = ofBytes (s.readLocs t.c a.locs) → g.map (fun x => (atomOps t o x.lane).1) = (List.range g.length).map b →
    sum 0 = b 0 → (∀ n, sum (n + 1) = (addF32 (sum n) (b (n + 1))).code) →
    (s.groupRun t o g).1 = (addF32 old (sum rest.length)).code ∧
    (s.groupRun t o g).2.map (·.1) = old :: (List.range rest.length).map (fun n => (addF32 old (sum n)).code) ∧
    ∀ n : Nat, (∃ e ∈ (s.groupRun t o g).2, e.2.toNat.testBit n = true) ↔
      (addF32 old (sum rest.length)).flags.toNat.testBit n = true ∨
      ∃ i < rest.length, (addF32 old (sum i)).flags.toNat.testBit n = true ∨ (addF32 (sum i) (b (i + 1))).flags.toNat.testBit n = true) ∧
  (∀ (as : List LaneAcc), (∀ g ∈ groupAccs as, g ≠ [] ∧ ∀ x ∈ g, ∀ y ∈ g, x.va = y.va) ∧
    (groupAccs as).flatten.Perm as ∧ (groupAccs as).Pairwise (fun g h => ∀ x ∈ g, ∀ y ∈ h, x.va ≠ y.va))

/-- The frame of a lane instruction that goes on: nothing but its crew changes, and of the run only the slices of its gang, which
keep their lanes and mask stacks and stand at the next lane word (R74, R186). -/
def Obligations.LaneGoesFrame : Prop :=
  ∀ (s u : State) (t : LaneTurn) (i : Instr) (sw : Bool) (k' : Crew), GangAt s t → k' = { k' with h := t.k.h, runs := t.k.runs, hrun := t.k.hrun } →
    LaneGoes i s t sw k' → exec i s = .next u →
    OnlyCrew s u t.c ∧ ∃ k2 r, u.crew? t.c = some k2 ∧ k2 = { k' with runs := k2.runs, hrun := k2.hrun } ∧ k2.runNow = some r ∧
      r.consts = t.r.consts ∧ r.groups = t.r.groups ∧ r.mask = t.r.mask ∧ r.x = t.r.x ∧ r.ops = t.r.ops ∧
      ∀ j < 8, (j ∉ t.gang → r.slice j = t.r.slice j) ∧
        (j ∈ t.gang → r.slice j = { t.r.slice j with pc := codeAdd (t.r.slice j).pc 12, park := sw, wait := false })

/-! ### Copies, overlays and chunks -/

/-- The five copies at issue: the checks of R271 in their order, each with its precise trap and no effect, and a copy that passes
them engages its chunk set, when its own scratchpad is a target, and enters the MOS queue (R268, R269, R271, R274 to R277; the
alignment of TRED is log entry 43's reading). -/
def Obligations.CopyIssue : Prop :=
  ∀ (s : State) (b j : Nat) (k : Crew) (c : CrewRef) (i : Instr) (sw : Bool) (rd ra rb : BitVec 7) (va : W64) (vals : List W64),
    BlockAt s b j k → c = .blk b j → copyForm i = some (sw, rd, ra, rb) → va = s.sread c k ra → vals = copyVals s c k rd ra rb →
    (CopyWordBad i vals → Traps i s c cTCARG 0) ∧
    (¬ CopyWordBad i vals → va.toNat % 64 ≠ 0 → Traps i s c cTSRBAD 0) ∧
    (¬ CopyWordBad i vals → va.toNat % 64 = 0 →
      (∀ e s1, s.access c .read va 64 = (.error e, s1) → Traps i s c e va) ∧
      (∀ ls s1, s.access c .read va 64 = (.ok ls, s1) →
        (s.stalledLocs (s.seat c) ls = true → exec i s = .next (s.stallScalar c k.pc ls va)) ∧
        (s.stalledLocs (s.seat c) ls = false → s.poisonedLocs ls = true → Traps i s c cMEMERR va) ∧
        (s.stalledLocs (s.seat c) ls = false → s.poisonedLocs ls = false → ∀ bs t g, bs = s.readLocs c ls → t = Tsr.ofBytes bs →
          g = Geo.of vals t (s1.slotAt c t.slot).cont →
          (s1.tsrOk c t = false → Traps i s c cTSRBAD 0) ∧
          (s1.tsrOk c t = true → s1.pairingBad c i g = true → Traps i s c cTCARG 0) ∧
          (s1.tsrOk c t = true → s1.pairingBad c i g = false →
            ((∃ r ∈ copyRanges g, 512 * s1.scrchOf b < r.2) → Traps i s c cSPBOUND 0) ∧
            ((∀ r ∈ copyRanges g, r.2 ≤ 512 * s1.scrchOf b) →
              (2 ^ (s1.recOf c).csize ≤ g.rmask → Traps i s c cCLRANK 0) ∧
              (g.rmask < 2 ^ (s1.recOf c).csize → s1.ownTarget c g = true → s1.chunkBusy b g.chunks = true → Traps i s c cCHKOWN 0) ∧
              (g.rmask < 2 ^ (s1.recOf c).csize → (s1.ownTarget c g = true → s1.chunkBusy b g.chunks = false) →
                (s1.mosFull c = true → exec i s = .next s) ∧
                (s1.mosFull c = false → ∃ e, EntryOf s1 c k i vals e ∧ e.tsr = bs ∧ e.ctx = none ∧ e.wb = none ∧ e.gang = 0 ∧
                  (s1.ownTarget c g = true → e.sp = copyRanges g ∧ e.chunks = g.chunks.map (fun x => (b, x)) ∧
                    exec i s = .next (queued (s1.putChunks b g.chunks (.engaged e.uid)) c k sw none e)) ∧
                  (s1.ownTarget c g = false → e.sp = [] ∧ e.chunks = [] ∧ exec i s = .next (queued s1 c k sw none e)))))))))

/-- OVLOAD: an operand beyond 255 or 3, a number beyond the table, a null entry and an ill-formed header take OVLBAD; a resident
overlay gives 1 without a load; the reads of the entry and the header fault as the crew's own; and otherwise the load enters the
queue with rd outstanding (R55, R56, R97, R278). The precise MEMERR of a poisoned entry or header is log entry 45's choice. An
overlay that has arrived is resident, and rd is to receive 1, when CHECK matches; else the slot stays empty, the event is logged,
and rd is to receive 0 (R55, R56, R278). The cause OVLBAD of the logged mismatch is log entry 45's choice. -/
def Obligations.OverlayLoads : Prop :=
  (∀ (s : State) (c : CrewRef) (k : Crew) (o : OpDAB) (n slot : Nat) (ea : W64), ScalarAt s c k → n = (s.sread c k o.ra).toNat →
     slot = (s.sread c k o.rb).toNat → ea = (s.ovTable c).1 + BitVec.ofNat 64 (8 * n) →
     (255 < n ∨ 3 < slot → Traps (.ovload o) s c cOVLBAD 0) ∧
     (n ≤ 255 → slot ≤ 3 → s.resident c n = true → Delivers (.ovload o) s c k o.rd 1 0 o.sw) ∧
     (n ≤ 255 → slot ≤ 3 → s.resident c n = false → (s.ovTable c).2 ≤ n → Traps (.ovload o) s c cOVLBAD 0) ∧
     (n ≤ 255 → slot ≤ 3 → s.resident c n = false → n < (s.ovTable c).2 →
       (∀ e s1, s.issueRead c .read ea 8 = .bad e s1 → Traps (.ovload o) s c e (s.failAddr c .read ea 8 e)) ∧
       (∀ ls, s.issueRead c .read ea 8 = .stalls ls → exec (.ovload o) s = .next (s.stallScalar c k.pc ls ea)) ∧
       (∀ eb s1 va, s.issueRead c .read ea 8 = .got eb s1 → va = BitVec.ofNat 64 (ofBytes eb) →
         (va = 0 → Traps (.ovload o) s c cOVLBAD 0) ∧
         (va ≠ 0 →
           (∀ e s2, s1.issueRead c .execute va 32 = .bad e s2 → Traps (.ovload o) s c e (s1.failAddr c .execute va 32 e)) ∧
           (∀ ls, s1.issueRead c .execute va 32 = .stalls ls → exec (.ovload o) s = .next (s.stallScalar c k.pc ls va)) ∧
           (∀ hb s2, s1.issueRead c .execute va 32 = .got hb s2 →
             (ovHeadOk hb n = false → Traps (.ovload o) s c cOVLBAD 0) ∧
             (ovHeadOk hb n = true → s.mosFull c = true → exec (.ovload o) s = .next s) ∧
             (ovHeadOk hb n = true → s.mosFull c = false → s2.mosFull c = false →
               ∃ e, EntryOf s2 c k (.ovload o) [BitVec.ofNat 64 n, BitVec.ofNat 64 slot] e ∧ e.ovNum = n ∧ e.ovSlot = slot ∧
                 e.tsr = hb ++ bytesOf 8 va.toNat ∧ e.sp = [] ∧ e.chunks = [] ∧
                 exec (.ovload o) s = .next (queued s2 c k o.sw (some o.rd) e))))))) ∧
  (∀ (s : State) (st : StoreRef) (slot : Nat) (q : List MosEntry) (e : MosEntry) (o : OvSlot),
     q = (match st with | .core c => (s.core c).mos | .ctl d => (s.ctl d).load) →
     q.find? (fun x => (match x.instr with | .ovload _ => true | _ => false) && x.ovSlot == slot && x.fin) = some e →
     s.stopped e = false → o = listGet OvSlot.empty (s.slotsOf e.crew) slot → o.loading = some e.uid →
     ∀ ok : Prop, (ok ↔ crc32 (sparseRead 0 o.image 32 (ovSize e.tsr - 32)) = ovCheck e.tsr) →
     (ok → exec (.overlayArrived st slot) s =
       .next ((s.putSlot e.crew slot { o with resident := true, loading := none }).finishTile e 1)) ∧
     (¬ ok → exec (.overlayArrived st slot) s =
       .next (((s.putSlot e.crew slot .empty).log cOVLBAD (1 + s.dieOf e.crew) e.ipc.toNat e.ovAddr).finishTile e 0)))

/-- TWAIT and TGIVE: a named chunk past the allocation takes SPBOUND; TWAIT takes CHKFAIL for a failed chunk, with the failed copy's
code address, step and address in the fault record (of several, the lowest chunk's: log entry 93), and CHKIDLE for an idle one,
returns when all are held and waits otherwise; TGIVE makes the held and failed chunks that it names idle and leaves every other
chunk, register and byte (R269, R270). TSHAPE and GANG: the grant of R216's table, in the register and in the crew's grant, MXARG
for a request that the table does not take; the gang register, or MXARG for a word that R224 does not allow. -/
def Obligations.ChunksShapesAndGangs : Prop :=
  (∀ (s : State) (b j : Nat) (k : Crew) (o : OpAB) (x y : W64), BlockAt s b j k → x = s.sread (.blk b j) k o.ra →
     y = s.sread (.blk b j) k o.rb →
     ((∃ n, Named x y n ∧ s.scrchOf b ≤ n) → Traps (.tgive o) s (.blk b j) cSPBOUND 0 ∧
       (k.scalarErr = [] → Traps (.twait o) s (.blk b j) cSPBOUND 0)) ∧
     (k.scalarErr ≠ [] → Waits (.twait o) s (.blk b j)) ∧
     ((∀ n, Named x y n → n < s.scrchOf b) →
       (k.scalarErr = [] →
         (∀ n ipc st ad, Named x y n → s.chunkAt (.blk b j) n = .failed ipc st ad →
           (∀ m, Named x y m → m < n → (s.chunkAt (.blk b j) m).isFailed = false) →
           exec (.twait o) s = .next (s.takeTrap (.blk b j)
             ⟨BitVec.ofNat 64 cCHKFAIL, k.pc, 0, ad, BitVec.ofNat 64 (ipc.toNat + st * 2 ^ 32), 0, k.pc⟩)) ∧
         ((∀ n, Named x y n → (s.chunkAt (.blk b j) n).isFailed = false) → (∃ n, Named x y n ∧ s.chunkAt (.blk b j) n = .idle) →
           Traps (.twait o) s (.blk b j) cCHKIDLE 0) ∧
         ((∀ n, Named x y n → s.chunkAt (.blk b j) n = .held) → Changes (.twait o) s (.blk b j) k o.sw) ∧
         ((∀ n, Named x y n → s.chunkAt (.blk b j) n = .held ∨ ∃ u, s.chunkAt (.blk b j) n = .engaged u) →
           (∃ n u, Named x y n ∧ s.chunkAt (.blk b j) n = .engaged u) → Waits (.twait o) s (.blk b j))) ∧
       (∃ t, exec (.tgive o) s = .next t ∧ t.crew? (.blk b j) = some (k.next o.sw) ∧ (∀ d, d ≠ .blk b j → t.crew? d = s.crew? d) ∧
         (∀ a, t.byte a = s.byte a) ∧
         (∀ n u, s.chunkAt (.blk b j) n = .engaged u → t.chunkAt (.blk b j) n = .engaged u) ∧
         (∀ n, Named x y n → (∀ u, s.chunkAt (.blk b j) n ≠ .engaged u) → t.chunkAt (.blk b j) n = .idle) ∧
         (∀ n, ¬ Named x y n → t.chunkAt (.blk b j) n = s.chunkAt (.blk b j) n)))) ∧
  ((∀ (s : State) (b j : Nat) (k : Crew) (o : OpDA) (m n d : Nat), BlockAt s b j k →
     (s.sread (.blk b j) k o.ra).toNat = m + n * 2 ^ 16 + d * 2 ^ 32 → m < 2 ^ 16 → n < 2 ^ 16 → d < 2 ^ 16 →
     ((m = 0 ∨ n = 0 ∨ d = 0 ∨ 4096 < d) → Traps (.tshape o) s (.blk b j) cMXARG 0) ∧
     (m ≠ 0 → n ≠ 0 → d ≠ 0 → d ≤ 4096 → ∀ gm gn : Nat,
       (m ≤ 16 ∧ gm = 16 ∨ 16 < m ∧ m ≤ 32 ∧ gm = 32 ∨ 32 < m ∧ m ≤ 64 ∧ gm = 64 ∨ 64 < m ∧ gm = 128) →
       (n ≤ 16 ∧ gn = 16 ∨ 16 < n ∧ n ≤ 32 ∧ gn = 32 ∨ 32 < n ∧ n ≤ 64 ∧ gn = 64 ∨ 64 < n ∧ gn = 128) →
       ∃ g : W32, Changes (.tshape o) s (.blk b j) ({ k with grant := g }.pendS o.rd (g.setWidth 64) 0) o.sw ∧
         gM g = gm ∧ gN g = gn ∧ gK g = 16 * ((d + 15) / 16) ∧ g.toNat / 2 ^ 24 = 1)) ∧
   (∀ (s : State) (b j : Nat) (k : Crew) (o : OpDA), BlockAt s b j k → 2 ^ 48 ≤ (s.sread (.blk b j) k o.ra).toNat →
     Traps (.tshape o) s (.blk b j) cMXARG 0) ∧
   (∀ (s : State) (b j : Nat) (k : Crew) (o : OpA) (w : W64) (tag cnt home base : Nat), BlockAt s b j k →
     w = s.sread (.blk b j) k o.ra → w.toNat = tag + cnt * 2 ^ 8 + home * 2 ^ 11 + base * 2 ^ 12 → tag < 256 → cnt < 8 → home < 2 →
     ((128 ≤ base ∨ cnt = 1 ∨ cnt = 7 ∨ (cnt = 0 ∧ w ≠ 0)) → Traps (.gang o) s (.blk b j) cMXARG 0) ∧
     (base < 128 → (w = 0 ∨ 2 ≤ cnt ∧ cnt ≤ 6) →
       ∃ g : BitVec 19, Changes (.gang o) s (.blk b j) { k with gangw := g } o.sw ∧ gangTag g = tag ∧ gangCnt g = cnt ∧
         gangHome g = (home == 1) ∧ gangBase g = base)))

/-! ### The matrix engine at issue -/

/-- MMA, MXPOP and MDIST at issue: no grant, no held context, the words and the mode that the context will have, the slot, and the
scratchpad extents are checked in this order; what passes is accepted with the grant, the gang word and the context as they are
(R175, R212, R215, R217, R226 to R228). WLOAD.img and WLOAD.tile at issue: the offset, the address or tile word, the grant, the slot
and the source tile; a tile image that does not fit the buffer takes MXARG (R175, R220, R223). -/
def Obligations.ProductAndWeightIssue : Prop :=
  ((∀ (s : State) (b j : Nat) (k : Crew) (c : CrewRef) (o : OpABX) (a w : W64) (home : Prop) (t : Tile), BlockAt s b j k →
     c = .blk b j → a = s.sread c k o.ra → w = s.sread c k o.rb → (home ↔ gangCnt k.gangw = 0 ∨ gangHome k.gangw = true) →
     t = s.tileAt c (a.toNat % 2 ^ 20) (gM k.grant) (gK k.grant) o.x.toNat →
     InOrder (.mma o) s c
       [(k.grant = 0, cNOGRANT), (home ∧ k.ctx = none, cNOCTX),
        (a.toNat % 64 ≠ 0 ∨ 2 ^ 20 ≤ a.toNat ∨ w.toNat % 64 ≠ 0 ∨ bitsN w.toNat 31 21 ≠ 0 ∨
          (home ∧ ∃ x, k.ctx = some x ∧ (s.modeAhead c x).1 ≠ .none ∧ (s.modeAhead c x).1 ≠ .f), cMXARG),
        (s.slotOk c o.x.toNat = false ∨ t.f.kind = 1 ∨ t.f.kind = 4 ∨ t.f.scm = 2 ∨
          ((t.f.kind = 2 ∨ t.f.kind = 3 ∨ t.f.kind = 7) ∧ t.f.scm ≠ 0) ∨ (t.f.scm = 3 ∧ gK k.grant % t.f.blkLen ≠ 0), cILLFMT),
        (PastPad s b t.extent, cSPBOUND)]
       (Accepts (.mma o) s c k k o.sw none [a, w] (fun e => e.sp = [t.extent] ∧ e.gang = k.gangw ∧ e.tsr = [] ∧ e.chunks = [] ∧
         (home → e.ctx = k.ctx) ∧ (¬ home → e.ctx = none)))) ∧
   (∀ (s : State) (b j : Nat) (k : Crew) (c : CrewRef) (o : OpABX) (a w : W64) (t : Tile), BlockAt s b j k →
     c = .blk b j → a = s.sread c k o.ra → w = s.sread c k o.rb →
     t = s.tileAt c (a.toNat % 2 ^ 20) (gM k.grant) (gK k.grant) o.x.toNat →
     InOrder (.mxpop o) s c
       [(k.grant = 0, cNOGRANT), (k.ctx = none, cNOCTX),
        (a.toNat % 2 ^ 20 % 64 ≠ 0 ∨ 2 ^ 21 ≤ a.toNat ∨ w.toNat % 64 ≠ 0 ∨ bitsN w.toNat 31 21 ≠ 0 ∨
          (∃ x, k.ctx = some x ∧ (s.modeAhead c x).1 ≠ .none ∧ (s.modeAhead c x).1 ≠ .i), cMXARG),
        (s.slotOk c o.x.toNat = false ∨ t.f.kind ≠ 7, cILLFMT), (PastPad s b t.extent, cSPBOUND)]
       (Accepts (.mxpop o) s c k k o.sw none [a, w] (fun e => e.sp = [t.extent] ∧ e.gang = 0 ∧ e.tsr = [] ∧ e.chunks = [] ∧
         e.ctx = k.ctx))) ∧
   (∀ (s : State) (b j : Nat) (k : Crew) (c : CrewRef) (o : OpABX) (a w : W64) (n : Nat) (q t : Tile), BlockAt s b j k →
     c = .blk b j → a = s.sread c k o.ra → w = s.sread c k o.rb → n = bitsN a.toNat 26 21 →
     q = s.tileAt c (a.toNat % 2 ^ 20) (gM k.grant) (gK k.grant) o.x.toNat →
     t = s.tileAt c (w.toNat % 2 ^ 20) (gN k.grant) (gK k.grant) o.x.toNat →
     InOrder (.mdist o) s c
       [(k.grant = 0, cNOGRANT), (k.ctx = none, cNOCTX),
        (a.toNat % 64 ≠ 0 ∨ a.toNat.testBit 20 = true ∨ n = 0 ∨ 32 < n ∨ 2 ^ 27 ≤ a.toNat ∨ w.toNat % 64 ≠ 0 ∨
          bitsN w.toNat 31 20 ≠ 0 ∨
          (∃ x, k.ctx = some x ∧ (s.modeAhead c x).1 ≠ .none ∧ ¬ ((s.modeAhead c x).1 = .d ∧ (s.modeAhead c x).2 = n)), cMXARG),
        (s.slotOk c o.x.toNat = false ∨ (q.f.kind ≠ 2 ∧ q.f.kind ≠ 3) ∨ q.f.scm ≠ 0, cILLFMT),
        (PastPad s b q.extent ∨ PastPad s b t.extent, cSPBOUND)]
       (Accepts (.mdist o) s c k k o.sw none [a, w] (fun e => e.sp = [q.extent, t.extent] ∧ e.gang = 0 ∧ e.tsr = [] ∧
         e.chunks = [] ∧ e.ctx = k.ctx)))) ∧
  ((∀ (s : State) (b j : Nat) (k : Crew) (c : CrewRef) (o : OpAB) (a w : W64), BlockAt s b j k → c = .blk b j →
     a = s.sread c k o.ra → w = s.sread c k o.rb →
     InOrder (.wloadImg o) s c [(a.toNat % 64 ≠ 0 ∨ w.toNat % 64 ≠ 0 ∨ 2 ^ 21 ≤ w.toNat, cMXARG)]
       (Accepts (.wloadImg o) s c k k o.sw none [a, w] (fun e => e.sp = [] ∧ e.gang = 0 ∧ e.tsr = [] ∧ e.chunks = [] ∧
         e.ctx = none))) ∧
   (∀ (s : State) (b j : Nat) (k : Crew) (c : CrewRef) (o : OpAB) (a w : W64) (t : Tile) (x : ImgShape) (size : Nat), BlockAt s b j k →
     c = .blk b j → a = s.sread c k o.ra → w = s.sread c k o.rb → t = s.sourceTile c k.grant a.toNat →
     x = ⟨gK k.grant, gN k.grant, a.toNat.testBit 23, t.f.cont⟩ → size = imageSize x t.f t.f (x.data + 64 * x.nblk) →
     InOrder (.wloadTile o) s c
       [(k.grant = 0, cNOGRANT),
        (w.toNat % 64 ≠ 0 ∨ 2 ^ 21 ≤ w.toNat ∨ a.toNat % 2 ^ 20 % 64 ≠ 0 ∨ bitsN a.toNat 31 24 ≠ 0 ∨ t.f.scm ≠ 0 ∨
          2097152 < w.toNat + size, cMXARG),
        (s.slotOk c (bitsN a.toNat 22 20) = false, cILLFMT), (PastPad s b t.extent, cSPBOUND)]
       (Accepts (.wloadTile o) s c k k o.sw none [a, w] (fun e => e.sp = [t.extent] ∧ e.wb = some (w.toNat, w.toNat + size) ∧
         e.gang = 0 ∧ e.tsr = [] ∧ e.chunks = [] ∧ e.ctx = none))))

/-- MSMAX, MNORM, MMERGE, MDRAIN and MZERO at issue: a held context, its mode, the words and the extents are checked in this order;
MZERO.acq takes ctxa if it is free, else ctxb, else nothing, and behind the crew's own release the context which that will free;
MZERO.rel and MDRAIN with REL = 1 leave the crew without a context (R212, R213, R215, R218, R229 to R233; that MZERO.acq takes the
context when it issues is log entry 29's). -/
def Obligations.ContextIssue : Prop :=
  (∀ (s : State) (b j : Nat) (k : Crew) (c : CrewRef) (o : OpAB) (a r : W64) (w : Cols), BlockAt s b j k → c = .blk b j →
    a = s.sread c k o.ra → r = s.sread c k o.rb → w = Cols.ofNat a.toNat →
    InOrder (.msmax o) s c
      [(k.ctx = none, cNOCTX),
       (¬ ColsOk w ∨ ¬ ScaleOk w.sc ∨ 2 ^ 16 ≤ r.toNat ∨ 128 < bitsN r.toNat 7 0 + bitsN r.toNat 15 8 + 1 ∨
         (∃ x, k.ctx = some x ∧ (s.modeAhead c x).1 ≠ .f), cMXARG)]
      (Accepts (.msmax o) s c k k o.sw none [a, r] (fun e => e.ctx = k.ctx ∧ e.sp = [])) ∧
    InOrder (.mnorm o) s c
      [(k.ctx = none, cNOCTX),
       (w.c0 ≠ 0 ∨ w.ns ≠ 1 ∨ w.sc ≠ 0 ∨ w.no = 0 ∨ 128 < w.o0 + w.no ∨ 2 ^ 16 ≤ r.toNat ∨
         128 < bitsN r.toNat 7 0 + bitsN r.toNat 15 8 + 1 ∨ (∃ x, k.ctx = some x ∧ (s.modeAhead c x).1 ≠ .f), cMXARG)]
      (Accepts (.mnorm o) s c k k o.sw none [a, r] (fun e => e.ctx = k.ctx ∧ e.sp = [])) ∧
    ∀ ext, ext = (stateOff r.toNat, stateOff r.toNat + stateNr r.toNat * (64 * ceilDiv (8 + 4 * w.no) 64)) →
    InOrder (.mmerge o) s c
      [(k.ctx = none, cNOCTX),
       (w.c0 ≠ 0 ∨ w.ns ≠ 1 ∨ ¬ ScaleOk w.sc ∨ 128 < w.o0 + w.no ∨ r.toNat % 64 ≠ 0 ∨ 2 ^ 36 ≤ r.toNat ∨
         128 < stateRow r.toNat + stateNr r.toNat ∨ (∃ x, k.ctx = some x ∧ (s.modeAhead c x).1 ≠ .f), cMXARG),
       (PastPad s b ext, cSPBOUND)]
      (Accepts (.mmerge o) s c k k o.sw none [a, r] (fun e => e.ctx = k.ctx ∧ e.sp = [ext]))) ∧
  (∀ (s : State) (b j : Nat) (k : Crew) (c : CrewRef) (o : OpDABX) (a r : W64) (g : Region) (f : Slot), BlockAt s b j k →
    c = .blk b j → a = s.sread c k o.ra → r = s.sread c k o.rb → g = Region.ofNat r.toNat → f = s.slotAt c o.x.toNat →
    InOrder (.mdrain o) s c
      [(k.ctx = none, cNOCTX),
       (a.toNat % 64 ≠ 0 ∨ 2 ^ 20 ≤ a.toNat ∨ 2 ^ 34 ≤ r.toNat ∨ 128 < g.row0 + g.nr ∨ 128 < g.c0 + g.nc ∨
         (∃ x m, k.ctx = some x ∧ m = (s.modeAhead c x).1 ∧
           ((g.st = true ∧ ¬ (m = .f ∧ f.kind = 1)) ∨ (m = .d ∧ f.kind ≠ 1 ∧ f.kind ≠ 4))), cMXARG),
       (s.slotOk c o.x.toNat = false ∨ f.kind = 7 ∨ f.scm ≠ 0, cILLFMT), (PastPad s b (g.extent f a.toNat), cSPBOUND)]
      (Accepts (.mdrain o) s c k (if g.rel = true then { k with ctx := none } else k) o.sw (some o.rd) [a, r]
        (fun e => e.ctx = k.ctx ∧ e.sp = [g.extent f a.toNat]))) ∧
  (∀ (s : State) (b j : Nat) (k : Crew) (c : CrewRef) (o : OpD), BlockAt s b j k → c = .blk b j →
    InOrder (.mzeroClr o) s c [(k.ctx = none, cNOCTX)]
      (Accepts (.mzeroClr o) s c k k o.sw (some o.rd) [] (fun e => e.ctx = k.ctx ∧ e.sp = [])) ∧
    Accepts (.mzeroRel o) s c k { k with ctx := none } o.sw (some o.rd) [] (fun e => e.ctx = k.ctx ∧ e.sp = []) ∧
    (∀ free : Nat → Prop, (∀ n, free n ↔ ∃ y, (s.core (s.coreOf c)).ctxs[n]? = some y ∧ y.holder = none) →
      (s.mosFull c = true → exec (.mzeroAcq o) s = .next s) ∧
      (s.mosFull c = false →
        (∀ x, k.ctx = some x → ∃ e, EntryOf s c k (.mzeroAcq o) [] e ∧ e.ctx = some x ∧
          exec (.mzeroAcq o) s = .next (queued s c k o.sw (some o.rd) e)) ∧
        (∀ r, k.ctx = none → s.releasing c = some r → ∃ e, EntryOf s c k (.mzeroAcq o) [] e ∧ e.ctx = r.ctx ∧
          exec (.mzeroAcq o) s = .next (queued s c { k with ctx := r.ctx } o.sw (some o.rd) e)) ∧
        (k.ctx = none → s.releasing c = none → ∀ n, (n = 0 ∧ free 0 ∨ n = 1 ∧ ¬ free 0 ∧ free 1) →
          ∃ e, EntryOf s c k (.mzeroAcq o) [] e ∧ e.ctx = some n ∧
            exec (.mzeroAcq o) s = .next (queued (s.takeCtx c n) c { k with ctx := some n } o.sw (some o.rd) e)) ∧
        (k.ctx = none → s.releasing c = none → ¬ free 0 → ¬ free 1 → ∃ e, EntryOf s c k (.mzeroAcq o) [] e ∧ e.ctx = none ∧
          exec (.mzeroAcq o) s = .next (queued s c k o.sw (some o.rd) e)))))

/-! ### The macro-op sequencer -/

/-- MOS_STEP and GANG_TIMEOUT: a joint MMA that has not met its gang arrives at the latch, and its gang meets there; of the
instructions of one engine that have a step ready the oldest of the highest class does one step (whether another's data are there is
free, log entry 4); a step in progress is finished; nothing else moves. MZERO clears or releases its context and gives rd its
result, and a released context that an MZERO.acq of the crew waits for stays the crew's, or is changed for ctxa where that is free
(log entry 29); MNORM divides the output columns of the step's 16 rows by the row sums. A tag that stays short for 65,536 aclk holds
every waiting member with GANGTO (R114, R117, R225, R230, R233). The arrival at the latch as a step in issue order is log entry 68's
choice, the division into engines log entry 99's. The contents that steps leave in a context: a step of MMA adds its groups of
products, row by row of each member, each group rounded once; one of MXPOP adds counts; MDIST keeps the nearest candidates, with
their number and the k-th distance; MSMAX and MMERGE follow the formulas of R229 and R231; MDRAIN writes its rows of words (R183 to
R185, R212, R213, R225 to R229, R231, R232; of two zeros the maximum is +0, log entry 71). What WLOAD leaves in the weight buffer:
the first step of .tile and of .img makes the overlapping images invalid and marks their regions as filling, or waits; a step of the
body writes the bytes of its part, those of .tile from the source tile's rows and with zeros where R220 has no block data, those of
.img as they are read; the last one writes the header that .tile builds, or judges the modes, SIZE and CHECK of .img, and records
the image with its TAG, world and address space (R219 to R223). -/
def Obligations.SequencerSteps : Prop :=
  ((∀ (s : State) (core n : Nat) (e : MosEntry) (late : Prop), s.tileAtQ core n = some e →
     (late ↔ e.isJoint = true ∧ e.joint = none ∧ e.held = false ∧ s.tileMoves e = true) →
     (late → e.arrived = none → exec (.mosStep core n) s = .next (s.arriveAtLatch e)) ∧
     (late → e.arrived ≠ none → exec (.mosStep core n) s = .next (s.meet e)) ∧
     (¬ late → s.hasStep e = true → (e.part ≠ none ∨ s.arrayTurn e = true ∧ s.tileFirst e = true) →
       exec (.mosStep core n) s = .next ((s.noteArray e).tileStep e false)) ∧
     (¬ late → (s.hasStep e = false ∨ (e.part = none ∧ (s.arrayTurn e = false ∨ s.tileFirst e = false))) →
       exec (.mosStep core n) s = .next s)) ∧
   (∀ (s : State) (e : MosEntry), s.tileFirst e = true ↔ ∀ x ∈ s.mosOf e.crew, x.engine = e.engine → s.hasStep x = true →
     Config.freeReady s.draws (2 * x.uid + 1) = true → s.classOf e < s.classOf x ∨ s.classOf e = s.classOf x ∧ e.uid ≤ x.uid) ∧
   (∀ (s : State) (core n : Nat), s.tileAtQ core n = none → exec (.mosStep core n) s = .next s ∧
     exec (.gangTimeout core n) s = .next s) ∧
   (∀ (s : State) (core n b j ci : Nat) (e : MosEntry) (k : Crew), s.tileAtQ core n = some e → s.hasStep e = true → s.tileFirst e = true → e.isJoint = false →
     e.crew = .blk b j → s.crew? (.blk b j) = some k → e.ctx = some ci → ci < (s.core (s.coreOf (.blk b j))).ctxs.length →
     s.coreOf (.blk b j) < s.cores.length →
     (∀ o, (e.instr = .mzeroAcq o ∨ e.instr = .mzeroClr o) → ∃ t k', exec (.mosStep core n) s = .next t ∧
       t.ctxAt (.blk b j) ci = Ctx.clear (some (.blk b j)) ∧ (∀ x ∈ t.mosOf (.blk b j), x.uid ≠ e.uid) ∧
       t.crew? (.blk b j) = some k' ∧ k' = { k with out := k'.out } ∧
       k'.out = k.out.map (fun p => if p.tag = e.uid ∧ p.val = none then { p with val := some (ci + 1) } else p)) ∧
     (∀ o, ∀ waits : Prop, (waits ↔ ∃ x ∈ s.mosOf (.blk b j), x.crew = .blk b j ∧ e.uid < x.uid ∧ x.isAcq = true ∧ x.ctx = some ci) →
       e.instr = .mzeroRel o → ∃ t, exec (.mosStep core n) s = .next t ∧ (∀ x ∈ t.mosOf (.blk b j), x.uid ≠ e.uid) ∧
       (¬ waits → t.ctxAt (.blk b j) ci = { s.ctxAt (.blk b j) ci with holder := none }) ∧
       (waits → (ci ≠ 1 ∨ (s.ctxAt (.blk b j) 0).holder ≠ none) → t.ctxAt (.blk b j) ci = s.ctxAt (.blk b j) ci) ∧
       (waits → ci = 1 → (s.ctxAt (.blk b j) 0).holder = none →
         (t.ctxAt (.blk b j) 1).holder = none ∧ (t.ctxAt (.blk b j) 0).holder = some (.blk b j))) ∧
     (∀ o a r w row0 nr, e.instr = .mnorm o → e.vals = [a, r] → w = Cols.ofNat a.toNat → row0 = bitsN r.toNat 7 0 →
       nr = bitsN r.toNat 15 8 + 1 → w.o0 + w.no ≤ 128 → ∃ t, exec (.mosStep core n) s = .next t ∧
       ∀ i < 128, ∀ q < 128, (t.ctxAt (.blk b j) ci).at i q =
         if row0 + 16 * e.step ≤ i ∧ i < row0 + min nr (16 * e.step + 16) ∧ w.o0 ≤ q ∧ q < w.o0 + w.no then
           (rn2 Ex.div ((s.ctxAt (.blk b j) ci).at i q) ((s.ctxAt (.blk b j) ci).sumAt i)).1 % 2 ^ 32
         else (s.ctxAt (.blk b j) ci).at i q)) ∧
   (∀ i q h, (Ctx.clear h).at i q = 0 ∧ (Ctx.clear h).sumAt i = 0 ∧ (Ctx.clear h).maxAt i = 0xFF800000 ∧ (Ctx.clear h).mode = .none) ∧
   (∀ (s : State) (core n : Nat) (e a : MosEntry) (l : List MosEntry), s.tileAtQ core n = some e → e.isJoint = true →
     e.arrived ≠ none → e.joint = none → e.held = false → s.tagMembers e = a :: l →
     ((a :: l).length < gangCnt a.gang → a.since + 65536 ≤ s.cclk (s.dieOf e.crew) →
       exec (.gangTimeout core n) s = .next (s.holdAll (a :: l) cGANGTO 0)) ∧
     (gangCnt a.gang ≤ (a :: l).length ∨ s.cclk (s.dieOf e.crew) < a.since + 65536 → exec (.gangTimeout core n) s = .next s))) ∧
  ((∀ (s : State) (core n b j ci x : Nat) (e : MosEntry) (o : OpABX) (base : MosEntry → Nat) (y : Ctx), ContextTurn s core n b j ci e →
     e.instr = .mma o → x = o.x.toNat → y = s.ctxAt (.blk b j) ci → (∀ m, base m = if m.joint = none then 0 else gangBase m.gang) →
     (∀ cause, s.productImage e false x = .error cause →
       exec (.mosStep core n) s = .next ((s.noteArray e).holdAll (s.membersOf e) cause e.step)) ∧
     (∀ bo, s.productImage e false x = .ok bo → (∀ m ∈ s.membersOf e, base m + gM m.grant ≤ 128 ∧ gN m.grant ≤ 128) →
       (s.membersOf e).Pairwise (fun l m => base l + gM l.grant ≤ base m ∨ base m + gM m.grant ≤ base l) →
       ∃ t z, exec (.mosStep core n) s = .next t ∧ z = t.ctxAt (.blk b j) ci ∧ z.mode = (if e.step = 0 then .f else y.mode) ∧
         (∀ m ∈ s.membersOf e, ∀ i < gM m.grant, ∀ q < gN m.grant, z.at (base m + i) q =
           sumGroups (groupLen (s.productTile m x).f.cont) (16 * e.step) (y.at (base m + i) q) (fun k =>
             ((s.productTile m x).elem (s.spadOf m.crew.blockId) i k).1.mul (bo.elem (s.core (s.coreOf e.crew)).wbuf k q).1)) ∧
         (∀ i < 128, ∀ q < 128, (∀ m ∈ s.membersOf e, i < base m ∨ base m + gM m.grant ≤ i ∨ gN m.grant ≤ q) → z.at i q = y.at i q) ∧
         (∀ i, z.sumAt i = y.sumAt i ∧ z.maxAt i = y.maxAt i) ∧ (e.joint = none → SteppedOn s t e (gK e.grant / 16) 0))) ∧
   (∀ (s : State) (core n b j ci x : Nat) (e : MosEntry) (o : OpABX) (a : Tile) (bo : BOp) (y : Ctx), ContextTurn s core n b j ci e →
     e.instr = .mxpop o → x = o.x.toNat → y = s.ctxAt (.blk b j) ci → a = s.productTile e x →
     s.productImage e true x = .ok bo → gM e.grant ≤ 128 → gN e.grant ≤ 128 →
     ∃ t z, exec (.mosStep core n) s = .next t ∧ z = t.ctxAt (.blk b j) ci ∧ z.mode = .i ∧
       (∀ i < 128, ∀ q < 128, z.at i q = if i < gM e.grant ∧ q < gN e.grant then
         (y.at i q + ((List.range (min 512 (gK e.grant - 512 * e.step))).map (fun k =>
           let u := codeAt (s.spadOf b) (a.off + i * rowStride (gK e.grant) 1) (512 * e.step + k) 1
           let v := imageCode (s.core (s.coreOf e.crew)).wbuf bo.img.off bo.x bo.starts (512 * e.step + k) q
           if bitN (e.vals.headD 0).toNat 20 = true then u * v else (u + v) % 2)).sum) % 2 ^ 32
         else y.at i q) ∧
       (∀ i, z.sumAt i = y.sumAt i ∧ z.maxAt i = y.maxAt i) ∧ SteppedOn s t e (ceilDiv (gK e.grant) 512) 0) ∧
   (∀ (s : State) (core n b j ci x k : Nat) (e : MosEntry) (o : OpABX) (u v : W64) (a c : Tile) (y : Ctx),
     ContextTurn s core n b j ci e → e.instr = .mdist o → e.vals = [u, v] → x = o.x.toNat → y = s.ctxAt (.blk b j) ci →
     a = s.tileAt e.crew (u.toNat % 2 ^ 20) (gM e.grant) (gK e.grant) x → c = s.tileAt e.crew (v.toNat % 2 ^ 20) (gN e.grant) (gK e.grant) x →
     k = bitsN u.toNat 26 21 → 1 ≤ k → k ≤ 32 → gM e.grant ≤ 128 →
     ∃ t z, exec (.mosStep core n) s = .next t ∧ z = t.ctxAt (.blk b j) ci ∧ z.mode = .d ∧
       (∀ i < gM e.grant, ∀ l, (y.mode = .d → ListRow y k i l) → (y.mode ≠ .d → l = []) → ListRow z k i
         (((List.range (min 16 (gN e.grant - 16 * e.step))).map (fun q =>
           ((List.range (gK e.grant)).foldl (fun d m =>
             let df := (a.elem (s.spadOf b) i m).1.sub false (c.elem (s.spadOf b) (16 * e.step + q) m).1
             (rn32 ((val32 d).add false (df.mul df))).code) 0,
            (bitsN v.toNat 63 32 + 16 * e.step + q) % 2 ^ 32))).foldl (ranked k) l)) ∧
       (y.mode = .d → ∀ i < 128, gM e.grant ≤ i →
         z.sumAt i = y.sumAt i ∧ z.maxAt i = y.maxAt i ∧ ∀ q < 128, z.at i q = y.at i q) ∧
       SteppedOn s t e (ceilDiv (gN e.grant) 16) 0) ∧
   (∀ (s : State) (core n b j ci row0 nr : Nat) (e : MosEntry) (o : OpAB) (u v : W64) (w : Cols) (y : Ctx), ContextTurn s core n b j ci e →
     e.instr = .msmax o → e.vals = [u, v] → y = s.ctxAt (.blk b j) ci → w = Cols.ofNat u.toNat → row0 = bitsN v.toNat 7 0 →
     nr = bitsN v.toNat 15 8 + 1 → ColsOk w → row0 + nr ≤ 128 →
     ∃ t z, exec (.mosStep core n) s = .next t ∧ z = t.ctxAt (.blk b j) ci ∧ z.mode = y.mode ∧
       (∀ i, row0 + 16 * e.step ≤ i → i < row0 + min nr (16 * e.step + 16) → ∀ mo mx mn a : Nat, mo = y.maxAt i →
         mx = (((colsFrom w.c0 w.ns).map (y.at i)).filter (fun c => !(val32 c).isNan)).foldl maxCode 0xFF800000 → mn = softMax mo mx →
         a = (if mn = 0xFF800000 then 0x3F800000 else if mo = 0xFF800000 then 0 else softExp w.sc mo mn) →
         (∀ q, w.c0 ≤ q → q < w.c0 + w.ns → z.at i q = (if mn = 0xFF800000 then 0 else softExp w.sc (y.at i q) mn) % 2 ^ 32) ∧
         (∀ q, w.o0 ≤ q → q < w.o0 + w.no → z.at i q = (rn2 Ex.mul (y.at i q) a).1 % 2 ^ 32) ∧
         (∀ q < 128, (q < w.c0 ∨ w.c0 + w.ns ≤ q) → (q < w.o0 ∨ w.o0 + w.no ≤ q) → z.at i q = y.at i q) ∧
         z.sumAt i = (colsFrom w.c0 w.ns).foldl (fun l q => (rn2 (Ex.add false) l (z.at i q)).1) (rn2 Ex.mul (y.sumAt i) a).1 % 2 ^ 32 ∧
         z.maxAt i = mn % 2 ^ 32) ∧
       (∀ i < 128, (i < row0 + 16 * e.step ∨ row0 + min nr (16 * e.step + 16) ≤ i) →
         z.sumAt i = y.sumAt i ∧ z.maxAt i = y.maxAt i ∧ ∀ q < 128, z.at i q = y.at i q) ∧
       SteppedOn s t e (ceilDiv nr 16) 0) ∧
   (∀ (s : State) (core n b j ci row0 nr : Nat) (e : MosEntry) (o : OpAB) (u v : W64) (w : Cols) (y : Ctx), ContextTurn s core n b j ci e →
     e.instr = .mmerge o → e.vals = [u, v] → y = s.ctxAt (.blk b j) ci → w = Cols.ofNat u.toNat → row0 = bitsN v.toNat 27 20 →
     nr = bitsN v.toNat 35 28 + 1 → w.o0 + w.no ≤ 128 → row0 + nr ≤ 128 →
     ∃ t z, exec (.mosStep core n) s = .next t ∧ z = t.ctxAt (.blk b j) ci ∧ z.mode = y.mode ∧
       (∀ i, 16 * e.step ≤ i → i < min nr (16 * e.step + 16) → ∀ (word : Nat → Nat) (m1 m2 m a1 a2 : Nat),
         (∀ q, word q = word32At (s.spadOf b) (bitsN v.toNat 19 0 + i * (64 * ceilDiv (8 + 4 * w.no) 64) + 4 * q)) →
         m1 = y.maxAt (row0 + i) → m2 = word 0 → m = softMax m1 m2 →
         a1 = (if m1 = 0xFF800000 then (if m = 0xFF800000 then 0x3F800000 else 0) else softExp w.sc m1 m) →
         a2 = (if m2 = 0xFF800000 then (if m = 0xFF800000 then 0x3F800000 else 0) else softExp w.sc m2 m) →
         z.sumAt (row0 + i) = (rn32 (((val32 (y.sumAt (row0 + i))).mul (val32 a1)).add false ((val32 (word 1)).mul (val32 a2)))).code % 2 ^ 32 ∧
         (∀ q < w.no, z.at (row0 + i) (w.o0 + q) =
           (rn32 (((val32 (y.at (row0 + i) (w.o0 + q))).mul (val32 a1)).add false ((val32 (word (2 + q))).mul (val32 a2)))).code % 2 ^ 32) ∧
         (∀ q < 128, (q < w.o0 ∨ w.o0 + w.no ≤ q) → z.at (row0 + i) q = y.at (row0 + i) q) ∧ z.maxAt (row0 + i) = m % 2 ^ 32) ∧
       (∀ i < 128, (i < row0 + 16 * e.step ∨ row0 + min nr (16 * e.step + 16) ≤ i) →
         z.sumAt i = y.sumAt i ∧ z.maxAt i = y.maxAt i ∧ ∀ q < 128, z.at i q = y.at i q) ∧
       SteppedOn s t e (ceilDiv nr 16) 0) ∧
   (∀ (s : State) (core n b j ci off : Nat) (e : MosEntry) (o : OpDABX) (u v : W64) (r : Region) (f : Slot) (y : Ctx) (word : Nat → Nat)
     (k : Block), ContextTurn s core n b j ci e → e.instr = .mdrain o → e.vals = [u, v] → y = s.ctxAt (.blk b j) ci → off = u.toNat →
     r = Region.ofNat v.toNat → f = s.slotAt e.crew o.x.toNat → s.block? b = some k →
     (∀ c, word c = if y.mode = .d ∨ (y.mode = .i ∧ f.kind = 4) ∨ (y.mode ≠ .d ∧ y.mode ≠ .i ∧ f.kind = 1) then c
       else if y.mode = .i then (roundTo f.fmt f.rm f.osat (Ex.ofInt (sextI 32 c))).code
       else (roundTo f.fmt f.rm f.osat (val32 c)).code) →
     ∃ t, exec (.mosStep core n) s = .next t ∧
       (∀ q, 16 * e.step ≤ q → q < min r.nr (16 * e.step + 16) → ∀ bs : List Byte,
         bs = (if r.st = true then packCodes 32 (y.maxAt (r.row0 + q) :: y.sumAt (r.row0 + q) ::
                 (List.range r.nc).map (fun c => word (y.at (r.row0 + q) (r.c0 + c))))
               else packCodes f.cont ((List.range r.nc).map (fun c => word (y.at (r.row0 + q) (r.c0 + c))))) →
         sparseRead 0 (t.spadOf b) (off + q * r.stride f) (r.stride f) = bs ++ List.replicate (r.stride f - bs.length) 0) ∧
       (∀ a, (a < off + 16 * e.step * r.stride f ∨ off + min r.nr (16 * e.step + 16) * r.stride f ≤ a) →
         sparseGet 0 (t.spadOf b) a = sparseGet 0 (s.spadOf b) a) ∧
       ((r.rel = false ∨ 16 * (e.step + 1) < r.nr) → t.ctxAt (.blk b j) ci = y) ∧
       (r.rel = true → r.nr ≤ 16 * (e.step + 1) →
         (∀ x ∈ s.mosOf (.blk b j), x.crew = .blk b j → e.uid < x.uid → x.isAcq = true → x.ctx ≠ some ci) →
         t.ctxAt (.blk b j) ci = { y with holder := none }) ∧
       (∀ waits : Prop, (waits ↔ ∃ x ∈ s.mosOf (.blk b j), x.crew = .blk b j ∧ e.uid < x.uid ∧ x.isAcq = true ∧ x.ctx = some ci) →
         ((r.rel = false ∨ 16 * (e.step + 1) < r.nr ∨ ¬ waits) →
           SteppedOn s t e (ceilDiv r.nr 16) (r.nr * (if r.st = true then r.nc + 2 else r.nc))) ∧
         (r.rel = true → r.nr ≤ 16 * (e.step + 1) → waits → (∀ x ∈ t.mosOf (.blk b j), x.uid ≠ e.uid) ∧
           ((ci ≠ 1 ∨ (s.ctxAt (.blk b j) 0).holder ≠ none) → t.ctxAt (.blk b j) ci = y))))) ∧
  ((∀ (s : State) (core n : Nat) (e : MosEntry) (o : OpAB) (u v : W64) (w off size body lo hi : Nat) (a : Tile) (x : ImgShape) (q : Core),
     StepTurn s core n e → (∃ b j, e.crew = .blk b j) → e.instr = .wloadTile o → e.vals = [u, v] → w = u.toNat → off = v.toNat →
     a = s.sourceTile e.crew e.grant w → (x, size) = tileImage e.grant w a.f → body = size - 64 → q = s.core (s.coreOf e.crew) →
     ∀ fills : Prop, (fills ↔ ∃ f ∈ q.filling, f.2.2 = e.uid) →
     (¬ fills → s.fillWaits e (off, off + size) = true → exec (.mosStep core n) s = .next s) ∧
     ((fills ∨ s.fillWaits e (off, off + size) = false) → lo = (if q.fills e = true then 4096 * (e.step - 1) else 0) →
       hi = min body (4096 * e.step) → ∃ t r, exec (.mosStep core n) s = .next t ∧ r = t.core (t.coreOf e.crew) ∧
       (e.step = 0 → r.wbuf = q.wbuf ∧ { e with started := true, step := 1 } ∈ t.mosOf e.crew) ∧
       (e.step ≠ 0 → ∀ p, (p < off ∨ off + 64 ≤ p) → sparseGet 0 r.wbuf p =
         if off + 64 + lo ≤ p ∧ p < off + 64 + hi then
           (if off + x.data ≤ p ∧ p < off + x.data + 64 * x.nblk then
             sparseGet 0 (s.spadOf e.crew.blockId) (a.off + (p - (off + x.data))) else 0)
         else sparseGet 0 q.wbuf p) ∧
       (∀ i, i ∈ r.images ↔ (i ∈ q.images ∧ (fills ∨ rangesMeet (i.off, i.off + i.size) (off, off + size) = false)) ∨
         (e.step ≠ 0 ∧ body ≤ hi ∧ i = ⟨off, size, BitVec.ofNat 32 (bitsN w 63 32), bitsN w 22 20, x.k, x.n, x.t,
           s.worldOf e.crew, s.asidOf e.crew⟩)) ∧
       ((e.step = 0 ∨ hi < body) → (∃ f ∈ r.filling, f.2.2 = e.uid)) ∧
       (e.step ≠ 0 → hi < body → { e with started := true, step := e.step + 1 } ∈ t.mosOf e.crew ∧
         ∀ p, off ≤ p → p < off + 64 → sparseGet 0 r.wbuf p = sparseGet 0 q.wbuf p) ∧
       (e.step ≠ 0 → body ≤ hi → (∀ f ∈ r.filling, f.2.2 ≠ e.uid) ∧ (∀ y ∈ t.mosOf e.crew, y.uid ≠ e.uid) ∧
         sparseRead 0 r.wbuf off 64 = bytesOf 64 (0xC7C05742 + 1 * 2 ^ 32 + bitsN w 22 20 * 2 ^ 40 + b2n (bitN w 23) * 2 ^ 43 +
           gK e.grant * 2 ^ 64 + gN e.grant * 2 ^ 80 + bitsN w 63 32 * 2 ^ 96 + size * 2 ^ 128 +
           crc32 (sparseRead 0 r.wbuf (off + 64) body) * 2 ^ 160)))) ∧
   (∀ (s : State) (core n : Nat) (e : MosEntry) (o : OpAB) (u v : W64) (off : Nat) (d s1 : State) (ls : List Loc) (h : WHead),
     StepTurn s core n e → (∃ b j, e.crew = .blk b j) → e.instr = .wloadImg o → e.vals = [u, v] → off = v.toNat → e.step = 0 → e.tsr = [] →
     d = s.walkBody e .read (u.toNat + 64) (u.toNat + (WHead.ofBytes []).size) → d.engAccess e.crew e.priv .read u.toNat 64 = (.ok ls, s1) →
     d.stalledLocs (d.seat e.crew) ls = false → d.heldLocs ls = false → d.poisonedLocs ls = false →
     h = WHead.ofBytes (d.readLocs e.crew ls) →
     ((h.ok = false ∨ 2097152 < off + h.size) → exec (.mosStep core n) s = .next (s1.wimgBad e)) ∧
     (∀ (s2 : State) (f : MosEntry), h.ok = true → off + h.size ≤ 2097152 →
       f = { e with tsr := d.readLocs e.crew ls, wb := some (off, off + h.size) } →
       s2 = s1.putCore (s1.coreOf e.crew) ((s1.core (s1.coreOf e.crew)).narrow e (off, off + h.size)) →
       (s2.fillWaits f (off, off + h.size) = true → exec (.mosStep core n) s = .next (s2.setTile f)) ∧
       (s2.fillWaits f (off, off + h.size) = false → 64 < h.size → ∃ t r, exec (.mosStep core n) s = .next t ∧
         r = t.core (t.coreOf e.crew) ∧ sparseRead 0 r.wbuf off (d.readLocs e.crew ls).length = d.readLocs e.crew ls ∧
         (∀ p, (p < off ∨ off + (d.readLocs e.crew ls).length ≤ p) → sparseGet 0 r.wbuf p = sparseGet 0 (s.core (s.coreOf e.crew)).wbuf p) ∧
         r.images = (s.core (s.coreOf e.crew)).images.filter (fun i => !rangesMeet (i.off, i.off + i.size) (off, off + h.size)) ∧
         (∃ y ∈ r.filling, y.2.2 = e.uid) ∧ { f with started := true, step := 1 } ∈ t.mosOf e.crew))) ∧
   (∀ (s : State) (core n : Nat) (e : MosEntry) (o : OpAB) (u v : W64) (off lo hi : Nat) (d s1 : State) (ls : List Loc) (h : WHead) (q : Core),
     StepTurn s core n e → (∃ b j, e.crew = .blk b j) → e.instr = .wloadImg o → e.vals = [u, v] → off = v.toNat → e.step ≠ 0 →
     h = WHead.ofBytes e.tsr → q = s.core (s.coreOf e.crew) → q.fills e = true → lo = 64 + 4096 * (e.step - 1) →
     hi = min h.size (64 + 4096 * e.step) → d = s.walkBody e .read (u.toNat + 64 + 4096 * e.step) (u.toNat + h.size) →
     d.engAccess e.crew e.priv .read (u.toNat + lo) (hi - lo) = (.ok ls, s1) → d.stalledLocs (d.seat e.crew) ls = false →
     d.heldLocs ls = false → d.poisonedLocs ls = false →
     ∃ t r, exec (.mosStep core n) s = .next t ∧ r = t.core (t.coreOf e.crew) ∧
       sparseRead 0 r.wbuf (off + lo) (d.readLocs e.crew ls).length = d.readLocs e.crew ls ∧
       (∀ p, (p < off + lo ∨ off + lo + (d.readLocs e.crew ls).length ≤ p) → sparseGet 0 r.wbuf p = sparseGet 0 q.wbuf p) ∧
       (hi < h.size → r.images = q.images ∧ { e with started := true, step := e.step + 1 } ∈ t.mosOf e.crew) ∧
       (h.size ≤ hi → ∀ (f : Slot) (x : ImgShape) (good : Prop), f = s.slotAt e.crew h.slot → x = ⟨h.k, h.n, h.t, f.cont⟩ →
         (good ↔ (∀ b < x.nblk, storedBytes (blockMode r.wbuf off b) x.c ≠ none) ∧
           imageSize x f (s.slotAt e.crew f.sslot) (listGet 0 (blockStarts r.wbuf off x) x.nblk - off) = h.size ∧
           crc32 (sparseRead 0 r.wbuf (off + 64) (h.size - 64)) = h.check) →
         (∀ y ∈ r.filling, y.2.2 ≠ e.uid) ∧
         (good → (∀ y ∈ t.mosOf e.crew, y.uid ≠ e.uid) ∧ r.images = q.images ++
           [⟨off, h.size, BitVec.ofNat 32 h.tag, h.slot, h.k, h.n, h.t, s.worldOf e.crew, s.asidOf e.crew⟩]) ∧
         (¬ good → r.images = q.images ∧
           { e with tsr := [], held := true, step := 0, met := none, arrived := none, joint := none } ∈ t.mosOf e.crew))))

/-- The end of a copy: COPY_COMPLETE turns the chunks that the copy still engages from engaged to held in one step and leaves every
other chunk; a copy abandoned at a fault is held for its crew's trap, replayed up to three times after an uncorrectable error and
then handed to the firmware, or over with its chunks failed after a transport error, before which a first step has taken an
overlay's slot and the chunks of the other targets; the slow path finishes it or fails it (R269, R273, R325). That an OVLOAD or a
WLOAD is replayed, ends or fails in the slow path as a copy does is log entry 45's choice. What a copy moves: where the bytes of a
step lie in memory, page by page for a paged record; a step of TLD or TGATH leaves in each target's tile the codes of the elements
inside, as they are read, and zeros for those outside, whole or in two parts of a free choice (log entry 42); one of TST or TSCAT
writes the codes of the elements inside, in their bits alone; one of TRED applies its operator once to each element inside that its
done map does not have (R251, R268, R271, R272, R274 to R277). -/
def Obligations.CopyEnds : Prop :=
  ((∀ (s : State) (core n : Nat) (e : MosEntry), s.tileAtQ core n = some e → e.fin = true → s.stopped e = false →
     (∀ o, e.instr ≠ .ovload o) → ∃ t, exec (.copyComplete core n) s = .next t ∧ (∀ x ∈ t.mosOf e.crew, x.uid ≠ e.uid) ∧
       ∀ b k, s.block? b = some k → ∃ k', t.block? b = some k' ∧ ∀ x, sparseGet .idle k'.chunks x =
         if (b, x) ∈ e.chunks ∧ sparseGet .idle k.chunks x = .engaged e.uid then .held else sparseGet .idle k.chunks x) ∧
   (∀ (s : State) (core n : Nat) (e : MosEntry), s.tileAtQ core n = some e → (e.fin = false ∨ s.stopped e = true) →
     exec (.copyComplete core n) s = .next s) ∧
   (∀ (s : State) (core n : Nat) (e e1 : MosEntry), s.tileAtQ core n = some e → e.moves = true → s.stopped e = false → e.held = false →
     e1 = { e with pins := [] } →
     (∀ c a, e.met = some (c, a) → c ≠ cMEMERR → (∀ o, e.instr ≠ .wloadImg o) →
       exec (.copyAbandon core n .met) s = .next ((s.unpinTile e).holdTile e1 c a 0)) ∧
     (∀ c a o, e.met = some (c, a) → c ≠ cMEMERR → e.instr = .wloadImg o →
       exec (.copyAbandon core n .met) s = .next ((s.unpinTile e).holdTile e1 c a e.step)) ∧
     (∀ a, e.met = some (cMEMERR, a) → e.replay < 3 → exec (.copyAbandon core n .readError) s =
       .next ((s.unpinTile e).setTile { e1 with
         step := 0, met := none, part := none, replay := e.replay + 1, tsr := if e.isWriter then [] else e.tsr })) ∧
     (∀ a, e.met = some (cMEMERR, a) → 3 ≤ e.replay → exec (.copyAbandon core n .readError) s =
       .next (((s.unpinTile e).setTile { e1 with met := none, slow := true }).log cMEMERR (1 + s.dieOf e.crew) e.ipc.toNat a.toNat)) ∧
     (e.met = none → (e.started = true ∨ s.hasStep e = true) → e.fin = false → s.stepOutside e = true →
       (e.started = true → s.beginStep e = some (s, e)) ∧
       (∀ o, e.started = false → e.instr = .ovload o → s.beginStep e = some (s.putSlot e.crew e.ovSlot
         ⟨some (s.ovTag e.crew e.ovNum), false, [], some e.uid⟩, e)) ∧
       (s.beginStep e = none → exec (.copyAbandon core n .transport) s = .next s) ∧
       (∀ u e2, s.beginStep e = some (u, e2) → exec (.copyAbandon core n .transport) s =
         .next (((u.unpinTile e2).failCopy { e2 with pins := [] }).log cXPORTERR (1 + u.dieOf e2.crew) e2.ipc.toNat 0)))) ∧
   (∀ (s : State) (core n : Nat) (e : MosEntry), s.tileAtQ core n = some e → s.firmwareRuns = true → e.slow = true → e.held = false →
     e.met = none → s.stopped e = false →
     exec (.slowPath core n true) s = .next ((State.slowRun e.uid e.crew (s.stepBound e) s).slowEnd e.uid e.crew) ∧
     ((∀ o, e.instr ≠ .wloadImg o) → exec (.slowPath core n false) s = .next (s.failCopy e)) ∧
     (∀ o, e.instr = .wloadImg o → exec (.slowPath core n false) s = .next (s.wimgBad { e with slow := false, replay := 0 })))) ∧
  ((∀ (g : Geo) (i1 q : Nat), g.rowByte i1 q = i1 * g.t.stride 1 + g.orig 2 * g.t.stride 2 + g.orig 3 * g.t.stride 3 +
     g.orig 4 * g.t.stride 4 + (g.orig 0 + q) * g.c / 8) ∧
   (∀ (s : State) (e : MosEntry) (g : Geo) (x : Span) (kind : AccKind) (m : Nat), m = ceilDiv (x.nin * g.c) 8 →
     (m = 0 → s.reachSpan e g x kind false = .got [] none s e.pins) ∧
     (∀ ls f u, m ≠ 0 → g.t.kind ≠ 1 → s.engReach e.crew e.priv kind (g.t.base + g.rowByte x.i1 x.e0) m = ((ls, f), u) →
       s.stalledLocs (s.seat e.crew) ls = false → s.heldLocs ls = false → s.reachSpan e g x kind false = .got ls f u e.pins) ∧
     (∀ u pa p a tpp, m ≠ 0 → g.t.kind = 1 → tpp = (s.sctx g.t.ctx).tpp →
       s.pageHit e g (x.i1 / tpp) (kind == .read) false = .at u pa p → a = pa + g.rowByte (x.i1 % tpp) x.e0 →
       u.physCheck e.crew a m = none → s.stalledPa (s.seat e.crew) a m = false → s.reachSpan e g x kind false =
         .got [.phys ⟨a, m, s.worldOf e.crew⟩] none u (if kind = .read then [(g.t.ctx, p)] else e.pins))) ∧
   (∀ (s : State) (core n : Nat) (e e1 : MosEntry) (g : Geo) (x : Span) (a b : Nat × State) (w u : State), StepTurn s core n e →
     (copyForm e.instr).isSome = true → g = s.geo e → a = s.draw → b = a.2.draw → w = b.2.walkAhead e g b.1 →
     w.beginStep e = some (u, e1) → x = g.span (u.spadOf e1.crew.blockId) e1.step →
     (∀ ls pins s1 bs, copyKind e1.instr = .read → e1.part = none → u.stalledLocs (u.seat e1.crew) (u.tileLocs e1 g x) = false →
       u.reachSpan e1 g x .read false = .got ls none s1 pins → s1.poisonedLocs ls = false → (∀ cl r o m,
         .ended cl r o m ∈ s1.targets e1.crew g (g.spanOff x) m → s1.cluster? cl ≠ none) →
       bs = bytesOf (s1.readLocs e1.crew ls).length (ofBytes (s1.readLocs e1.crew ls) % 2 ^ (x.nin * g.c)) ++
         List.replicate (ceilDiv ((x.e1 - x.e0) * g.c) 8 - (s1.readLocs e1.crew ls).length) 0 →
       ∃ v : State, v.mem = s1.mem ∧
         (∀ l ∈ s1.targets e1.crew g (g.spanOff x) bs.length, ∀ i < bs.length, listGet 0 (v.readLoc e1.crew l) i =
           if a.1 % 2 = 0 ∨ (a.1 / 2).testBit i = true then listGet 0 bs i else listGet 0 (s1.readLoc e1.crew l) i) ∧
         (∀ blk, (∀ l ∈ s1.targets e1.crew g (g.spanOff x) bs.length, ∀ o m, l ≠ .spad blk o m) → v.spadOf blk = s1.spadOf blk) ∧
         (∀ blk q, (q < g.spanOff x ∨ g.spanOff x + bs.length ≤ q) → sparseGet 0 (v.spadOf blk) q = sparseGet 0 (s1.spadOf blk) q) ∧
         (a.1 % 2 = 0 → exec (.mosStep core n) s = .next (v.copyNext { e1 with pins := pins } g none)) ∧
         (a.1 % 2 ≠ 0 → exec (.mosStep core n) s =
           .next (v.setTile { e1 with pins := pins, started := true, part := some (bs, none, a.1 / 2) }))) ∧
     (∀ bs f mask, copyKind e1.instr = .read → e1.part = some (bs, f, mask) → u.stalledLocs (u.seat e1.crew) (u.tileLocs e1 g x) = false →
       (∀ cl r o m, .ended cl r o m ∈ u.targets e1.crew g (g.spanOff x) m → u.cluster? cl ≠ none) →
       ∃ v : State, v.mem = u.mem ∧ (∀ l ∈ u.targets e1.crew g (g.spanOff x) bs.length, ∀ i < bs.length,
           listGet 0 (v.readLoc e1.crew l) i = if mask.testBit i = true then listGet 0 (u.readLoc e1.crew l) i else listGet 0 bs i) ∧
         exec (.mosStep core n) s = .next (v.copyNext e1 g f)) ∧
     (copyKind e1.instr ≠ .read → e1.part = none → a.1 % 2 ≠ 0 → exec (.mosStep core n) s = .next (u.setTile
       { e1 with started := true, part := some (sparseRead 0 (u.spadOf e1.crew.blockId) (g.spanOff x) (g.spanIn x), none, a.1 / 2) })) ∧
     (∀ ls bad pins s1 old bs, copyKind e1.instr = .write → (e1.part ≠ none ∨ a.1 % 2 = 0) →
       u.reachSpan e1 g x .write false = .got ls bad s1 pins → old = s1.readLocs e1.crew ls → bs.length = (ls.map Loc.len).sum →
       (∀ i < 8 * bs.length, (ofBytes bs).testBit i =
         if i < x.nin * g.c then (ofBytes (u.tileBytes e1 g x)).testBit i else (ofBytes old).testBit i) →
       exec (.mosStep core n) s = .next ((s1.writeLocs e1.crew false ls bs).copyNext { e1 with pins := pins } g bad)) ∧
     (∀ o ls pins s1 isF, e1.instr = .tred o → (e1.part ≠ none ∨ a.1 % 2 = 0) → u.reachSpan e1 g x .atomic false = .got ls none s1 pins →
       isF = ((s1.slotAt e1.crew g.t.slot).kind == 1) →
       ∀ (place : Nat → Nat) (sec : Nat → Bool), (∀ i < x.nin, subLoc ls (4 * i) 4 = some (.phys ⟨place i, 4, sec i⟩) ∧
         isDev (place i) = false ∧ s1.poisonedRange (place i) 4 = false) →
       (∀ i < x.nin, ∀ m < i, place i + 4 ≤ place m ∨ place m + 4 ≤ place i) →
       ∃ (v : State) (d : Sparse Bool), exec (.mosStep core n) s = .next (v.copyNext { e1 with pins := pins, done := d } g none) ∧
         (∀ i < x.nin, sparseGet false d (x.r * g.len + x.e0 + i) = true ∧ sparseRead unlistedByte v.mem (place i) 4 =
           if sparseGet false e1.done (x.r * g.len + x.e0 + i) = true then sparseRead unlistedByte s1.mem (place i) 4
           else bytesOf 4 (redNew o.op isF (ofBytes (sparseRead unlistedByte s1.mem (place i) 4))
             (ofBytes (((u.tileBytes e1 g x).drop (4 * i)).take 4)))) ∧
         (∀ q, (∀ i < x.nin, q < place i ∨ place i + 4 ≤ q) → v.byte q = s1.byte q) ∧
         (∀ q, (q < x.r * g.len + x.e0 ∨ x.r * g.len + x.e0 + x.nin ≤ q) → sparseGet false d q = sparseGet false e1.done q))) ∧
   (∀ isF m t, redNew .add isF m t = (m + t) % 2 ^ 32 ∧ redNew .fadd isF m t = (addF32 m t).code ∧ redNew .and isF m t = m &&& t ∧
     redNew .or isF m t = m ||| t ∧ redNew .min true m t = minmax fmtF32 false m t ∧ redNew .max true m t = minmax fmtF32 true m t ∧
     redNew .min false m t = (if (BitVec.ofNat 32 m).toInt < (BitVec.ofNat 32 t).toInt then m else t) ∧
     redNew .max false m t = (if (BitVec.ofNat 32 m).toInt < (BitVec.ofNat 32 t).toInt then t else m)) ∧
   (∀ (s : State) (e : MosEntry) (g : Geo), (∀ f, s.copyNext e g (some f) =
       s.setTile { e with started := true, met := some f, addr := f.2, part := none }) ∧
     (e.pins = [] → (e.step + 1 < g.steps → s.copyNext e g none = s.setTile { e with started := true, part := none, step := e.step + 1 }) ∧
       (g.steps ≤ e.step + 1 → s.copyNext e g none = s.setTile { e with started := true, part := none, fin := true }))))

/-! ### Results and faults that arrive later -/

/-- Deliveries and deferred faults: an outstanding value reaches its destination, s80 to s95 in the bank of the mode that issued the
instruction, and its flags, or the destination begins to show it, or to show the value from before again, as a free choice says
(R48; log entry 110); one without a value stays; a MEMERR is taken at a park, a blocking instruction or a save, and a fault of a
tile instruction or a copy at the scalar thread's boundary, each with the faulting instruction's address in FINFO (R46, R187, R256,
R273, R313, R315, R352). That a fault of a copy is taken of a thread that waits in any instruction is log entry 69's. A word that
decodes to nothing takes ILLINS, and a fetch that fails takes OVLMISS or BADTGT: of the scalar thread precisely, and of a gang with
every lane of its slices as faulters and the enabled lanes to re-execute, under the guard of the word that is fetched then (R49,
R51, R52, R53, R56, R315; the guard is log entry 51's). A waiting instruction has been fetched before, and takes no OVLMISS
(R56). -/
def Obligations.DeferredAndFetchFaults : Prop :=
  ((∀ (s : State) (c : CrewRef) (n : Nat) (k : Crew) (e : Pending), s.crew? c = some k → k.out[n]? = some e →
     (e.val = none → exec (.resultDelivery c n) s = .next s) ∧
     (∀ v, e.val = some v → s.draw.1 % 2 = 1 → k.trapping = none → ∃ k', exec (.resultDelivery c n) s = .next (s.draw.2.putCrew c k') ∧
       k'.out = k.out ∧ k'.flags = k.flags ∧
       ((∀ y ∈ k.shown, y.1 ≠ e) → k' = { k.putDest e v with shown := k.shown ++ [(e, k.destNow e)] }) ∧
       (∀ y, k.shown.find? (fun y => y.1 == e) = some y →
         (k.destNow e = v → k' = { k.putDest e y.2 with shown := k.shown.filter (fun y => y.1 != e) }) ∧
         (k.destNow e ≠ v → k' = { k with shown := k.shown.filter (fun y => y.1 != e) }))) ∧
     (∀ v, e.val = some v → s.draw.1 % 2 = 0 → k.trapping = none → ∃ k0 k', exec (.resultDelivery c n) s = .next (s.draw.2.putCrew c k') ∧
       k0 = { k with shown := k.shown.filter (fun y => y.1 != e) } ∧ k' = { k0.putDest e v with out := k'.out, flags := k'.flags } ∧
       k'.out = listDrop k.out n ∧ k'.flags = k.flags ||| e.flags ∧
       (∀ r, e.dest = .sreg r → 80 ≤ r → r < 96 → e.inH = true → k' = { k0 with out := k'.out, flags := k'.flags, bank := k'.bank } ∧
         sparseGet 0 k'.bank (r - 80) = BitVec.ofNat 64 v ∧ ∀ m, m ≠ r - 80 → sparseGet 0 k'.bank m = sparseGet 0 k.bank m) ∧
       (∀ r, e.dest = .sreg r → (r < 80 ∨ r < 96 ∧ e.inH = false) → k' = { k0 with out := k'.out, flags := k'.flags, s := k'.s } ∧
         sparseGet 0 k'.s r = BitVec.ofNat 64 v ∧ ∀ m, m ≠ r → sparseGet 0 k'.s m = sparseGet 0 k.s m) ∧
       (∀ key, e.dest = .vreg key → k' = { k0 with out := k'.out, flags := k'.flags, v := k'.v } ∧
         sparseGet 0 k'.v key = BitVec.ofNat 32 v ∧ ∀ m, m ≠ key → sparseGet 0 k'.v m = sparseGet 0 k.v m) ∧
       (∀ p l, e.dest = .pred p l → p < 16 → l < 32 → k' = { k0 with out := k'.out, flags := k'.flags, p := k'.p } ∧ k'.pread l p = (v != 0) ∧
         ∀ p' l', p' < 16 → l' < 32 → (p', l') ≠ (p, l) → k'.pread l' p' = k.pread l' p'))) ∧
   (∀ (s : State) (c : CrewRef) (k : Crew) (e : MemErr) (l : List MemErr), s.crew? c = some k → k.stopping = false →
     k.trapping = none → k.h = false → k.memerr = e :: l →
     ((k.parked = true ∨ k.blocked = true ∨ s.savingCrew c = true) →
       exec (.deferredMemerr c .scalar) s = .next ((s.putCrew c { k with memerr := l }).takeTrap c
         (trapRegs cMEMERR 0 0 false k.pc k.pc e.ipc 0 0 e.addr 0))) ∧
     (k.parked = false → k.blocked = false → s.savingCrew c = false → exec (.deferredMemerr c .scalar) s = .next s)) ∧
   (∀ (s : State) (c : CrewRef) (k : Crew) (f : TileFault) (m : MosEntry), s.crew? c = some k → k.stopping = false →
     k.trapping = none → k.h = false → k.deferred = [f] → (s.mosOf c).find? (fun x => x.uid == f.entry) = some m →
     ∀ t, t = (s.putCrew c { k with deferred := [] }).takeTrap c (trapRegs f.cause 0 0 false k.pc k.pc f.ipc 0 0 f.addr f.step) →
     (m.instr.isCopy = false → exec (.deferredTileFault c) s = .next t ∧ exec (.copyFaultTrap c) s = .next s) ∧
     (m.instr.isCopy = true → exec (.copyFaultTrap c) s = .next t ∧ exec (.deferredTileFault c) s = .next s))) ∧
  ((∀ (s : State) (c : CrewRef) (k : Crew), s.turn = .scalar c → s.crew? c = some k → k.wait = false →
     (∀ e, s.fetchScalar c k = .error e → Traps .instructionFetchFault s c e 0) ∧
     (∀ w, s.fetchScalar c k = .ok w → decodeScalar w = none → Traps .illegalInstruction s c cILLINS 0)) ∧
   (∀ (s : State) (c : CrewRef) (k : Crew) (w : W32), s.turn = .scalar c → s.crew? c = some k → k.wait = true → k.word = some (k.pc, w) →
     exec .instructionFetchFault s = .next s) ∧
   (∀ (s : State) (t : LaneTurn) (i : Nat), GangAt s t → s.turn = .gang t.c i → (t.r.slice i).wait = false →
     (∀ e, s.fetchLane t.c t.k (t.r.slice i).pc = .error e → exec .instructionFetchFault s =
       .next ((s.laneTrap t e t.all t.cur 0).modCrew t.c (fun k => { k with unread := true }))) ∧
     (∀ w, s.fetchLane t.c t.k (t.r.slice i).pc = .ok w → decodeLane w.1 w.2.1 w.2.2 = none → exec .illegalInstruction s =
       .next ((s.laneTrap t cILLINS t.all t.cur 0).modCrew t.c (fun k => { k with unread := true })))))

/-! ### Serving -/

/-- The page instructions in a bound context: a bad tier takes SRVARG, a bad page PGIDX, a full REF PGREFOV, an address that the
Foreman may not reach SRVCFG; PGALLOC takes the head of the free list and the lowest free frame, or answers all ones; PGREF adds one
to REF and PGDROP takes one away, which frees a page that nothing pins or migrates; PGFORK copies to a new page; PGMOVE starts a
migration, whose frames the page unit must reach, whose end delivers rd, answers at once when nothing moves, and waits while the
page is pinned or migrates (R134, R136, R150, R153, R156, R291). What SRVCFG comes before is log entry 90's, SRVCFG for frames that
the page unit may not reach is log entry 95's, that PGMOVE and PGFORK wait by being executed again is log entry 34's, and that a
page freed while it migrates stays until the end is log entry 28's. -/
def Obligations.PageInstructions : Prop :=
  (∀ (s : State) (x : Nat) (k : Crew) (c : CrewRef), ScalarAt s c k → c = .ctl x → (s.sctx x).frozen = false →
    (s.sctx x).bound ≠ none →
    (∀ (o : OpDA) (t : Nat), t = (s.sread c k o.ra).toNat →
      (2 < t → Traps (.pgalloc o) s c cSRVARG 0) ∧
      (t ≤ 2 → ((s.sctx x).freeHd = noPage ∨ (s.sctx x).fn t = 0) →
        exec (.pgalloc o) s = .next (s.serveDone c o.sw o.rd 0xFFFFFFFFFFFFFFFF)) ∧
      (t ≤ 2 → (s.sctx x).freeHd ≠ noPage → (s.sctx x).fn t ≠ 0 →
        Served (.pgalloc o) s c s x [s.descSpan x (s.sctx x).freeHd, s.mapSpan x t] (
          (s.freeFrame x t = none → exec (.pgalloc o) s = .next (s.serveDone c o.sw o.rd 0xFFFFFFFFFFFFFFFF)) ∧
          (s.freeFrame x t ≠ none → ∃ s1, s.allocPage x t = some ((s.sctx x).freeHd, s1) ∧
            exec (.pgalloc o) s = .next (s1.serveDone c o.sw o.rd (s.sctx x).freeHd))))) ∧
    (∀ (o : OpDA) (p : Nat) (d : Desc), p = (s.sread c k o.ra).toNat → d = s.desc x p →
      ((s.sctx x).npg ≤ p → Traps (.pgref o) s c cPGIDX 0 ∧ Traps (.pgdrop o) s c cPGIDX 0 ∧ Traps (.pgfork o) s c cPGIDX 0) ∧
      (p < (s.sctx x).npg →
        Served (.pgref o) s c s x [s.descSpan x p] (
          (s.pageOk x p = false → Traps (.pgref o) s c cPGIDX 0) ∧
          (s.pageOk x p = true → d.ref = 65535 → Traps (.pgref o) s c cPGREFOV 0) ∧
          (s.pageOk x p = true → d.ref ≠ 65535 → exec (.pgref o) s =
            .next ((s.putDesc x p { d with ref := d.ref + 1 }).serveDone c o.sw o.rd (d.ref + 1)))) ∧
        Served (.pgdrop o) s c s x [s.descSpan x p] (
          ((s.pageOk x p = false ∨ d.ref = 0) → Traps (.pgdrop o) s c cPGIDX 0) ∧
          (s.pageOk x p = true → d.ref ≠ 0 → Served (.pgdrop o) s c s x (s.dropSpans x p) (exec (.pgdrop o) s =
            .next (((s.putDesc x p { d with ref := d.ref - 1 }).settlePage x p).serveDone c o.sw o.rd (d.ref - 1))))) ∧
        Served (.pgfork o) s c s x [s.descSpan x p] (
          (s.pageOk x p = false → Traps (.pgfork o) s c cPGIDX 0) ∧
          (s.pageOk x p = true → s.pinPage x p = none → exec (.pgfork o) s = .next s) ∧
          (s.pageOk x p = true → s.pinPage x p ≠ none →
            Served (.pgfork o) s c s x ((s.pageAt x p, (s.sctx x).pb) :: s.allocSpans x d.tier) (
              (s.allocPage x d.tier = none → exec (.pgfork o) s = .next (s.serveDone c o.sw o.rd 0xFFFFFFFFFFFFFFFF)) ∧
              (∀ q s1, s.allocPage x d.tier = some (q, s1) → Served (.pgfork o) s c s x [(s1.pageAt x q, (s.sctx x).pb)]
                (exec (.pgfork o) s = .next ((s1.copyPage x p q).serveDone c o.sw o.rd q)))))))) ∧
    (∀ (o : OpDAB) (p t : Nat) (d : Desc), p = (s.sread c k o.ra).toNat → t = (s.sread c k o.rb).toNat → d = s.desc x p →
      ((s.sctx x).npg ≤ p → Traps (.pgmove o) s c cPGIDX 0) ∧
      (p < (s.sctx x).npg → Served (.pgmove o) s c s x [s.descSpan x p] (
        (s.pageOk x p = false → Traps (.pgmove o) s c cPGIDX 0) ∧
        (s.pageOk x p = true → 2 < t → Traps (.pgmove o) s c cSRVARG 0) ∧
        (s.pageOk x p = true → t ≤ 2 →
          (t = d.tier → exec (.pgmove o) s = .next (s.serveDone c o.sw o.rd t)) ∧
          (t ≠ d.tier → (d.state ≠ 1 ∨ d.pin ≠ 0 ∨ s.migrating x p = true) → exec (.pgmove o) s = .next s) ∧
          (t ≠ d.tier → d.state = 1 → d.pin = 0 → s.migrating x p = false →
            Served (.pgmove o) s c s x ((if (s.sctx x).fn t = 0 then [] else [s.mapSpan x t]) ++ s.moveSpans x p t) (
              (s.startMigration x p t s.nextUid = none → exec (.pgmove o) s = .next (s.serveDone c o.sw o.rd d.tier)) ∧
              (∀ s1, s.startMigration x p t s.nextUid = some s1 → exec (.pgmove o) s =
                .next (({ s1 with nextUid := s.nextUid + 1 } : State).modCrew c (fun k =>
                  (if o.rd.toNat < 96 then k.pend (.sreg o.rd.toNat) none 0 s.nextUid else k).next o.sw)))))))))) ∧
  (∀ (s : State) (x p : Nat) (d : Desc), d = s.desc x p →
    (d.ref = 0 → d.pin = 0 → d.state ≠ 0 → d.state ≠ 2 → s.settlePage x p = s.freePage x p) ∧
    ((d.pin ≠ 0 ∨ d.state = 2) → s.settlePage x p = s) ∧
    (d.ref ≠ 0 → d.state = 1 → s.migrating x p = false → s.pageSent x p = false → s.settlePage x p = s))

/-- SQADMIT, SQNEXT, SQRET and PGSEND: an unbound context binds the record that SQADMIT names, or takes SRVCFG; SRVBIND, SRVBUSY,
SRVARG, RQIDX, RQSTATE and SRVCFG stop what the rules forbid; what goes on admits from the intake, forms a phase from the decode and
prefill passes, retires a record, and hands one off (R134, R136, R139, R141 to R143, R145 to R147, R149, R166, R291). An SQNEXT that
waits for pins or a migration keeps how far it has come and goes on there (log entry 34); SQRET of a record that is being sent takes
effect at its end (log entry 47); SRVCFG of PGSEND for frames that the page unit may not reach is log entry 95's, and SRVARG for
bits [63:1] of word 2 of the descriptor log entry 107's; that ranges are checked before any effect is log entry 90's. -/
def Obligations.RequestInstructions : Prop :=
  ∀ (s : State) (x : Nat) (k : Crew) (c : CrewRef), ScalarAt s c k → c = .ctl x → (s.sctx x).frozen = false →
    (∀ (o : OpDAB) (a n : Nat), a = (s.sread c k o.ra).toNat → n = (s.sread c k o.rb).toNat →
      ∀ goOn : State → State, (∀ u, goOn u = ((((u.latchTail x).admitLoop x (2 ^ ((u.latchTail x).sctx x).log2in + 1) n 0).1
        ).retireStopping x).serveDone c o.sw o.rd ((u.latchTail x).admitLoop x (2 ^ ((u.latchTail x).sctx x).log2in + 1) n 0).2) →
      ((s.sctx x).bound = none →
        (a = 0 → exec (.sqadmit o) s = .next (s.serveDone c o.sw o.rd 0)) ∧
        (a ≠ 0 → s.bind x a = none → Traps (.sqadmit o) s c cSRVCFG 0) ∧
        (∀ s1, a ≠ 0 → s.bind x a = some s1 →
          Served (.sqadmit o) s c s1 x ((s1.latchTail x).admitSpans x n) (exec (.sqadmit o) s = .next (goOn s1)))) ∧
      (∀ b, (s.sctx x).bound = some b →
        (a = 0 → s.mayUnbind x = false → Traps (.sqadmit o) s c cSRVBUSY 0) ∧
        (a = 0 → s.mayUnbind x = true → exec (.sqadmit o) s =
          .next ((s.setSctx x { s.sctx x with
            bound := none, openPh := none, batch := [], stale := [], forming := none }).serveDone c o.sw o.rd 0)) ∧
        (a ≠ 0 → a ≠ b → Traps (.sqadmit o) s c cSRVBIND 0) ∧
        (a ≠ 0 → a = b → Served (.sqadmit o) s c s x ((s.latchTail x).admitSpans x n) (exec (.sqadmit o) s = .next (goOn s))))) ∧
    ((s.sctx x).bound = none → ∀ (o : OpDA) (p : OpDAB), Traps (.sqnext o) s c cSRVBIND 0 ∧ Traps (.sqret p) s c cSRVBIND 0 ∧
      Traps (.pgsend p) s c cSRVBIND 0 ∧ Traps (.pgalloc o) s c cSRVBIND 0 ∧ Traps (.pgref o) s c cSRVBIND 0 ∧
      Traps (.pgdrop o) s c cSRVBIND 0 ∧ Traps (.pgfork o) s c cSRVBIND 0 ∧ Traps (.pgmove p) s c cSRVBIND 0 ∧
      Traps (.sieveArm o) s c cSRVBIND 0 ∧ Traps (.sieveRead o) s c cSRVBIND 0 ∧ Traps (.sieveDisarm o) s c cSRVBIND 0 ∧
      Traps (.sampleDraw p) s c cSRVBIND 0 ∧ Traps (.sampleVfy p) s c cSRVBIND 0) ∧
    (∀ b, (s.sctx x).bound = some b →
      (∀ (o : OpDA) (t0 : Nat) (addrs : List Nat) (q : State), t0 = (s.word64 (s.sctx x).tmpl).toNat →
        addrs = (List.range (t0 % 32)).map (fun i => (s.word64 ((s.sctx x).tmpl + 8 + 8 * i)).toNat) →
        q = (if (s.heldSctx x).forming = none then s else s.setSctx x { s.heldSctx x with forming := none }) →
        ((s.sread c k o.ra).toNat ≠ b → Traps (.sqnext o) s c cSRVBIND 0) ∧
        ((s.sread c k o.ra).toNat = b → s.phaseOpen x = true → Traps (.sqnext o) s c cSRVBUSY 0) ∧
        ((s.sread c k o.ra).toNat = b → s.phaseOpen x = false → s.liveUnit .job (s.sctx x).job = none →
          exec (.sqnext o) s = .next (q.trapAt c cSRVARG 0)) ∧
        (∀ j, (s.sread c k o.ra).toNat = b → s.phaseOpen x = false → s.liveUnit .job (s.sctx x).job = some j → ∀ ok : Prop,
          (ok ↔ j.live = true ∧ j.closed = false ∧ j.world = s.ctxWorld x) →
          (¬ ok → exec (.sqnext o) s = .next (q.trapAt c cSRVARG 0)) ∧
          (ok → ServedFrom (.sqnext o) s q c q x [((s.sctx x).tmpl, 8)] (
            ((t0 = 0 ∨ 16 < t0) → exec (.sqnext o) s = .next (q.trapAt c cSRVARG 0)) ∧
            (t0 ≠ 0 → t0 ≤ 16 → ServedFrom (.sqnext o) s q c q x [((s.sctx x).tmpl, 8 + 8 * t0)] (
              ((∃ y ∈ addrs, y % 256 ≠ 0) → exec (.sqnext o) s = .next (q.trapAt c cSRVARG 0)) ∧
              ((∀ y ∈ addrs, y % 256 = 0) →
                ((s.freeUnits .phs = 0 ∨ s.freeUnits .gph = 0 ∨ s.freeUnits .lch < t0) →
                  exec (.sqnext o) s = .next (q.trapAt c cSRVBUSY 0)) ∧
                (s.freeUnits .phs ≠ 0 → s.freeUnits .gph ≠ 0 → t0 ≤ s.freeUnits .lch →
                  ServedFrom (.sqnext o) s q c q x (s.nextSpans x [] addrs) (
                    (∀ s1 f, s.formBatch x = .wait s1 f → ServedFrom (.sqnext o) s q c q x (s.newFrames s1)
                      (exec (.sqnext o) s = .next (s1.setForming x (some f)))) ∧
                    (s.formBatch x = .refused → exec (.sqnext o) s = .next (q.trapAt c cSRVCFG 0)) ∧
                    (∀ s3 bt t s4, s.formBatch x = .got s3 bt t → s4 = (bt.foldl State.enterBatch s3).setForming x none →
                      ServedFrom (.sqnext o) s q c q x (s.nextSpans x bt addrs ++ s.newFrames s3) (
                        (t = 0 → exec (.sqnext o) s = .next (s4.serveDone c o.sw o.rd 0)) ∧
                        (∀ n pid, t ≠ 0 →
                          n = (if ((s4.sctx x).phase + 1) % 2 ^ 30 = 0 then 1 else ((s4.sctx x).phase + 1) % 2 ^ 30) →
                          pid = 2 ^ 31 + x * 2 ^ 30 + n → exec (.sqnext o) s = .next
                            ((((s4.putSctx x { s4.sctx x with phase := n }).writePlan x bt (s4.groupsOf bt) pid t).openPhaseUnits
                              x pid (s4.groupsOf bt).length j.asid addrs (bt.map (·.i))).serveDone c o.sw o.rd
                                (t * 2 ^ 32 + pid))))))))))))) ∧
        (∀ (order : List Nat) (s2 : State), (s.sctx x).forming = none → order = (s.retireStopping x).serviceOrder x →
          s2 = (s.retireStopping x).restoreEvicted x order →
          (∀ u f, s2.decodePass x order order [] 0 = .wait u f → s.formBatch x = .wait u f) ∧
          (s2.decodePass x order order [] 0 = .refused → s.formBatch x = .refused) ∧
          (∀ s3 b1 t1, s2.decodePass x order order [] 0 = .got s3 b1 t1 → s.formBatch x = s3.prefillPass x order order b1 t1)) ∧
        (∀ (g f : Forming) (u : State) (go : Passed), (s.sctx x).forming = some g → f.evict = none →
          (∀ v, g.evict = some v → s.owns x v = true → (s.rState v = 2 ∨ s.rState v = 3) →
            (∀ s1 w, s.evict x v = .wait s1 w → s.formBatch x = .wait s1 { g with evict := some v }) ∧
            (s.evict x v = .refused → s.formBatch x = .refused) ∧
            (s.evict x v = .done u → f = { g with evict := none } → go = u.formPasses x f → s.formBatch x = go) ∧
            (s.evict x v = .noFrame u → f = { g with evict := none, left := g.left.drop 1 } → go = u.formPasses x f →
              s.formBatch x = go)) ∧
          ((∀ v, g.evict = some v → ¬ (s.owns x v = true ∧ (s.rState v = 2 ∨ s.rState v = 3))) → f = { g with evict := none } →
            go = s.formPasses x f → s.formBatch x = go) ∧
          (f.pre = true → u.formPasses x f = u.prefillPass x f.order f.left f.batch f.toks) ∧
          (f.pre = false → ∀ r, r = u.decodePass x f.order f.left f.batch f.toks →
            ((∀ s3 b1 t1, r ≠ .got s3 b1 t1) → u.formPasses x f = r) ∧
            (∀ s3 b1 t1, r = .got s3 b1 t1 → u.formPasses x f = s3.prefillPass x f.order f.order b1 t1)))) ∧
      (∀ (o : OpDAB) (i a : Nat), i = (s.sread c k o.ra).toNat → a = (s.sread c k o.rb).toNat →
        (s.owns x i = false → Traps (.sqret o) s c cRQIDX 0 ∧ Traps (.pgsend o) s c cRQIDX 0) ∧
        (s.owns x i = true → (s.rState i = 0 ∨ s.rState i = 5) → Traps (.sqret o) s c cRQSTATE 0) ∧
        (s.owns x i = true → s.rState i ≠ 0 → s.rState i ≠ 5 →
          ((a = 3 ∨ 4 < a) → Traps (.sqret o) s c cSRVARG 0) ∧
          (a ≤ 4 → a ≠ 3 → s.sending i = true →
            exec (.sqret o) s = .next ((s.endLater i a).serveDone c o.sw o.rd 0)) ∧
          (a ≤ 4 → a ≠ 3 → s.sending i = false → s.inPhase x i = true →
            exec (.sqret o) s = .next (((s.setRCause i a).setRState i 4).serveDone c o.sw o.rd 0)) ∧
          (a ≤ 4 → a ≠ 3 → s.sending i = false → s.inPhase x i = false →
            Served (.sqret o) s c s x (s.retireSpans x [i]) (exec (.sqret o) s =
              .next (((s.setRCause i a).retire x i).1.serveDone c o.sw o.rd ((s.setRCause i a).retire x i).2)))) ∧
        (s.owns x i = true → (s.rState i ≠ 3 ∨ s.inPhase x i = true) → Traps (.pgsend o) s c cRQSTATE 0) ∧
        (s.owns x i = true → s.rState i = 3 → s.inPhase x i = false → ∀ ok : Prop,
          (ok ↔ s.reaches (s.ctxWorld x) a 32 = true ∧ (s.word64 a).toNat < 8 ∧ (s.word64 (a + 16)).toNat < 2 ∧
            s.word64 (a + 24) = 0) →
          (¬ ok → Traps (.pgsend o) s c cSRVARG 0) ∧
          (ok → Served (.pgsend o) s c s x ((a, 32) :: (s.rBtab i, 4 * s.rBtlen i) :: (s.allPages i).map (s.descSpan x)) (
            ((∃ p ∈ s.usedPages x i, s.frameReach x (s.pageAt x p) = false) → Traps (.pgsend o) s c cSRVCFG 0) ∧
            ((∀ p ∈ s.usedPages x i, s.frameReach x (s.pageAt x p) = true) → ∃ t, exec (.pgsend o) s = .next t ∧ t.rState i = 4 ∧
              t.fore.sends = s.fore.sends ++ [⟨x, i, s.nextUid, (s.word64 a).toNat, (s.word64 (a + 8)).toNat, none⟩] ∧
              t.crew? c = some ((if o.rd.toNat < 96 then k.pend (.sreg o.rd.toNat) none 0 s.nextUid else k).next o.sw)))))))

/-- SIEVE and SAMPLE: an ill-formed window takes SRVARG, and one whose page migrates waits; arming answers 0 for an armed row or a
full unit and else starts with an empty bitmap, reading gives the result of a closed row and disarms it, disarming forgets it; a
draw answers a token from a well-formed shortlist without a change to the record, the first admissible one in the greedy case, and a
verify sets ACC and LEN (R157, R160, R162 to R164, R252, R291). The flags beside the answer of SIEVE.read are log entry 72's, that a
verify checks all its ranges before any effect is log entry 90's, and what becomes of a result that the world map refuses is log
entry 91's. -/
def Obligations.SamplingInstructions : Prop :=
  (∀ (s : State) (x : Nat) (k : Crew) (c : CrewRef), ScalarAt s c k → c = .ctl x → (s.sctx x).frozen = false →
    (s.sctx x).bound ≠ none →
    (∀ (o : OpDA), s.window? x (s.sread c k o.ra).toNat = none → Traps (.sieveArm o) s c cSRVARG 0 ∧
      Traps (.sieveRead o) s c cSRVARG 0 ∧ Traps (.sieveDisarm o) s c cSRVARG 0) ∧
    (∀ (o : OpDA) (w : Window), s.window? x (s.sread c k o.ra).toNat = some w →
      (s.stalledPa 0 (s.sread c k o.ra).toNat 32 = true → exec (.sieveArm o) s = .next s ∧ exec (.sieveRead o) s = .next s ∧
        exec (.sieveDisarm o) s = .next s) ∧
      (s.stalledPa 0 (s.sread c k o.ra).toNat 32 = false → ∀ stack : Nat → Nat, (∀ p, stack p = (p - 0x010000000000) / 0x001000000000) →
      (((∃ r ∈ s.fore.rows, r.row = w.row) ∨ 256 ≤ (s.fore.rows.filter (fun r => stack r.row == stack w.row)).length) →
        exec (.sieveArm o) s = .next (s.serveDone c o.sw o.rd 0)) ∧
      ((∀ r ∈ s.fore.rows, r.row ≠ w.row) → (s.fore.rows.filter (fun r => stack r.row == stack w.row)).length < 256 →
        ∃ r : GlazierRow, r.ctx = x ∧ r.row = w.row ∧ r.cnt = w.cnt ∧ r.req = w.req ∧ r.vals = [] ∧ r.seen = [] ∧ r.incl = [] ∧
          r.flags = 0 ∧ (r.coef.toNat, r.greedy) = ((coefOf (s.reqF w.req 7 63 32)).1 % 2 ^ 32, (coefOf (s.reqF w.req 7 63 32)).2) ∧
          exec (.sieveArm o) s = .next ((s.putRows (s.fore.rows ++ [r])).serveDone c o.sw o.rd 1)) ∧
      (exec (.sieveDisarm o) s = .next ((s.putRows (s.fore.rows.filter (fun y => !(y.ctx == x && y.row == w.row)))).serveDone
        c o.sw o.rd 0)) ∧
      (s.fore.rows.find? (fun r => r.ctx == x && r.row == w.row) = none → Traps (.sieveRead o) s c cSRVARG 0) ∧
      (∀ r, s.fore.rows.find? (fun r => r.ctx == x && r.row == w.row) = some r →
        (r.closed = false → exec (.sieveRead o) s = .next (s.serveDone c o.sw o.rd 0)) ∧
        (r.closed = true → s.stalledPa 0 w.res 528 = true → exec (.sieveRead o) s = .next s) ∧
        (r.closed = true → s.stalledPa 0 w.res 528 = false → exec (.sieveRead o) s =
          .next (((s.putRows (s.fore.rows.filter (fun y => !(y.ctx == x && y.row == w.row)))).unitWrite (s.ctxWorld x) w.res
            r.result).serveDone c o.sw o.rd (1 + r.flags * 2 ^ 8)))))) ∧
    (∀ (o : OpDAB) (i a : Nat), i = (s.sread c k o.rb).toNat → a = (s.sread c k o.ra).toNat →
      (s.owns x i = false → Traps (.sampleDraw o) s c cRQIDX 0 ∧ Traps (.sampleVfy o) s c cRQIDX 0) ∧
      (s.owns x i = true → s.rState i ≠ 3 → Traps (.sampleDraw o) s c cRQSTATE 0 ∧ Traps (.sampleVfy o) s c cRQSTATE 0) ∧
      (s.owns x i = true → s.rState i = 3 → ∀ ok : Prop,
        (ok ↔ a % 64 = 0 ∧ s.reaches (s.ctxWorld x) a 528 = true ∧ (s.readShort a).ok = true) →
        (¬ ok → Traps (.sampleDraw o) s c cSRVARG 0) ∧
        (ok → s.stalledPa 0 a 528 = true → exec (.sampleDraw o) s = .next s) ∧
        (ok → s.stalledPa 0 a 528 = false → exec (.sampleDraw o) s = .next (s.serveDone c o.sw o.rd (s.drawAt i (s.rLen i) (s.readShort a))))) ∧
      (s.owns x i = true → s.rState i = 3 → ∀ (nd : Nat) (win : Nat → Window), nd = s.rNdraft i →
        (∀ j ≤ nd, s.window? x (a + 32 * j) = some (win j) ∧ (s.readShort (win j).res).ok = true) →
        Served (.sampleVfy o) s c s x ((a, 32 * (nd + 1)) :: (List.range (nd + 1)).map (fun j => ((win j).res, 528)) ++
          (if nd = 0 then [] else [(s.reqF i 12 51 0, 256 * nd)])) (
        ∃ n tok, (n, tok) = s.verify i (s.rLen i + 2 ^ 64 - nd) nd (fun j => if j ≤ nd then s.readShort (win j).res else s.readShort 0) nd 0 ∧
          exec (.sampleVfy o) s = .next (((s.setReqF i 15 31 0 n).setRLen i ((s.rLen i + 2 ^ 64 - nd + n) % 2 ^ 32)).serveDone
            c o.sw o.rd (n * 2 ^ 32 + tok)))) ∧
      (s.owns x i = true → s.rState i = 3 → (∃ j ≤ s.rNdraft i, s.window? x (a + 32 * j) = none) →
        Traps (.sampleVfy o) s c cSRVARG 0))) ∧
  (∀ (s : State) (i pos : Nat) (l : Short), l.greedy = true →
    s.drawAt i pos l = match l.list.find? (fun e => decide (e.1 < s.reqF i 8 31 0)) with | some e => e.1 | none => 0xFFFFFFFF)

/-! ### The front end -/

/-- What each packet does: a completed packet advances HEAD at the ring, a failing one stops its queue with its cause, level and
offset; JOB, PHASE and GRAPH open counters, or fail with BADPKT, DUPID and NOUNIT, or wait for a free counter; LAUNCH reads its
record; PRED skips, waits and times out; a read of a page that migrates waits; LOOP, IND and FFENCE move the parser; SREAD writes
its command and ends with its completion or its timeout (R120, R122, R124 to R127, R131, R132, R252). The checks of loops and
buffers (a LOOP in a LOOP, the first and the last word of an IND, a LOOP of count 0) are log entry 46's choice, a counter in STATE 5
for DUPID and NOUNIT is entry 81's. SREAD with its end: a disabled drive, a misaligned destination and a length above 1 MiB take
BADPKT; a secure queue and a destination out of its world take PKTADDR; a full submission queue, or a write of its own to a page
that migrates, makes it wait; otherwise the command is recorded with its PRP list, and a WAIT leaves the packet open until the
completion or the timeout of 2^34 aclk, which post the bell word (R131, R132, R252; the command's layout is log entry 13's).
Fullness by the commands under way is entry 85's choice, and a QSIZE of 0 is entry 114's. -/
def Obligations.PacketsAndStorage : Prop :=
  (∀ (s : State) (q : Nat) (x : Queue), x = s.queue q → q < s.queues.length →
     ((∀ n, x.levels = [] → x.ring = .reset → ∃ w, (s.passPacket q n).queue q =
         { x with head := x.head + BitVec.ofNat 32 n, window := w, predAt := none, sread := none }) ∧
       (∀ n p, p ≠ q → (s.passPacket q n).queue p = s.queue p) ∧
       (∀ c, (s.stopQueue q c).queue q = { x with stopped := true, cause := BitVec.ofNat 8 c, level := BitVec.ofNat 2 x.depth,
                                                   erroff := BitVec.ofNat 32 x.offset, predAt := none, sread := none })) ∧
     (∀ n, exec (.nopPacket q n) s = .next (s.passPacket q (8 * n))) ∧
     (∀ o : UnitPkt, (o.id.toNat.testBit 31 = true → exec (.jobPacket q o) s = .next (s.stopQueue q cBADPKT) ∧
         exec (.phasePacket q o) s = .next (s.stopQueue q cBADPKT) ∧ exec (.graphPacket q o) s = .next (s.stopQueue q cBADPKT)) ∧
       (o.id.toNat.testBit 31 = false →
         (o.close = false → s.liveUnit .job o.id ≠ none → exec (.jobPacket q o) s = .next (s.stopQueue q cDUPID)) ∧
         (o.close = false → s.liveUnit .job o.id = none → s.freeUnits .job = 0 → exec (.jobPacket q o) s = .next s) ∧
         (o.close = false → s.liveUnit .job o.id = none → s.freeUnits .job ≠ 0 → exec (.jobPacket q o) s =
           .next ((s.addUnit .job o.id x.world q 0 0 none (unitBell o)).passPacket q 16)) ∧
         (o.close = true → s.liveUnit .job o.id = none → exec (.jobPacket q o) s = .next (s.stopQueue q cNOUNIT)) ∧
         (∀ s1, o.close = true → s.closeJob o.id (unitBell o) = some s1 → exec (.jobPacket q o) s = .next (s1.passPacket q 16)) ∧
         (s.liveUnit .phs o.id ≠ none → exec (.phasePacket q o) s = .next (s.stopQueue q cDUPID)) ∧
         (s.liveUnit .phs o.id = none → (∀ p, s.liveUnit .job o.parent = some p → p.live = false ∨ p.closed = true) →
           exec (.phasePacket q o) s = .next (s.stopQueue q cNOUNIT)) ∧
         (∀ p, s.liveUnit .phs o.id = none → s.liveUnit .job o.parent = some p → p.live = true → p.closed = false →
           (s.freeUnits .phs = 0 → exec (.phasePacket q o) s = .next s) ∧
           (s.freeUnits .phs ≠ 0 → exec (.phasePacket q o) s = .next (((s.addUnit .phs o.id p.world q o.count.toNat o.count.toNat
             (some p.uid) (unitBell o)).settleUnit s.nextUid).passPacket q 16))) ∧
         (s.liveUnit .gph o.id ≠ none → exec (.graphPacket q o) s = .next (s.stopQueue q cDUPID)) ∧
         (s.liveUnit .gph o.id = none → (∀ p, s.liveUnit .phs o.parent = some p → p.live = false ∨ p.left = 0) →
           exec (.graphPacket q o) s = .next (s.stopQueue q cNOUNIT)) ∧
         (∀ p, s.liveUnit .gph o.id = none → s.liveUnit .phs o.parent = some p → p.live = true → p.left ≠ 0 →
           (s.freeUnits .gph = 0 → exec (.graphPacket q o) s = .next s) ∧
           (s.freeUnits .gph ≠ 0 → exec (.graphPacket q o) s = .next (((s.addUnit .gph o.id p.world q o.count.toNat o.count.toNat
             (some p.uid) (unitBell o)).settleUnit s.nextUid).passPacket q 16))))) ∧
     (∀ a : W64, ((a.toNat % 256 ≠ 0 ∨ s.frontOk q a.toNat 256 = false) →
         exec (.launchPacket q a) s = .next (s.stopQueue q cPKTADDR)) ∧
       (a.toNat % 256 = 0 → s.frontOk q a.toNat 256 = true → s.stalledPa 0 a.toNat 256 = true → exec (.launchPacket q a) s = .next s) ∧
       (a.toNat % 256 = 0 → s.frontOk q a.toNat 256 = true → s.stalledPa 0 a.toNat 256 = false → ∀ bs, bs = s.physRead (s.frontWho q) a.toNat 256 →
         (∀ c, s.submit bs q x.world = .err c → exec (.launchPacket q a) s = .next (s.stopQueue q c)) ∧
         (s.submit bs q x.world = .wait → exec (.launchPacket q a) s = .next s) ∧
         (∀ s1, s.submit bs q x.world = .done s1 → exec (.launchPacket q a) s = .next (s1.passPacket q 16)))) ∧
     (∀ o : PredPkt, (s.predOk q o = false → exec (.predSkip q o) s = .next (s.stopQueue q cPKTADDR) ∧
         exec (.predWait q o) s = .next (s.stopQueue q cPKTADDR)) ∧
       (s.predOk q o = true → s.stalledPa 0 o.addr.toNat 8 = true → exec (.predSkip q o) s = .next s ∧ exec (.predWait q o) s = .next s) ∧
       (s.predOk q o = true → s.stalledPa 0 o.addr.toNat 8 = false → s.predHolds q o = true → exec (.predSkip q o) s = .next (s.passPacket q 32) ∧
         exec (.predWait q o) s = .next (s.passPacket q 32)) ∧
       (s.predOk q o = true → s.stalledPa 0 o.addr.toNat 8 = false → s.predHolds q o = false →
         exec (.predSkip q o) s = .next (s.passPacket q (32 + o.arg.toNat)) ∧
         (∀ t, x.predAt = some t → t + o.arg.toNat * 1024 ≤ s.hclk → exec (.predWait q o) s = .next (s.stopQueue q cPREDTO)) ∧
         (∀ t, x.predAt = some t → s.hclk < t + o.arg.toNat * 1024 → exec (.predWait q o) s = .next (s.putQueue q x)) ∧
         (x.predAt = none → exec (.predWait q o) s = .next (s.putQueue q { x with predAt := some s.hclk }))) ∧
       (s.firmwareRuns = true → s.laneReady q = true → s.nextPacket q = some (.wait o) →
         (s.predLate q o.arg.toNat = true → exec (.predTimeout q) s = .next (s.stopQueue q cPREDTO)) ∧
         (s.predLate q o.arg.toNat = false → exec (.predTimeout q) s = .next s))) ∧
     (∀ n b : W32, ((b.toNat % 8 ≠ 0 ∨ (x.levels ≠ [] ∧ x.avail < 16 + b.toNat) ∨ x.cur.loop ≠ none) →
         exec (.loopPacket q n b) s = .next (s.stopQueue q cBADPKT)) ∧
       (b.toNat % 8 = 0 → (x.levels = [] ∨ 16 + b.toNat ≤ x.avail) → x.cur.loop = none →
         (b = 0 → exec (.loopPacket q n b) s = .next (s.passPacket q 16)) ∧
         (b ≠ 0 → n = 0 → 16 + b.toNat ≤ x.avail → exec (.loopPacket q n b) s = .next (s.passPacket q (16 + b.toNat))) ∧
         (b ≠ 0 → n = 0 → x.avail < 16 + b.toNat → exec (.loopPacket q n b) s = .next s) ∧
         (b ≠ 0 → n ≠ 0 → ∃ t w, exec (.loopPacket q n b) s = .next t ∧ t.queue q =
           { x.setCur { x.cur with off := x.cur.off + 16, loop := some (x.cur.off + 16, b.toNat, n.toNat) } with predAt := none, window := w }))) ∧
     (∀ (n : W32) (a : W64), ((2 ≤ x.depth ∨ n.toNat % 8 ≠ 0 ∨ n.toNat < 8) →
         exec (.indPacket q n a) s = .next (s.stopQueue q cBADPKT)) ∧
       (x.depth < 2 → n.toNat % 8 = 0 → 8 ≤ n.toNat → ∀ ok : Prop,
         (ok ↔ a.toNat % 8 = 0 ∧ s.frontOk q a.toNat 8 = true ∧ s.frontOk q (a.toNat + n.toNat - 8) 8 = true) →
         (¬ ok → exec (.indPacket q n a) s = .next (s.stopQueue q cPKTADDR)) ∧
         (ok → exec (.indPacket q n a) s =
           .next (s.putQueue q { x with levels := x.levels ++ [⟨a.toNat, n.toNat, 0, none⟩], predAt := none })))) ∧
     (exec (.ffence q) s = .next ((s.putQueue q { x with window := [] }).passPacket q 8)) ∧
     (∀ c, s.nextPacket q = some (.bad c) → exec (.illFormedPacket q) s = .next (s.stopQueue q c))) ∧
  ((∀ (s : State) (q : Nat) (x : Queue) (o : SreadPkt) (dn n : Nat) (d : Drive), x = s.queue q → dn = o.drive.toNat → d = s.drive dn →
     n = (o.nblk.toNat + 1) * 2 ^ (d.lbash.toNat + 9) →
     (x.sread ≠ none → exec (.sread q o) s = .next s) ∧
     (x.sread = none →
       ((d.en = false ∨ o.dest.toNat % 4096 ≠ 0 ∨ 0x100000 < n) → exec (.sread q o) s = .next (s.stopQueue q cBADPKT)) ∧
       (d.en = true → o.dest.toNat % 4096 = 0 → n ≤ 0x100000 →
         ((x.world = true ∨ s.frontOk q o.dest.toNat n = false) → exec (.sread q o) s = .next (s.stopQueue q cPKTADDR)) ∧
         (x.world = false → s.frontOk q o.dest.toNat n = true →
           (d.qsize.toNat ≤ d.cmds.length → exec (.sread q o) s = .next s) ∧
           ((s.unitStalls (d.sq.toNat + 64 * d.sqTail) 64 = true ∨ s.unitStalls d.db.toNat 4 = true) → exec (.sread q o) s = .next s) ∧
           (d.cmds.length < d.qsize.toNat → s.unitStalls (d.sq.toNat + 64 * d.sqTail) 64 = false → s.unitStalls d.db.toNat 4 = false →
             dn < s.drives.length → ∃ t prp, exec (.sread q o) s = .next t ∧
             t.drive dn = { d with
               sqTail := (d.sqTail + 1) % (d.qsize.toNat + 1)
               nextId := d.nextId + 1
               cmds := d.cmds ++ [⟨d.nextId % 2 ^ 16, o.bell.toNat, s.hclk, if o.wait = true then some q else none, prp⟩] } ∧
             (n ≤ 8192 → prp = []) ∧ (8192 < n → prp = (List.range ((n + 4095) / 4096 - 1)).map (fun i =>
               BitVec.ofNat 64 (Config.hostVisible (o.dest.toNat + 4096 * (i + 1))))) ∧
             (q < s.queues.length → o.wait = true → (t.queue q).head = x.head ∧
               (t.queue q).sread = some (dn, d.nextId % 2 ^ 16))))))) ∧
   (∀ (s : State) (dn cid : Nat) (st : BitVec 16) (c : DriveCmd), (s.drive dn).cmds.find? (fun y => y.cid == cid) = some c →
     (s.postFull = true → exec (.sreadCompletion dn cid st) s = .next s ∧ exec (.sreadTimeout dn cid) s = .next s) ∧
     (s.postFull = false → ∀ (d : Drive) (h a : Nat), d = s.drive dn → h = (d.cqHead + 1) % (d.qsize.toNat + 1) →
       a = d.db.toNat + 4 * 2 ^ d.dstrd.toNat →
       (s.unitStalls a 4 = true → exec (.sreadCompletion dn cid st) s = .next s) ∧
       (s.unitStalls a 4 = false → exec (.sreadCompletion dn cid st) s =
         .next (((s.putDrive dn { d with cqHead := h }).unitWrite false a (bytesOf 4 h)).endRead dn c st.toNat true))) ∧
     (s.postFull = false → c.since + 2 ^ 34 ≤ s.hclk → exec (.sreadTimeout dn cid) s = .next (s.endRead dn c 0xFFFF false)) ∧
     (s.hclk < c.since + 2 ^ 34 → exec (.sreadTimeout dn cid) s = .next s)))

/-! ### Claims, growth, placement and saving -/

/-- Claims, growth, shrink and starvation: the claim at the head of a core's queue is granted with zero-filled registers once it
fits; a queue for which condition D has held 1,024 aclk empties with CLAIMDL; a core with room grows the block of the best class by
its lowest free crew, at the attach entry; a shrink marks its target and, after the grace time, saves it; a crew that has been ready
for 4,096 aclk is treated as class 0, without an event too (R82, R83, R90, R106, R107, R116). Placement, saving and cancelling: the
classes are served in order, and one that places a block ends the step; nothing is placed while the firmware hangs; a save starts,
goes on until every stream has stopped, with every destination delivered and every MEMERR taken, and the way to its areas is open,
and then frees the core; a placed saved block resumes, with the members of its cluster that were saved with it and in one step, from
good areas, and a bad one kills its block with SAVEERR; a cancelling counter ends when everything below it has, but not inside a
tile instruction's step (R103, R111, R314, R322 to R324, R326; a save outside a retiring starts for an expired request alone, log
entry 32). -/
def Obligations.CoreAndBlockEvents : Prop :=
  ((∀ (s : State) (core : Nat) (x : Claim) (l : List Claim) (k : Crew), (s.core core).claims = x :: l → s.crew? x.crew = some k →
     (s.freeGroups core < x.n → exec (.claimGrant core) s = .next s) ∧
     (x.n ≤ s.freeGroups core → ∃ v, exec (.claimGrant core) s =
         .next ((s.putCore core { s.core core with claims := l }).putCrew x.crew
           (({ k with v := v, groups := k.groups + x.n }.swrite x.rd (BitVec.ofNat 64 (k.groups + x.n))).next x.sw)) ∧
       ∀ i < 32, ∀ m, sparseGet 0 v (32 * m + i) = if 8 * k.groups ≤ m ∧ m < 8 * (k.groups + x.n) then 0 else k.vread i m)) ∧
   (∀ (s : State) (core t : Nat), (s.core core).deadSince = some t →
     (s.claimDead core = true → t + 1024 ≤ s.cclk (s.dieOfCore core) → exec (.claimDeadlock core) s =
       .next ((s.core core).claims.foldl (fun s x => s.trap x.crew cCLAIMDL)
         (s.putCore core { s.core core with claims := [], deadSince := none }))) ∧
     ((s.claimDead core = false ∨ s.cclk (s.dieOfCore core) < t + 1024) → exec (.claimDeadlock core) s = .next s)) ∧
   (∀ (s : State) (n : Nat), s.frozen = false → s.coreUp n = true → (s.core n).claims = [] → (s.crewsOn n).length < 32 →
     (s.core n).lastGrow + 16 ≤ s.cclk (s.dieOfCore n) → (∀ l ∈ s.launches, l.lr.maxc ≤ 16) →
     ((∀ p ∈ s.blocksOn n, s.mayGrow n p = false) → exec (.growCrew n) s = .next s) ∧
     ((∃ p ∈ s.blocksOn n, s.mayGrow n p = true) → ∃ t b x l j, exec (.growCrew n) s = .next t ∧ (b, x) ∈ s.blocksOn n ∧
       s.mayGrow n (b, x) = true ∧ (∀ p ∈ s.blocksOn n, s.mayGrow n p = true → s.prioOf x ≤ s.prioOf p.2) ∧
       s.launch? x.unit = some l ∧ j ∉ s.crewsOf b ∧ (∀ i < j, i ∈ s.crewsOf b) ∧
       t.crew? (.blk b j) = some (Crew.start x.unit l.lr.attach l.lr.groups true (s.cclk (s.dieOfCore n))) ∧
       ∀ d, d ≠ .blk b j → t.crew? d = s.crew? d)) ∧
   (∀ (s : State) (n : Nat), s.frozen = false → s.coreIn n = true → (s.core n).shrink = none →
     (s.shrinkTarget n = none → exec (.shrinkRequest n) s = .next s) ∧
     (∀ b x, s.shrinkTarget n = some b → s.block? b = some x → ∃ t, exec (.shrinkRequest n) s = .next t ∧
       (t.core n).shrink = some ⟨b, s.cclk (s.dieOfCore n)⟩ ∧ t.block? b = some { x with shrink := true } ∧
       ∀ d, t.crew? d = s.crew? d)) ∧
   (∀ (s : State) (n : Nat) (h : Shrink) (x : Block) (l : Launch) (g : Nat), (s.core n).shrink = some h → s.block? h.block = some x →
     s.launch? x.unit = some l → g = (if l.lr.sgrace = 0 then 64 else l.lr.sgrace) →
     (h.since + g * 1024 ≤ s.cclk (s.dieOfCore n) → exec (.shrinkGraceExpiry n) s = .next (s.startSave h.block)) ∧
     (s.cclk (s.dieOfCore n) < h.since + g * 1024 → exec (.shrinkGraceExpiry n) s = .next s)) ∧
   (∀ (s : State) (c : CrewRef) (k : Crew) (now : Nat), s.crew? c = some k → now = s.cclk (s.dieOf c) →
     (s.readyS c k = true → k.sinceS + 4096 ≤ now →
       exec (.issueStarvation c false) s = .next (s.putCrew c { k with boostS := true })) ∧
     (∀ i < 8, s.readyL c k i = true → k.sinceL + 4096 ≤ now →
       exec (.issueStarvation c true) s = .next (s.putCrew c { k with boostL := true })) ∧
     (s.readyS c k = false ∨ now < k.sinceS + 4096 → exec (.issueStarvation c false) s = .next (s.putCrew c k)) ∧
     (k.sinceS + 4096 ≤ now → s.pipeClass c k false = 0) ∧ (k.sinceL + 4096 ≤ now → s.pipeClass c k true = 0) ∧
     (now < k.sinceS + 4096 → k.boostS = false → s.pipeClass c k false = (s.recOf c).prio) ∧
     (now < k.sinceL + 4096 → k.boostL = false → s.pipeClass c k true = (s.recOf c).prio))) ∧
  ((∀ s : State, s.frozen = true → exec .placeBlock s = .next s) ∧
   (∀ (s g : State) (cls : State → Nat → List Nat), s.frozen = false → g = s.grantBitmaps →
     (∀ u p, cls u p = (u.launches.filter (fun l => l.lr.prio == p)).map (·.uid)) →
     (∀ t, g.serveClass (cls g 0) = (t, true) → exec .placeBlock s = .next t) ∧
     (∀ u t, g.serveClass (cls g 0) = (u, false) → u.serveClass (cls u 1) = (t, true) → exec .placeBlock s = .next t) ∧
     (∀ u v t b, g.serveClass (cls g 0) = (u, false) → u.serveClass (cls u 1) = (v, false) → v.serveClass (cls v 2) = (t, b) →
       exec .placeBlock s = .next t)) ∧
   (∀ (s : State) (b : Nat) (x : Block), s.block? b = some x →
     (x.saving = false → s.preemptDue b = true → exec (.preempt b) s = .next (s.startSave b)) ∧
     (x.saving = false → s.preemptDue b = false → exec (.preempt b) s = .next s) ∧
     (x.saving = true → s.resuming b = true → exec (.preempt b) s = .next s) ∧
     (∀ l, x.saving = true → s.resuming b = false → s.launch? x.unit = some l → ∀ ready : Prop,
       (ready ↔ ∀ y ∈ s.saveGroup b, ∀ j ∈ s.crewsOf y, ∀ k, s.crew? (.blk y j) = some k → s.crewSaveable (.blk y j) k = true) →
       (ready → (∀ y ∈ s.saveGroup b, ∀ z, s.block? y = some z → s.areaStalls z.core z.area = false) →
         exec (.preempt b) s = .next ((s.saveGroup b).foldl (fun s y => s.saveBlock l y) s)) ∧
       ((¬ ready ∨ ∃ y ∈ s.saveGroup b, ∃ z, s.block? y = some z ∧ s.areaStalls z.core z.area = true) →
         exec (.preempt b) s = .next s))) ∧
   (∀ (s : State) (c : CrewRef) (k : Crew), (k.out ≠ [] ∨ k.memerr ≠ [] ∨ k.trapping ≠ none) → s.crewSaveable c k = false) ∧
   (∀ (s : State) (b : Nat) (x : Block) (l : Launch) (vs : List Saved), s.block? b = some x → s.launch? x.unit = some l →
     vs = l.saved.filter (fun v => v.block.cluster == x.cluster) →
     (((∀ v ∈ vs, v.bid ≠ b) ∨ (∃ v ∈ vs, s.block? v.bid = none) ∨
       ∃ v ∈ vs, ∃ y, s.block? v.bid = some y ∧ s.areaStalls y.core v.area = true) → exec (.blockResume b) s = .next s) ∧
     ((∃ v ∈ vs, v.bid = b) → (∀ v ∈ vs, ∃ y, s.block? v.bid = some y ∧ s.areaStalls y.core v.area = false) →
       ((∀ v ∈ vs, s.areaOk l v = true) → exec (.blockResume b) s = .next (vs.foldl (fun t v =>
         match t.block? v.bid with | some y => t.restoreBlock l v y.core | none => t) s)) ∧
       (∀ v, vs.find? (fun w => !s.areaOk l w) = some v → exec (.blockResume b) s = .next (s.killBlock v.bid cSAVEERR)))) ∧
   (∀ (s : State) (u : Nat) (x : CUnit) (clear : State), s.unit? u = some x →
     (s.midStep u = true → exec (.cancelDone u) s = .next s) ∧ (s.midStep u = false →
     clear = ((s.blocks.filter (fun p => p.2.unit == u)).map (·.1)).foldl State.clearBlock s →
     (x.level = .lch → x.state = .cancelling → exec (.cancelDone u) s = .next (clear.finishUnit u .cancelled x.cause)) ∧
     (∀ l c, x.level = .lch → x.state ≠ .cancelling → s.launch? u = some l → l.stop = some c → x.live = true →
       exec (.cancelDone u) s = .next (clear.finishUnit u .error c)) ∧
     (∀ l, x.level = .lch → x.state ≠ .cancelling → s.launch? u = some l → l.stop = none → exec (.cancelDone u) s = .next s) ∧
     (x.level ≠ .lch → x.state = .cancelling → (∀ y ∈ s.units, y.parent = some u → y.unfinished = false) →
       exec (.cancelDone u) s = .next (s.finishUnit u .cancelled x.cause)) ∧
     (x.level ≠ .lch → (x.state ≠ .cancelling ∨ ∃ y ∈ s.units, y.parent = some u ∧ y.unfinished = true) →
       exec (.cancelDone u) s = .next s))))

/-! ### Pages, generations, bells and handoffs -/

/-- Page unit, translation and handoff events: a quiesced page is copied, the leaves that map it and what names the page-table nodes
in it change and their generations are raised, and it is released at its new place when every engine has adopted them; every engine
adopts the next generation, and ACKGEN takes it; the oldest post becomes 16 bytes of the ring, with the lap bit of its count, unless
its page migrates; a handoff ends with its answer, which only an open endpoint brings; a first-touch request sets FTSTAT and lets
its crew go on; an inbound request is taken with pages of its own, whose frames the page unit reaches (R129, R130, R155, R166, R252,
R288, R291, R316). The splitting of a large leaf, and the wait of a page that shares its leaf, are log entry 53's choice; that an
acknowledgement over a closed endpoint has no effect is entry 62's, and that a migration or a handoff is not begun where the page
unit may not reach is entry 95's. -/
def Obligations.PageAndRingEvents : Prop :=
  (∀ (s : State) (n : Nat) (m : Migration), s.fore.migs[n]? = some m →
    ((s.pathOpen 0 m.src = false ∨ s.pathOpen 0 m.dst = false ∨ (m.ctx < 2 ∧ s.stalledPa 0 (s.descAt m.ctx m.page) 32 = true)) →
      s.migStalls m = true) ∧
    (s.migStalls m = true → exec (.migrationComplete n) s = .next s)) ∧
  (∀ (s : State) (n : Nat) (m : Migration) (ls : List LeafAt) (ns : List NodeAt) (can : Prop), s.fore.migs[n]? = some m →
    ls = s.leavesOver m.src (m.src + m.size) → ns = s.nodesOver m.src (m.src + m.size) → s.migStalls m = false →
    (can ↔ s.reaches (s.migWorld m) m.src m.size = true ∧ s.reaches (s.migWorld m) m.dst m.size = true) →
    (m.stage = .pinned → exec (.migrationComplete n) s = .next s) ∧
    (∀ gens, m.stage = .remapped gens → ((∀ g ∈ gens, s.acked g = true) → exec (.migrationComplete n) s = .next (s.releasePage m)) ∧
      ((∃ g ∈ gens, s.acked g = false) → exec (.migrationComplete n) s = .next s)) ∧
    (m.stage = .quiet →
      ((¬ can ∨ (ls ≠ [] ∨ ns ≠ []) ∧ s.firmwareRuns = false) → exec (.migrationComplete n) s = .next s) ∧
      (can → ls = [] → ns = [] →
        exec (.migrationComplete n) s = .next (((s.copyBytes m.src m.dst m.size).redescribe m).releasePage m)) ∧
      (can → (ls ≠ [] ∨ ns ≠ []) → s.firmwareRuns = true →
        (∀ l, ls.find? (fun l => l.level != 0) = some l → exec (.migrationComplete n) s = .next (s.splitLeaf l)) ∧
        ((∀ l ∈ ls, l.level = 0) →
          (((∃ l ∈ ls, pteFrame l.e < m.src ∨ m.src + m.size < pteFrame l.e + 0x10000) ∨
            ∃ x ∈ ns, x.node < m.src ∨ m.src + m.size < x.node + 0x10000) → exec (.migrationComplete n) s = .next s) ∧
          ((∀ l ∈ ls, m.src ≤ pteFrame l.e ∧ pteFrame l.e + 0x10000 ≤ m.src + m.size) →
            (∀ x ∈ ns, m.src ≤ x.node ∧ x.node + 0x10000 ≤ m.src + m.size) →
            ∀ r, r = (s.copyBytes m.src m.dst m.size).remap m ls ns →
            exec (.migrationComplete n) s = .next { r.1 with fore := { r.1.fore with
              migs := r.1.fore.migs.map (fun y => if y = m then { m with stage := .remapped r.2 } else y) } }))))) ∧
  (∀ (s : State) (n : Nat), s.fore.migs[n]? = none → exec (.migrationComplete n) s = .next s) ∧
  (∀ (s : State) (x p t : Nat) (d : Desc) (may : Prop), d = s.desc x p →
    (may ↔ (s.sctx x).bound ≠ none ∧ (s.sctx x).frozen = false ∧ p < (s.sctx x).npg ∧ t ≤ 2 ∧ d.tier ≠ t ∧ d.state = 1 ∧ d.pin = 0 ∧
      d.ref ≠ 0 ∧ s.migrating x p = false ∧ s.moveReach x p t = true ∧
      (∀ r, r = s.descSpan x p ∨ r = s.mapSpan x t → s.stalledPa 0 r.1 r.2 = false)) →
    (∀ s1, may → s.startMigration x p t 0 = some s1 → exec (.pageMigrationEngineMove x p t) s = .next s1) ∧
    ((¬ may ∨ s.startMigration x p t 0 = none) → exec (.pageMigrationEngineMove x p t) s = .next s)) ∧
  (∀ (s : State) (q : Nat) (p : Space), p = s.space q → q < 34 → s.spaces.length = 34 →
    (p.ack = p.gen ∨ s.stepOpen q = true → exec (.ackgenUpdate q) s = .next s) ∧
    (p.ack ≠ p.gen → s.stepOpen q = false → ∃ t, exec (.ackgenUpdate q) s = .next t ∧ t.space q = { p with ack := p.ack + 1 } ∧
      (∀ r, r ≠ q → t.space r = s.space r) ∧
      (∀ n < s.cores.length, sparseGet 0 (t.core n).gens q = p.ack + 1 ∧
        (p.ack + 1 ≠ 0 → (t.core n).tlb = (s.core n).tlb ∧ (t.core n).tte = (s.core n).tte) ∧
        (p.ack + 1 = 0 → ∀ e ∈ (t.core n).tlb ++ (t.core n).tte, e.asid ≠ q)))) ∧
  (∀ (s : State) (n : Notify), n = s.notify →
    (n.waiting = [] → exec .bellPost s = .next s) ∧
    (∀ i v l, n.waiting = (i, v) :: l →
      ∀ a, a = n.base.toNat + 16 * (n.tail.toNat % 2 ^ n.log2n.toNat) →
      ((n.en = false ∨ (n.tail - n.head).toNat = 2 ^ n.log2n.toNat ∨ s.unitStalls a 16 = true) → exec .bellPost s = .next s) ∧
      (n.en = true → (n.tail - n.head).toNat ≠ 2 ^ n.log2n.toNat → s.unitStalls a 16 = false → exec .bellPost s =
        .next (((s.unitWrite false a
          (bytesOf 8 (i + (if n.tail.toNat.testBit n.log2n.toNat = true then 2 ^ 63 else 0)) ++ bytesOf 8 v.toNat)).withNotify
            { n with tail := n.tail + 1, waiting := l }).noteStalled)))) ∧
  (∀ (s : State), (s.notify.stalled = [] → s.noteStalled = s) ∧
    (∀ i v l, s.notify.stalled = (i, v) :: l →
      s.noteStalled = ({ s with notify := { s.notify with stalled := l } } : State).notePost i v)) ∧
  (∀ (s : State) (x code : Nat) (h : Handing), s.fore.sends.find? (fun y => y.ctx == x) = some h →
    (code = cXPORTERR → exec (.pgsendAck x code) s = .next (s.endSend h code)) ∧
    (code ≠ cXPORTERR → s.epOpen h.ctx h.port h.ep = false → exec (.pgsendAck x code) s = .next s) ∧
    (code ≠ cXPORTERR → s.epOpen h.ctx h.port h.ep = true →
      exec (.pgsendAck x code) s = .next ((s.packetPasses h.port h.ep).endSend h code))) ∧
  (∀ (s : State) (c : CrewRef) (l : List CrewRef) (k : Crew) (va : W64) (sw : Bool) (r : Nat × State), s.fore.ftq = c :: l →
    s.crew? c = some k → k.ftReq = some (va, sw) →
    (({ s with fore := { s.fore with ftq := l } } : State).touchStalls c va.toNat = true → exec .ftmapRequest s = .next s) ∧
    (({ s with fore := { s.fore with ftq := l } } : State).touchStalls c va.toNat = false →
      r = ({ s with fore := { s.fore with ftq := l } } : State).firstTouch c va.toNat →
    ∃ t, exec .ftmapRequest s = .next t ∧ t.fore.ftq = l ∧
      t.crew? c = some ({ k with ftstat := BitVec.ofNat 3 r.1, ftReq := none }.next sw))) ∧
  (∀ (s : State) (h : Handoff) (e : List Nat) (bt : Nat) (ok : Prop), e = h.words.map (·.toNat) → bt = bitsN (listGet 0 e 3) 51 0 →
    (ok ↔ h.ctx < 2 ∧ (s.sctx h.ctx).bound ≠ none ∧ (s.sctx h.ctx).frozen = false ∧ h.words.length = 16 ∧
      s.epOpen h.ctx h.port h.ep = true ∧ s.reaches (s.ctxWorld h.ctx) bt (4 * bitsN (listGet 0 e 4) 63 32) = true ∧
      (∀ t < 2, ∀ r ∈ s.allocSpans h.ctx t, s.reaches (s.ctxWorld h.ctx) r.1 r.2 = true ∧ s.stalledPa 0 r.1 r.2 = false) ∧
      s.stalledPa 0 bt (4 * bitsN (listGet 0 e 4) 63 32) = false ∧
      s.entryOk h.ctx e = true ∧ h.pages.length = ceilDiv (bitsN (listGet 0 e 1) 63 32) (s.sctx h.ctx).tpp) →
    (¬ ok → exec (.inboundHandoff h) s = .next s) ∧
    (∀ i s1, ok → s.freeRec = some i →
      s1 = ((s.takeRec h.ctx i e).setRLen i (bitsN (listGet 0 e 1) 63 32)).setRPfill i (bitsN (listGet 0 e 2) 31 0) →
      (∀ s2, s1.fillInbound h.ctx (s1.rBtab i) h.pages 0 = some s2 →
        ((∃ p ∈ s2.allPages i, s2.frameReach h.ctx (s2.pageAt h.ctx p) = false ∨
            s2.stalledPa 0 (s2.pageAt h.ctx p) (s2.sctx h.ctx).pb = true) → exec (.inboundHandoff h) s = .next s) ∧
        ((∀ p ∈ s2.allPages i, s2.frameReach h.ctx (s2.pageAt h.ctx p) = true ∧
            s2.stalledPa 0 (s2.pageAt h.ctx p) (s2.sctx h.ctx).pb = false) →
          exec (.inboundHandoff h) s = .next ((s2.setRState i 3).packetPasses h.port h.ep))) ∧
      (s1.fillInbound h.ctx (s1.rBtab i) h.pages 0 = none → exec (.inboundHandoff h) s = .next s)) ∧
    (ok → s.freeRec = none → exec (.inboundHandoff h) s = .next s))

/-! ### The register BAR and the mailbox -/

/-- Host writes: TAIL under the monotonic-maximum rule with TAILERR and OVF, QCFG with its own LOG2SZ rule, RESUME and the flags
that clear by writing 1, QROOT and QGEN of a non-secure queue alone, NTHEAD and NTCFG; a write through the BAR has the same effect,
and one that is not a whole register or an aligned half is ignored (R119 to R121, R128, R130, R280). That RESUME empties the words
read ahead is log entry 46's choice. The mailbox: a write while a command runs is ignored; a command that the state does not allow
sets MBSTATE and does nothing else; HOSTDRV, STEP, RESTART, LOADIMG, RESUME, TESTON and TESTOFF have the effects of R327 on STATE,
MODE and the firmware; an unlisted command sets MBSTATE; the watchdog stops the firmware after 2^31 aclk (R310, R326 to R328, R330).
The modes of TESTON and TESTOFF, and the restart from a held image with reason 8, are log entry 59's choice. -/
def Obligations.RegistersAndMailbox : Prop :=
  ((∀ (s : State) (q : Nat) (x : Queue) (w : W32), x = s.queue q →
     (((w - x.tail).toNat = 0 ∨ 2 ^ 31 ≤ (w - x.tail).toNat) → exec (.qtailWrite q w) s = .next (s.putQueue q x)) ∧
     ((w - x.tail).toNat ≠ 0 → (w - x.tail).toNat < 2 ^ 31 →
       (w.toNat % 8 ≠ 0 → exec (.qtailWrite q w) s = .next (s.putQueue q { x with tailerr := true })) ∧
       (w.toNat % 8 = 0 → 2 ^ x.log2sz.toNat < (w - x.head).toNat →
         exec (.qtailWrite q w) s = .next (s.putQueue q { x with ovf := true })) ∧
       (w.toNat % 8 = 0 → (w - x.head).toNat ≤ 2 ^ x.log2sz.toNat →
         exec (.qtailWrite q w) s = .next (s.putQueue q { x with tail := w }))) ∧
     (∀ lg : BitVec 5, (x.en = false ∧ x.head = x.tail ∧ lg = w.setWidth 5 ∨ (x.en = true ∨ x.head ≠ x.tail) ∧ lg = x.log2sz) →
       (w.toNat.testBit 8 = false → exec (.qcfgWrite q w) s = .next (s.putQueue q { x with log2sz := lg, en := false })) ∧
       (w.toNat.testBit 8 = true → 12 ≤ lg.toNat → lg.toNat ≤ 24 → x.base.toNat % 2 ^ lg.toNat = 0 →
         exec (.qcfgWrite q w) s = .next (s.putQueue q { x with log2sz := lg, en := true })) ∧
       (w.toNat.testBit 8 = true → (lg.toNat < 12 ∨ 24 < lg.toNat ∨ x.base.toNat % 2 ^ lg.toNat ≠ 0) →
         exec (.qcfgWrite q w) s = .next (s.putQueue q { x with log2sz := lg }))) ∧
     (x.stopped = true → exec (.qstatResume q) s = .next (s.putQueue q
       { x with stopped := false, cause := 0, level := 0, erroff := 0, window := [], predAt := none, sread := none })) ∧
     (x.stopped = false → exec (.qstatResume q) s = .next (s.putQueue q x)) ∧
     (∀ a b, exec (.qstatFlagClear q a b) s =
       .next (s.putQueue q { x with tailerr := x.tailerr && !a, ovf := x.ovf && !b }))) ∧
   (∀ (s : State) (q : Nat) (p : Space) (v : W64), p = s.space q →
     (q < 32 → (s.queue q).world = false →
       exec (.qrootWrite q .whole v) s = .next (s.putSpace q
         { p with root := BitVec.ofNat 36 (v.toNat / 2 ^ 16), en := v.toNat.testBit 0, gen := p.gen + 1 }) ∧
       exec (.qgenWrite q) s = .next (s.putSpace q { p with gen := p.gen + 1 })) ∧
     ((32 ≤ q ∨ (s.queue q).world = true) → ∀ part, exec (.qrootWrite q part v) s = .next s ∧ exec (.qgenWrite q) s = .next s)) ∧
   (∀ (s : State) (n : Notify) (w : W32), n = s.notify →
     (((w - n.head).toNat = 0 ∨ 2 ^ 31 ≤ (w - n.head).toNat ∨
         2 ^ n.log2n.toNat < (w - (n.tail - BitVec.ofNat 32 (2 ^ n.log2n.toNat))).toNat) → exec (.ntheadWrite w) s = .next s) ∧
     ((w - n.head).toNat ≠ 0 → (w - n.head).toNat < 2 ^ 31 →
       (w - (n.tail - BitVec.ofNat 32 (2 ^ n.log2n.toNat))).toNat ≤ 2 ^ n.log2n.toNat →
       exec (.ntheadWrite w) s = .next { s with notify := { n with head := w } }) ∧
     (∀ lg : BitVec 5, (n.en = false ∧ lg = w.setWidth 5 ∨ n.en = true ∧ lg = n.log2n) →
       (w.toNat.testBit 8 = false → exec (.ntcfgWrite w) s = .next { s with notify := { n with log2n := lg, en := false } }) ∧
       (w.toNat.testBit 8 = true → 4 ≤ lg.toNat → lg.toNat ≤ 16 → n.base.toNat % (16 * 2 ^ lg.toNat) = 0 →
         exec (.ntcfgWrite w) s = .next { s with notify := { n with log2n := lg, en := true } }) ∧
       (w.toNat.testBit 8 = true → (lg.toNat < 4 ∨ 16 < lg.toNat ∨ n.base.toNat % (16 * 2 ^ lg.toNat) ≠ 0) →
         exec (.ntcfgWrite w) s = .next { s with notify := { n with log2n := lg } }))) ∧
   (∀ (s : State) (q : Nat) (v : W64), q < 32 →
     exec (.registerWrite (0x10008 + 256 * q) 4 v) s = exec (.qcfgWrite q (v.setWidth 32)) s ∧
     exec (.registerWrite (0x10010 + 256 * q) 4 v) s = exec (.qtailWrite q (v.setWidth 32)) s ∧
     exec (.registerWrite (0x10010 + 256 * q) 8 v) s = exec (.qtailWrite q (v.setWidth 32)) s ∧
     exec (.registerWrite (0x10028 + 256 * q) 8 v) s = exec (.qrootWrite q .whole v) s ∧
     exec (.registerWrite (0x10028 + 256 * q) 4 v) s = exec (.qrootWrite q .low v) s ∧
     exec (.registerWrite (0x10030 + 256 * q) 8 v) s = exec (.qgenWrite q) s ∧
     exec (.registerWrite (0x10030 + 256 * q) 4 v) s = exec (.qgenWrite q) s ∧
     exec (.registerWrite (0x10034 + 256 * q) 4 v) s = .next s) ∧
   (∀ (s : State) (v : W64), exec (.registerWrite 0x1008 8 v) s = exec (.ntcfgWrite (v.setWidth 32)) s ∧
     exec (.registerWrite 0x1010 8 v) s = exec (.ntheadWrite (v.setWidth 32)) s) ∧
   (∀ (s : State) (off n : Nat) (v : W64), (off < 0x100000 ∨ 0x108000 ≤ off) → ¬ (n = 8 ∧ off % 8 = 0) → ¬ (n = 4 ∧ off % 4 = 0) →
     exec (.registerWrite off n v) s = .next s)) ∧
  (∀ (s : State) (st : Nat), st = s.mbox.state.toNat →
     (s.mbox.busy = true → ∀ r v, exec .hostdrv s = .next s ∧ exec .step s = .next s ∧ exec (.restart r) s = .next s ∧
       exec (.loadimg v) s = .next s ∧ exec .resume s = .next s ∧ exec .teston s = .next s ∧ exec .testoff s = .next s) ∧
     (s.mbox.busy = false → ∀ bad : State, bad = { s with mbox := { s.mbox with cause := BitVec.ofNat 8 cMBSTATE } } →
       ((st ≠ 0 ∧ st ≠ 1) → exec .hostdrv s = .next bad) ∧
       ((st = 0 ∨ st = 1) → ∃ t, exec .hostdrv s = .next t ∧ t.mbox = { s.mbox with state := 2, mode := 3, cause := 0 } ∧
         t.round = [] ∧ t.queues = s.queues.map (fun q => { q with window := [], predAt := none, sread := none }) ∧
         t.crews = s.crews ∧ t.mem = s.mem) ∧
       ((st ≠ 2 ∨ (s.queue s.mbox.queue.toNat).world = true) → exec .step s = .next bad) ∧
       (st = 2 → (s.queue s.mbox.queue.toNat).world = false → ∀ (q : Nat) (s1 : State), q = s.mbox.queue.toNat →
         s1 = (s.fetchHeader q).fetchPacket q → ∀ s2 : State,
         (s1.laneReady q = false ∧ s2 = s1 ∨ ∃ p, s1.laneReady q = true ∧ s1.nextPacket q = some p ∧ s2 = s1.runPacket q p) →
         exec .step s = .next { s2 with mbox := { s2.mbox with adv := (s2.queue q).head != (s.queue q).head, cause := 0 } }) ∧
       ((st ≠ 1 ∧ st ≠ 2 ∧ st ≠ 4) → ∀ r v, exec (.restart r) s = .next bad ∧ exec (.loadimg v) s = .next bad) ∧
       ((st = 1 ∨ st = 2 ∨ st = 4) →
         (∀ v, (s.imageOk v = true → exec (.loadimg v) s = .next { s with mbox := { s.mbox with held := true, cause := 0 } }) ∧
           (s.imageOk v = false → exec (.loadimg v) s = .next { s with mbox := { s.mbox with cause := BitVec.ofNat 8 cIMGBAD } })) ∧
         (∀ r : RestartImages,
           (s.mbox.held = true → s.imageOk r.held = false →
             exec (.restart r) s = .next { s with mbox := { s.mbox with cause := BitVec.ofNat 8 cIMGBAD } }) ∧
           (s.mbox.held = false → s.imageOk r.copy0 = false → s.imageOk r.copy1 = false → ∃ t, exec (.restart r) s = .next t ∧
             t.mbox = { s.mbox with cause := BitVec.ofNat 8 cIMGBAD } ∧ 8 ∈ t.ident.reasons ∧ t.crews = s.crews ∧
             t.queues = s.queues) ∧
           ((s.mbox.held = true ∧ s.imageOk r.held = true ∨
               s.mbox.held = false ∧ (s.imageOk r.copy0 = true ∨ s.imageOk r.copy1 = true)) →
             ∃ t, exec (.restart r) s = .next t ∧ t.mbox.state = 0 ∧ t.mbox.mode = 0 ∧ t.mbox.cause = 0 ∧
               t.mbox.restarts = s.mbox.restarts + 1 ∧ t.crews = s.crews ∧
               (3 ≤ (recentRestarts s.hclk s.mbox.times).length → t.ident.repl = true ∧ t.ident.reason = 9) ∧
               (s.mbox.held = false → s.imageOk r.copy0 = false → 8 ∈ t.ident.reasons)))) ∧
       (st ≠ 2 → exec .resume s = .next bad) ∧
       (st = 2 → ∃ t, exec .resume s = .next t ∧ t.mbox.state = 0 ∧ t.mbox.mode = 0 ∧ t.mbox.cause = 0 ∧ t.crews = s.crews) ∧
       ((st ≠ 0 ∨ s.mbox.mode ≠ 0 ∨ s.launchLive = true) → exec .teston s = .next bad) ∧
       (st = 0 → s.mbox.mode = 0 → s.launchLive = false →
         exec .teston s = .next { s with mbox := { s.mbox with state := 0, mode := 2, cause := 0 } }) ∧
       ((st ≠ 0 ∨ s.mbox.mode ≠ 2) → exec .testoff s = .next bad) ∧
       (st = 0 → s.mbox.mode = 2 → exec .testoff s = .next { s with mbox := { s.mbox with state := 0, mode := 0, cause := 0 } }) ∧
       (∀ c : BitVec 4, (c = 0 ∨ 7 < c.toNat) → exec (.unlistedMailboxCommand c) s = .next bad)) ∧
     (s.powered = true → st = 0 → s.mbox.wdStart.toNat + 2 ^ 31 ≤ s.hclk →
       exec .watchdog s = .next { s with round := [], mbox := { s.mbox with state := 1, mode := 3 } }) ∧
     (s.hclk < s.mbox.wdStart.toNat + 2 ^ 31 → exec .watchdog s = .next s))

/-! ### Power, attestation, worlds, links, peers and errors -/

/-- Power and attestation: power-up and a package reset leave the reset state but for the fuses and the host's memory; power-up
starts the firmware from the first copy that verifies and reports the second one's use; an attestation opens or fails its chiplet,
the third missing answer fails it; service is declared once nothing is left to attest; a control crew starts at its entry (R17, R34,
R280, R295 to R297, R305, R306, R310; what the schedule and the firmware's image are is the model's choice, log entries 4, 19 and
38). Worlds: a tenant's request counts over an open session alone; assigning a granule closes it, and its change clears every byte
of it, flips its bit and opens it, and no other byte changes; a secure drive is refused; the root and the generation of a secure
queue's space are the tenant's to write (R290, R292, R294, R297, R299). That a granule closes in the request's step and changes in a
later one, and that other assignments take effect at once, is log entry 70's choice; verdicts and digests as operands are entry
60's. -/
def Obligations.PorterRequests : Prop :=
  ((∀ (s : State) (p : Bool), ∃ t, (p = false → exec .powerOff s = .next t) ∧ (p = true → exec .packageReset s = .next t) ∧
     t = { State.reset with
       turn := s.turn, agenda := s.agenda, draws := s.draws, nextUid := s.nextUid, fuses := s.fuses, hostMap := s.hostMap,
       cores := List.replicate s.fuses.cores Core.reset, mem := t.mem, poison := t.poison, powered := p } ∧
     ∀ a, t.byte a = if 0x8000000000000 ≤ a then s.byte a else unlistedByte) ∧
   (∀ (s : State) (x y : ImageCheck), (∀ z : ImageCheck, s.imageOk z = true ↔ z.signed = true ∧ s.fuses.minVersion ≤ z.version) ∧
     (s.powered = true → s.porter.log ≠ [] → exec (.powerUp x y) s = .next s) ∧
     ((s.powered = false ∨ s.porter.log = []) →
       ∃ t, exec (.powerUp x y) s = .next t ∧ t.powered = true ∧ t.crews = [] ∧ t.units = [] ∧ t.blocks = [] ∧
         t.cores.length = s.fuses.cores ∧
         (s.imageOk x = false → t.ident.repl = true ∧ t.ident.reason = 8) ∧ (s.imageOk x = true → t.ident.repl = false) ∧
         ((s.imageOk x = true ∨ s.imageOk y = true) →
           t.mbox.state = 0 ∧ t.mbox.mode = 1 ∧ t.ident.shut = 0x1FFFE ∧ t.porter.booted = true) ∧
         (s.imageOk x = false → s.imageOk y = false →
           t.mbox.state = 4 ∧ t.ident.shut = 0x1FFFF ∧ t.porter.booted = false))) ∧
   (∀ (s : State) (i : Nat) (r : Attest), (s.attestNow i = false → exec (.attestChiplet i r) s = .next s ∧
       exec (.spdmTimeout i) s = .next s) ∧
     (s.attestNow i = true → exec (.attestChiplet i r) s = .next (s.attest i r) ∧
       (∃ t, exec (.attestChiplet i .bad) s = .next t ∧ i ∈ t.ident.failed ∧ t.ident.repl = true ∧ t.ident.reason = 5 ∧
         t.ident.shut = s.ident.shut) ∧
       (∀ d m, m = [(listGet default s.fuses.chips i).serial, s.fuses.step.toNat, d] →
         (assocGet s.porter.recorded i = none ∨ assocGet s.porter.recorded i = some m) → ∃ t, exec (.attestChiplet i (.ok d)) s = .next t ∧
         t.shuttered i = false ∧ (∀ j, j ≠ i → t.shuttered j = s.shuttered j) ∧ assocGet t.porter.recorded i = some m ∧
         assocGet t.porter.misses i = none ∧ assocGet t.porter.keys i = some (listGet default s.fuses.chips i).pub ∧
         (assocGet s.porter.recorded i = none → t.porter.log = s.porter.log ++ [(16 + i, m)])) ∧
       (∀ d m, assocGet s.porter.recorded i = some m → m ≠ [(listGet default s.fuses.chips i).serial, s.fuses.step.toNat, d] →
         ∃ t, exec (.attestChiplet i (.ok d)) s = .next t ∧ i ∈ t.ident.failed ∧ t.ident.reason = 5 ∧ t.ident.shut = s.ident.shut) ∧
       (s.hclk < s.porter.askedAt + 2 ^ 28 → exec (.spdmTimeout i) s = .next s) ∧
       (s.porter.askedAt + 2 ^ 28 ≤ s.hclk → ∀ n, n = (assocGet s.porter.misses i).getD 0 + 1 → ∃ t,
         exec (.spdmTimeout i) s = .next t ∧ assocGet t.porter.misses i = some n ∧ t.porter.askedAt = s.hclk ∧
         (3 ≤ n → i ∈ t.ident.failed ∧ t.ident.repl = true) ∧ (n < 3 → t.ident = s.ident)))) ∧
   (∀ s : State, s.firmwareRuns = true → s.mbox.mode = 1 →
     ((∀ i < 17, s.shuttered i = true → i ∉ s.ident.failed → s.routeOpen i = false) →
       exec .declareService s = .next { s with mbox := { s.mbox with mode := 0 } }) ∧
     ((∃ i < 17, s.shuttered i = true ∧ i ∉ s.ident.failed ∧ s.routeOpen i = true) → exec .declareService s = .next s)) ∧
   (∀ (s : State) (o : CtlStart), s.firmwareRuns = true → o.die < 2 → s.ctls.length = 2 → s.spaces.length = 34 →
     s.shuttered (1 + o.die) = false → (s.ctl o.die).started = false → ∃ t k, exec (.controlCrewStart o) s = .next t ∧
       t.crew? (.ctl o.die) = some k ∧ k.pc = o.entry ∧ k.h = false ∧ k.out = [] ∧ (t.ctl o.die).started = true ∧
       (t.ctl o.die).table = o.ovtab ∧ (t.ctl o.die).entries = o.entries ∧ (t.ctl o.die).tvec = o.tvec ∧
       (t.space (32 + o.die)).root = BitVec.ofNat 36 (o.root.toNat / 2 ^ 16) ∧ (t.space (32 + o.die)).en = o.root.toNat.testBit 0)) ∧
  ((∀ (s : State) (v : Bool) (r : TenantReq), (s.powered = false ∨ s.porter.booted = false) →
     exec (.tenantRequest v r) s = .next s) ∧
   (∀ s : State, s.powered = true → s.porter.booted = true →
     (∀ v, exec (.tenantRequest v .openSession) s = .next { s with porter := { s.porter with
         session := true, keys := assocPut s.porter.keys 0 (listGet default s.fuses.chips 0).pub } }) ∧
     (s.porter.session = true → exec (.tenantRequest true .readLog) s = .next { s with porter := { s.porter with sent := s.porter.log } }) ∧
     ((∀ v, v = false ∨ s.porter.session = false → ∀ g b a q w,
       exec (.tenantRequest v .readLog) s = .next s ∧ exec (.tenantRequest v (.assignGranule g a)) s = .next s ∧
       exec (.tenantRequest v (.assignBlock b a)) s = .next s ∧ exec (.tenantRequest v (.writeRoot q w)) s = .next s ∧
       exec (.tenantRequest v (.writeGen q)) s = .next s)) ∧
     (s.porter.session = true →
       (∀ g a, granuleOk g = true → (g ∈ s.worlds.secure ↔ a = false) → g ∉ s.worlds.closed →
         exec (.tenantRequest true (.assignGranule g a)) s =
           .next { s with worlds := { s.worlds with closed := s.worlds.closed ++ [g] } }) ∧
       (∀ d, exec (.tenantRequest true (.assignBlock (.drive d) true)) s = .next s) ∧
       (∀ q a, q < 32 → s.queues.length = 32 → ∃ t, exec (.tenantRequest true (.assignBlock (.queue q) a)) s = .next t ∧
         t.queue q = { s.queue q with world := a } ∧ ∀ p, p ≠ q → t.queue p = s.queue p) ∧
       (∀ q v, s.firmwareRuns = true → q < 32 → (s.queue q).world = true →
         exec (.tenantRequest true (.writeRoot q v)) s = .next (s.putSpace q { s.space q with
           root := BitVec.ofNat 36 (v.toNat / 2 ^ 16), en := v.toNat.testBit 0, gen := (s.space q).gen + 1 }) ∧
         exec (.tenantRequest true (.writeGen q)) s = .next (s.putSpace q { s.space q with gen := (s.space q).gen + 1 })))) ∧
   (∀ (s : State) (g : Nat) (a : Bool), s.powered = true → g ∈ s.worlds.closed → (g ∈ s.worlds.secure ↔ a = false) →
     ∃ t, exec (.worldChange g a) s = .next t ∧ g ∉ t.worlds.closed ∧ (g ∈ t.worlds.secure ↔ a = true) ∧
       (∀ x, x ≠ g → (x ∈ t.worlds.secure ↔ x ∈ s.worlds.secure) ∧ (x ∈ t.worlds.closed ↔ x ∈ s.worlds.closed)) ∧
       ∀ p, t.byte p = if g * 0x1000000 ≤ p ∧ p < (g + 1) * 0x1000000 then unlistedByte else s.byte p))

/-- Links and endpoints: a group of flits is accepted in order, a repeated one is discarded, and a failing tag is a tamper event on
a link and a counted failure on an endpoint; a retried flit is sent as it was; a key switch programs, announces and reports; held
flits are given up after 2^20 aclk, and so is the access of a stream to a scratchpad of a shuttered C-die, which then takes XPORTERR
(log entry 111); a session opens an endpoint, sixteen failures in a row close it (R300 to R304, R307, R308). Accesses from outside:
a peer's read, write or atomic operation is translated and checked as a crew's is, windows first, logged and answered with a
transport error when it faults, waits for a migrating page, and is given up after 2^30 aclk; a host write to a granule that it may
not reach changes no byte outside the error log, and a read of one returns all-ones data marked poisoned, whatever the links carry
(R255, R291, R300, R308, R325). The cause WORLDF of a refused host access, one to an unbacked address included, is log entry 61's
choice, and the poisoned mark of a host read of an uncorrectable granule is entry 89's. -/
def Obligations.LinksAndOutside : Prop :=
  ((∀ (s : State) (n seq : Nat) (x : Link), s.powered = true → x = s.dir n → x.isKeyed = true → seq % 4 = 0 →
     (seq ≠ x.acked → ∀ b, exec (.flitGroupAccepted n seq b) s = .next s) ∧
     (∀ y, seq = x.acked → y = x.sendMany (seq + 4 - x.sent) →
       (y.sent < seq + 4 → ∀ b, exec (.flitGroupAccepted n seq b) s = .next (s.putDir n y)) ∧
       (seq + 4 ≤ y.sent →
         (n < 10 → exec (.flitGroupAccepted n seq true) s = .next (s.putDir n (y.accept seq)) ∧
           exec (.flitGroupAccepted n seq false) s = .next ((s.putDir n y).tamper (n / 2))) ∧
         (∀ e, 10 ≤ n → s.peers.eps[(n - 10) / 2]? = some e →
           exec (.flitGroupAccepted n seq true) s = .next ((s.putDir n (y.accept seq)).packetPasses e.port e.ep) ∧
           exec (.flitGroupAccepted n seq false) s = .next ((s.putDir n y).packetFails e)))) ∧
     (∀ f, x.acked ≤ f → f ≤ x.sent → exec (.flitCrcFailure n f) s = .next (s.putDir n (x.sendMany (f + 1 - x.sent)))) ∧
     (n < 10 → exec (.tamperEvent n) s = .next (s.tamper (n / 2))) ∧
     (∀ key, x.switch = none → slotKey x.txKeys (1 - x.slot) = none → slotKey x.rxKeys (1 - x.slot) = none →
       exec (.keySwitch n (.program key)) s = .next (s.putDir n
         { x with txKeys := listSet x.txKeys (1 - x.slot) (some key), rxKeys := listSet x.rxKeys (1 - x.slot) (some key) })) ∧
     (∀ f, x.switch = none → f % 4 = 0 → x.sent ≤ f → slotKey x.txKeys (1 - x.slot) ≠ none → slotKey x.rxKeys (1 - x.slot) ≠ none →
       exec (.keySwitch n (.announce f)) s = .next (s.putDir n (({ x with switch := some f } : Link).turnOver.settleRx))) ∧
     (∀ f, x.switch = some f → f ≤ x.acked → slotKey x.txKeys (1 - x.slot) = none → slotKey x.rxKeys (1 - x.slot) = none →
       exec (.keySwitch n .report) s = .next (s.putDir n { x with switch := none }))) ∧
   (∀ (s : State) (l : Nat), l < 5 → s.links.length = 10 → ∀ t, t = s.tamper l →
     t.ident.repl = true ∧ t.ident.reason = 6 ∧ (∀ n, n / 2 = l → (t.dir n).isKeyed = false) ∧ ∃ f, t.shuttered f = true ∧
       (l = 0 → f = 1 ∨ f = 2) ∧ (l = 1 → f = 3) ∧ (l = 2 → f = 4) ∧ (l = 3 → f = 1) ∧ (l = 4 → f = 2)) ∧
   (∀ (s : State) (n now : Nat) (late : Requester × Nat → Bool), n < 10 →
     now = s.clockOf (if n % 2 = 0 then (linkEnds (n / 2)).1 else (linkEnds (n / 2)).2) →
     (∀ u t, late (.tile u, t) = decide (t + 2 ^ 20 ≤ now)) → (∀ c i pc t, late (.stream c i pc, t) = false) →
     ∀ lost : List MosEntry, lost = ((s.cores.flatMap (fun k => k.mos)) ++ s.ctls.flatMap (fun k => k.load)).filter
       (fun m => (s.dir n).held.any (fun h => h.1 == .tile m.uid && late h)) → exec (.shutterFlitTimeout n) s =
       .next (lost.foldl (fun u m => u.transportError m) (s.putDir n { s.dir n with held := (s.dir n).held.filter (fun h => !late h) }))) ∧
   (∀ (s : State) (die : Nat) (ls : List Loc), (s.shuttered (3 - die) = false ∨ die = 0 ∨ 2 < die ∨
       ∀ l ∈ ls, (∀ b o n, l = .spad b o n → s.spadDie b ≠ 3 - die) ∧ (∀ x r o n, l = .ended x r o n → s.endedDie x r ≠ 3 - die)) ↔
     s.lostWay die ls = none) ∧
   (∀ (s : State) (die d : Nat) (ls : List Loc), s.lostWay die ls = some d → d = die - 1) ∧
   (∀ (s : State) (c : CrewRef) (i : Option Nat) (pc : CodeAddr) (ls : List Loc) (f : State → State) (w : Requester),
     w = .stream c i pc → (s.lostWay (s.seat c) ls = none → s.stallStream c i pc ls f = s) ∧
     (∀ d, s.lostWay (s.seat c) ls = some d →
       ((∀ h ∈ (s.dir d).held, h.1 ≠ w) → s.stallStream c i pc ls f =
         s.putDir d { s.dir d with held := (s.dir d).held ++ [(w, s.clockOf (s.seat c))] }) ∧
       (∀ h, (s.dir d).held.find? (fun h => h.1 == w) = some h →
         (s.clockOf (s.seat c) < h.2 + 2 ^ 20 → s.stallStream c i pc ls f = s) ∧
         (h.2 + 2 ^ 20 ≤ s.clockOf (s.seat c) → s.stallStream c i pc ls f =
           f (s.putDir d { s.dir d with held := (s.dir d).held.filter (fun h => h.1 != w) }))))) ∧
   (∀ (s : State) (c : CrewRef) (pc : CodeAddr) (ls : List Loc) (va : W64),
     s.stallScalar c pc ls va = s.stallStream c none pc ls (fun u => u.trapAt c cXPORTERR va)) ∧
   (∀ (s : State) (port ep : Nat) (o : SessionTerms) (w p : Bool) (may : Prop),
     (may ↔ s.powered = true ∧ s.porter.booted = true ∧ port < 8 ∧ o.asid < 32 ∧ w = true ∧ p = true ∧ s.endpoint? port ep = none) →
     (may → ∃ t e, exec (.peerSession port ep w p o) s = .next t ∧ t.peers.eps = s.peers.eps ++ [e] ∧ e.port = port ∧ e.ep = ep ∧
       e.asid = o.asid ∧ e.fails = 0 ∧ e.tx.isKeyed = true ∧ e.rx.isKeyed = true ∧
       (∀ a, t.peerAddr port ep a = true ↔ o.lo ≤ a ∧ a < o.hi)) ∧
     (¬ may → exec (.peerSession port ep w p o) s = .next s)) ∧
   (∀ (s : State) (port ep : Nat), (∃ t, exec (.endpointClose port ep) s = .next t ∧ t = s.closeEndpoint port ep ∧
       t.endpoint? port ep = none ∧ (∀ x ∈ t.peers.inbound, x.port ≠ port ∨ x.ep ≠ ep) ∧
       ∀ p q, (p ≠ port ∨ q ≠ ep) → t.endpoint? p q = s.endpoint? p q) ∧
     (∀ e, s.endpoint? port ep = some e → e.port = port ∧ e.ep = ep ∧
       exec (.packetAuthenticationFailure port ep) s = .next (s.packetFails e) ∧
       (e.fails < 15 → ∃ eps, eps = s.peers.eps.map (fun x => if x.port = port ∧ x.ep = ep then { x with fails := x.fails + 1 } else x) ∧
         s.packetFails e = { s with peers := { s.peers with dropped := s.peers.dropped + 1, eps := eps } }) ∧
       (15 ≤ e.fails → s.packetFails e =
         ({ s with peers := { s.peers with dropped := s.peers.dropped + 1 } } : State).closeEndpoint port ep)))) ∧
  ((∀ (s : State) (port ep n : Nat) (a : ExtAccess) (e : Endpoint) (u : State) (r : Except Nat (List Loc)) (fault : Nat → State),
     s.endpoint? port ep = some e → u = s.modEndpoint port ep (fun e => { e with fails := 0 }) → n = a.kind.size →
     r = u.inboundParts e a.kind.access a.addr.toNat n →
     fault = (fun c => (u.log c 0 0 a.addr.toNat).answered port ep a.tag .error) →
     (∀ c, u.windows (.ctl 0) (partsOf (n / 0x10000 + 2) a.addr.toNat n) = .error c →
       exec (.peerAccess port ep a) s = .next (fault c)) ∧
     (∀ ws, u.windows (.ctl 0) (partsOf (n / 0x10000 + 2) a.addr.toNat n) = .ok ws →
       (a.kind.access = .atomic → a.addr.toNat % n ≠ 0 → exec (.peerAccess port ep a) s = .next (fault cATALIGN)) ∧
       (∀ c, r = .error c → exec (.peerAccess port ep a) s = .next (fault c)) ∧
       (∀ ls, r = .ok ls →
         (u.stalledLocs 0 ls = true → exec (.peerAccess port ep a) s = .next (u.inboundWaits port ep a.tag)) ∧
         (u.stalledLocs 0 ls = false →
           (∀ bs, a.kind = .write bs →
             exec (.peerAccess port ep a) s = .next ((u.writeLocs (.ctl 0) false ls bs).answered port ep a.tag (.data []))) ∧
           (a.kind.access ≠ .write → u.poisonedLocs ls = true → exec (.peerAccess port ep a) s = .next (fault cMEMERR)) ∧
           (∀ m, a.kind = .read m → u.poisonedLocs ls = false →
             exec (.peerAccess port ep a) s = .next (u.answered port ep a.tag (.data (u.readLocs (.ctl 0) ls)))) ∧
           (∀ op b c old new, a.kind = .atomic op true b c → u.poisonedLocs ls = false → old = u.readLocs (.ctl 0) ls →
             new = (atomNew op 64 (ofBytes old) (b % 2 ^ 64) (c % 2 ^ 64)).1 → exec (.peerAccess port ep a) s =
               .next ((u.writeLocs (.ctl 0) false ls (bytesOf 8 new)).answered port ep a.tag (.data old))) ∧
           (∀ op b c old new, a.kind = .atomic op false b c → u.poisonedLocs ls = false → old = u.readLocs (.ctl 0) ls →
             new = (atomNew op 32 (ofBytes old) (b % 2 ^ 32) (c % 2 ^ 32)).1 → exec (.peerAccess port ep a) s =
               .next ((u.writeLocs (.ctl 0) false ls (bytesOf 4 new)).answered port ep a.tag (.data old))))))) ∧
   (∀ (s : State) (port ep : Nat) (a : ExtAccess), s.endpoint? port ep = none → exec (.peerAccess port ep a) s = .next s) ∧
   (∀ (s : State) (port ep tag : Nat) (z : Answer),
     (s.answered port ep tag z).peers.last = some (port, ep, tag, z) ∧
     (∀ x, x ∈ (s.answered port ep tag z).peers.inbound ↔ x ∈ s.peers.inbound ∧ (x.port ≠ port ∨ x.ep ≠ ep ∨ x.tag ≠ tag)) ∧
     ((∀ x ∈ s.peers.inbound, x.port ≠ port ∨ x.ep ≠ ep ∨ x.tag ≠ tag) →
       (s.inboundWaits port ep tag).peers.inbound = s.peers.inbound ++ [⟨port, ep, tag, s.hclk⟩]) ∧
     (∀ x ∈ s.peers.inbound, x.port = port → x.ep = ep → x.tag = tag → s.inboundWaits port ep tag = s)) ∧
   (∀ (s : State) (n : Nat) (x : Inbound), s.peers.inbound[n]? = some x →
     (x.since + 2 ^ 30 ≤ s.hclk → exec (.peerAccessTimeout n) s =
       .next ((s.log cXPORTERR 0 0 0).answered x.port x.ep x.tag .error)) ∧
     (s.hclk < x.since + 2 ^ 30 → exec (.peerAccessTimeout n) s = .next s)) ∧
   (∀ (s : State) (a : ExtAccess) (pa n : Nat), pa = a.addr.toNat → n = a.kind.size →
     n ≠ 0 → isDev pa = false →
     ((s.backedRange pa n = false ∨ s.worldRange false pa n = false) → ∃ t, exec (.hostMemoryAccess a) s = .next t ∧
       t.mem = (s.log cWORLDF (s.chipletOf pa) 0 pa).mem ∧ (∀ p, ¬ InLog s p → t.byte p = s.byte p) ∧
       (a.kind.access = .write → t = s.log cWORLDF (s.chipletOf pa) 0 pa) ∧
       (a.kind.access ≠ .write → t.peers.host = some (.poisoned (List.replicate n 0xFF)))) ∧
     (s.backedRange pa n = true → s.worldRange false pa n = true → s.stalledLocs 0 [.phys ⟨pa, n, false⟩] = true →
       exec (.hostMemoryAccess a) s = .next s) ∧
     (s.backedRange pa n = true → s.worldRange false pa n = true → s.stalledLocs 0 [.phys ⟨pa, n, false⟩] = false →
       (∀ bs, a.kind = .write bs → exec (.hostMemoryAccess a) s = .next (s.memWrite pa bs)) ∧
       (∀ m, a.kind = .read m → exec (.hostMemoryAccess a) s = .next { s with peers := { s.peers with
         host := some (if s.poisonedRange pa n = true then .poisoned (s.readLocs (.ctl 0) [.phys ⟨pa, n, false⟩])
                       else .data (s.readLocs (.ctl 0) [.phys ⟨pa, n, false⟩])) } }))))

/-- Errors and health: a corrected error is counted; an uncorrectable one poisons a granule, loses images, an overlay or the
supervisor image, freezes a serving context or kills its block, and one in a core's own SRAM counts for the core; a core with three
errors in 2^44 aclk retires once nothing is left on it; a die reset shutters its chiplets and restarts its clock, once the blocks of
a C-die have left it for the other; a clock moves by 100 MHz at most once in 2^22 aclk (R5, R305, R306, R324, R329, R330; log
entries 37 and 41). Reason 4 of a C-die's reset is log entry 60's choice; the evacuation, with its free choice, and the steering to
the other C-die are entries 63's and 97's. -/
def Obligations.ErrorsAndHealth : Prop :=
  (∀ (s : State) (i : Nat), ∃ t, exec (.softErrorCorrected i) s = .next t ∧ t.mbox.corrected = s.mbox.corrected + 1 ∧
    t.crews = s.crews ∧ t.cores = s.cores ∧ ∀ a, ¬ InLog s a → t.byte a = s.byte a) ∧
  (∀ (s : State) (pa : Nat) (u : State), mapped pa = true → s.backed pa = true →
    u = (if pa < 0x100000000 then s.coreError (pa / 0x03000000) else s) →
    (pa / 8 ∉ s.poison → exec (.sramUncorrectable (.memory pa)) s = .next { u with poison := s.poison ++ [pa / 8] }) ∧
    (pa / 8 ∈ s.poison → exec (.sramUncorrectable (.memory pa)) s = .next u)) ∧
  (∀ (s : State) (n : Nat), (s.cores.length ≤ n → s.coreError n = s) ∧ (n < s.cores.length → s.coreError n =
    s.putCore n { s.core n with errors := (s.core n).errors ++ [s.cclk (s.dieOfCore n)] })) ∧
  (∀ (s : State) (b : Nat) (x : Block), s.block? b = some x → exec (.sramUncorrectable (.scratchpad b)) s =
    .next ((s.coreError x.core).killBlock b cSPMERR)) ∧
  (∀ (s : State) (n off : Nat), n < s.cores.length → ∃ t, exec (.sramUncorrectable (.weights n off)) s = .next t ∧
    (t.core n).images = (s.core n).images.filter (fun x => decide (off < x.off) || decide (x.off + x.size ≤ off)) ∧
    (t.core n).errors = (s.core n).errors ++ [s.cclk (s.dieOfCore n)]) ∧
  (∀ (s : State) (x : Nat), x < 2 → s.fore.ctxs.length = 2 → ∃ t, exec (.sramUncorrectable (.foreman x)) s = .next t ∧
    (t.sctx x).frozen = true ∧ t.ident.repl = true ∧ t.ident.reason = 7) ∧
  (∀ (s : State) (n : Nat), s.firmwareRuns = true → s.coreIn n = true → threeErrors (s.core n).errors = true →
    s.blocksOn n = [] → s.slicePage n = none → s.sliceFrames n = [] → s.sliceMoves n = false → ∃ t, exec (.coreRetire n) s = .next t ∧
      t.ident.retired = s.ident.retired ++ [n] ∧ t.coreIn n = false ∧ t.ident.repl = true ∧ t.ident.reason = 1) ∧
  (∀ (s : State) (n : Nat), s.firmwareRuns = true → s.coreIn n = true → threeErrors (s.core n).errors = true →
    s.blocksOn n = [] → s.slicePage n = none → (s.sliceFrames n = [] → s.sliceMoves n = true → exec (.coreRetire n) s = .next s) ∧
      (∀ f l, s.sliceFrames n = f :: l → exec (.coreRetire n) s = .next (s.moveFrame f))) ∧
  (∀ (s : State) (n : Nat), (s.firmwareRuns = false ∨ s.coreIn n = false ∨ threeErrors (s.core n).errors = false) →
    exec (.coreRetire n) s = .next s) ∧
  (∀ (s : State) (n k : Nat), n < s.cores.length → k < (s.core n).slots.length →
    ∃ t, exec (.sramUncorrectable (.store (.core n) k)) s = .next t ∧ t.cores.length = s.cores.length ∧
      ((t.core n).slots[k]?.getD .empty).resident = false ∧
      (∀ j, j ≠ k → (t.core n).slots[j]? = (s.core n).slots[j]?) ∧ (∀ m, m ≠ n → t.core m = s.core m) ∧
      (t.core n).errors = (s.core n).errors ++ [s.cclk (s.dieOfCore n)]) ∧
  (∀ (s : State) (d k : Nat), d < s.ctls.length → k < (s.ctl d).slots.length →
    ∃ t, exec (.sramUncorrectable (.store (.ctl d) k)) s = .next t ∧ ((t.ctl d).slots[k]?.getD .empty).resident = false ∧
      (∀ j, j ≠ k → (t.ctl d).slots[j]? = (s.ctl d).slots[j]?) ∧ (∀ e, e ≠ d → t.ctl e = s.ctl e) ∧ t.cores = s.cores) ∧
  (∀ (s : State) (n : Nat), ∃ t, exec (.sramUncorrectable (.supervisor n)) s = .next t ∧ t.sup = { s.sup with lost := s.sup.lost ++ [n] } ∧
    t.crews = s.crews ∧ t.mem = s.mem ∧
    (n < s.cores.length → (t.core n).errors = (s.core n).errors ++ [s.cclk (s.dieOfCore n)])) ∧
  (∀ (s : State) (i : Nat) (r : Attest), s.firmwareRuns = true → s.porter.booted = true → 3 ≤ i → i ≤ 4 → i ∉ s.ident.failed →
    ∃ u, u = (s.shutDown [i] none).restartClock i ∧ u.shuttered i = true ∧ u.clockOf i = 0 ∧
      (s.inFlight (fun _ _ => true) = [] → ∀ a, u.byte a = s.byte a) ∧
      exec (.singleDieReset i r) s = .next (if u.routeOpen i = true then u.attest i r else u)) ∧
  (∀ (s : State) (i : Nat) (r : Attest), s.firmwareRuns = true → s.porter.booted = true → 1 ≤ i → i ≤ 2 → i ∉ s.ident.failed →
    s.ctls.length = 2 →
    ((∀ p ∈ s.blocks, s.dieOfCore p.2.core ≠ i - 1) → ∃ u,
      u = (((s.shutDown (resetGroup i) none).replace 4 i).restartClock i).resetCores (i - 1) ∧
      u.ident.reason = 4 ∧ (∀ j ∈ resetGroup i, u.shuttered j = true) ∧ u.clockOf i = 0 ∧ (∃ g, u.ctl (i - 1) = { Ctl.reset with gens := g }) ∧
      (∀ n < u.cores.length, s.dieOfCore n = i - 1 → (u.core n).images = [] ∧ (u.core n).slots = Core.reset.slots ∧ n ∈ u.sup.lost) ∧
      (∀ n a, s.dieOfCore n = i - 1 → n * 0x03000000 ≤ a → a < (n + 1) * 0x03000000 → a < 0x100000000 → u.byte a = unlistedByte) ∧
      exec (.singleDieReset i r) s = .next (if u.routeOpen i = true then u.attest i r else u)) ∧
    (∀ bs, bs = (s.blocks.filter (fun p => s.dieOfCore p.2.core == i - 1)).map (·.1) → bs ≠ [] →
      exec (.singleDieReset i r) s = .next (bs.foldl (fun u b => u.steer (1 - (i - 1)) b) (s.evacuate (s.behind (1 - (i - 1))) cDIELOST bs)))) ∧
  (∀ (s : State) (i : Nat) (v : Bool), s.firmwareRuns = true → i ≤ 4 → s.shuttered i = false → s.ident.stepAt.length = 5 →
    (∀ t : Int, s.ident.stepAt[i]? = some (some t) → (s.clockOf i : Int) < t + 2 ^ 22 →
      ∀ b, exec (.thermalThrottle i b v) s = .next s) ∧
    ((∀ t : Int, s.ident.stepAt[i]? = some (some t) → t + 2 ^ 22 ≤ (s.clockOf i : Int)) →
      (100 < s.ident.mhz i → ∃ t, exec (.thermalThrottle i false v) s = .next t ∧ t.ident.mhz i = s.ident.mhz i - 100 ∧
        t.ident.repl = true ∧ t.ident.reason = (if v = true then 3 else 2) ∧ t.ident.stepAt[i]? = some (some (s.clockOf i : Int))) ∧
      (s.ident.mhz i < 3300 → ∃ t, exec (.thermalThrottle i true v) s = .next t ∧ t.ident.mhz i = s.ident.mhz i + 100 ∧
        ∀ r, r ≠ 2 → r ≠ 3 → (r ∈ t.ident.reasons ↔ r ∈ s.ident.reasons)) ∧
      (3300 ≤ s.ident.mhz i → exec (.thermalThrottle i true v) s = .next s))) ∧
  (∀ (s : State) (i : Nat), (s.powered = true → exec (.criticalTemperature i) s = .next (s.log 0 i 0 0)) ∧
    (s.powered = false → exec (.criticalTemperature i) s = .next s))

/-! ### Ordering -/

/-- What the ordering rules forbid, in every allowed execution: a read that follows an acquire of a released write, or the acquire
of a pair of R243, returns what preceded the release, or something later (message passing); of two parties that each write, fence
with .ar and read the other's byte, one sees the other's write (store buffering); a value does not come out of a cycle of
dependences (load buffering); and a thread reads its own earlier write or a later one (R240, R241, R243 to R247; accesses to a chunk
that the engine holds are apart, R251). And what the package does is allowed: an execution that performs a run of the step function,
its accesses made by the agents and in the forms of the instructions that its turns execute, one after another in an order that its
crew order, its dependences and its pairs agree with, obeys every rule (R235, log entry 6). -/
def Obligations.OrderingOutcomes : Prop :=
  (∀ x : Execution, x.Allowed →
    (∀ a b wx wy ry rx : Nat, x.writes wx a → x.writes wy b → x.reads ry b → x.reads rx a → (x.ev wy).rel = true →
      (x.ev ry).acq = true → (x.ev wy).who.shares (x.ev wy).sc (x.ev ry).who = true →
      (x.ev wy).who.shares (x.ev ry).sc (x.ev ry).who = true → x.crewOrder wx wy → x.crewOrder ry rx →
      x.src ry b = some wy → x.firm rx a → ¬ x.loose wx rx → x.atLeast a (x.src rx a) wx) ∧
    (∀ a p wx wy b ry rx : Nat, (x.ev wx).who = .host p → (x.ev wy).who = .host p → (x.ev wx).seq < (x.ev wy).seq →
      wx < x.evs.length → wy < x.evs.length → x.writes wx a → x.writes wy b → x.reads ry b → x.reads rx a →
      (x.ev ry).acq = true → (x.ev ry).sc = .sy → x.crewOrder ry rx → x.src ry b = some wy → x.firm rx a → ¬ x.loose wx rx →
      x.atLeast a (x.src rx a) wx) ∧
    (∀ a wx i j rx : Nat, x.writes wx a → x.reads rx a → x.crewOrder wx i → x.passes i j → x.crewOrder j rx → x.firm rx a →
      ¬ x.loose wx rx → x.atLeast a (x.src rx a) wx) ∧
    (∀ a b w1 f1 r1 w2 f2 r2 : Nat, x.writes w1 a → x.reads r1 b → x.writes w2 b → x.reads r2 a → f1 ≠ f2 →
      x.crewOrder w1 f1 → x.crewOrder f1 r1 → x.crewOrder w2 f2 → x.crewOrder f2 r2 →
      (∀ f, f = f1 ∨ f = f2 → (x.ev f).ar = true ∧ x.covers f a w1 ∧ x.covers f a r2 ∧ x.covers f b w2 ∧ x.covers f b r1) →
      (∀ i, i = w1 ∨ i = r1 ∨ i = w2 ∨ i = r2 → (x.ev i).held = none) →
      x.atLeast a (x.src r2 a) w1 ∨ x.atLeast b (x.src r1 b) w2) ∧
    (∀ a b r1 w1 r2 w2 : Nat, x.reads r1 a → x.reads r2 b → r1 ∈ x.deps w1 → r2 ∈ x.deps w2 →
      x.src r1 a = some w2 → x.src r2 b ≠ some w1) ∧
    (∀ a w r : Nat, x.writes w a → x.reads r a → x.crewOrder w r → x.firm r a → ¬ x.loose w r → x.atLeast a (x.src r a) w)) ∧
  (∀ (x : Execution) (run : Nat → State) (n : Nat) (cut : Nat → Nat) (loc : Nat → Nat → Spot) (m : Nat → Nat → Byte),
    IsRun Machine.step run n → x.Performs run n cut loc m → (∀ i j, x.first i j → i < j) → (∀ i j, i ∈ x.deps j → i < j) →
    (∀ i j, x.passes i j → i < j) → x.Allowed)
end

