-- ==== Sys2Proof/Laws/Encoding.lean ====
section
/-!
SUPPORT. Fields of words: cutting a word into fields and joining them again, and the codes of the modifiers.
-/

namespace Sys2Proof

/-! ### Concatenation and fields as numbers -/

theorem append_toNat {n m : Nat} (x : BitVec n) (y : BitVec m) : (x ++ y).toNat = x.toNat * 2 ^ m + y.toNat := by
  rw [BitVec.toNat_append, ← Nat.shiftLeft_add_eq_or_of_lt y.isLt, Nat.shiftLeft_eq]

theorem field_toNat {n : Nat} (x : BitVec n) (lo w : Nat) : (x.extractLsb' lo w).toNat = x.toNat / 2 ^ lo % 2 ^ w := by
  rw [BitVec.extractLsb'_toNat, Nat.shiftRight_eq_div_pow]

theorem ofBool_toNat' (b : Bool) : (BitVec.ofBool b).toNat = if b then 1 else 0 := by cases b <;> rfl

theorem bit_field {n : Nat} (x : BitVec n) (lo : Nat) : (x.extractLsb' lo 1 == 1#1) = decide (x.toNat / 2 ^ lo % 2 = 1) := by
  have h := field_toNat x lo 1
  by_cases e : x.extractLsb' lo 1 = 1#1
  · rw [e] at h
    simp only [e]
    simp only [BitVec.toNat_ofNat] at h
    simp; omega
  · have : (x.extractLsb' lo 1).toNat ≠ 1 := fun h' => e (BitVec.eq_of_toNat_eq (by simpa using h'))
    simp only [beq_eq_false_iff_ne.mpr e]
    simp; omega

/-! ### The scalar word -/

theorem joinS_toNat (r : RawS) : (joinS r).toNat = ((if r.sw then 1 else 0) * 2 ^ 7 + r.op.toNat) * 2 ^ 24 + r.body.toNat := by
  unfold joinS
  rw [append_toNat, append_toNat, ofBool_toNat']

@[simp] theorem splitS_joinS (r : RawS) : splitS (joinS r) = r := by
  obtain ⟨sw, op, body⟩ := r
  have h := joinS_toNat ⟨sw, op, body⟩
  simp only at h
  have h1 := op.isLt
  have h2 := body.isLt
  simp only [splitS, RawS.mk.injEq]
  refine ⟨?_, ?_, ?_⟩
  · rw [bit_field, h]; cases sw <;> simp <;> omega
  · apply BitVec.eq_of_toNat_eq
    rw [field_toNat, h]; cases sw <;> simp <;> omega
  · apply BitVec.eq_of_toNat_eq
    rw [field_toNat, h]; cases sw <;> simp <;> omega

@[simp] theorem joinS_splitS (w : W32) : joinS (splitS w) = w := by
  apply BitVec.eq_of_toNat_eq
  rw [joinS_toNat]
  simp only [splitS, bit_field, field_toNat]
  have h := w.isLt
  split <;> rename_i e <;> simp at e <;> omega

theorem mkR_toNat (d a b : BitVec 7) (x : BitVec 3) :
    (mkR d a b x).toNat = d.toNat * 2 ^ 17 + a.toNat * 2 ^ 10 + b.toNat * 2 ^ 3 + x.toNat := by
  have h : (mkR d a b x).toNat = ((d.toNat * 2 ^ 7 + a.toNat) * 2 ^ 7 + b.toNat) * 2 ^ 3 + x.toNat := by
    unfold mkR; rw [append_toNat, append_toNat, append_toNat]
  omega

set_option maxRecDepth 4000 in
theorem mkI_toNat (d a : BitVec 7) (i : BitVec 10) : (mkI d a i).toNat = d.toNat * 2 ^ 17 + a.toNat * 2 ^ 10 + i.toNat := by
  have h : (mkI d a i).toNat = (d.toNat * 2 ^ 7 + a.toNat) * 2 ^ 10 + i.toNat := by
    unfold mkI; rw [append_toNat, append_toNat]
  omega

theorem mkL_toNat (d : BitVec 7) (i : BitVec 17) : (mkL d i).toNat = d.toNat * 2 ^ 17 + i.toNat := by
  unfold mkL; rw [append_toNat]

theorem mkB_toNat (q : BitVec 3) (o : BitVec 21) : (mkB q o).toNat = q.toNat * 2 ^ 21 + o.toNat := by
  unfold mkB; rw [append_toNat]

theorem mkLR_toNat (m : BitVec 8) (o : BitVec 16) : (mkLR m o).toNat = m.toNat * 2 ^ 16 + o.toNat := by
  unfold mkLR; rw [append_toNat]

theorem mkBX_toNat (b : BitVec 7) (x : BitVec 3) : (mkBX b x).toNat = b.toNat * 2 ^ 3 + x.toNat := by
  unfold mkBX; rw [append_toNat]

theorem mkCnt_toNat (c : BitVec 6) : (mkCnt c).toNat = c.toNat := by
  unfold mkCnt; rw [append_toNat]; simp

set_option maxRecDepth 4000 in
theorem mkC_toNat (c : SCond) (q : BitVec 3) (a : BitVec 7) (i : BitVec 10) :
    (mkC c q a i).toNat = c.code.toNat * 2 ^ 20 + q.toNat * 2 ^ 17 + a.toNat * 2 ^ 10 + i.toNat := by
  have h : (mkC c q a i).toNat = (((0 * 2 ^ 3 + c.code.toNat) * 2 ^ 3 + q.toNat) * 2 ^ 7 + a.toNat) * 2 ^ 10 + i.toNat := by
    unfold mkC; rw [append_toNat, append_toNat, append_toNat, append_toNat]; rfl
  omega

@[simp] theorem fD_mkR (d a b : BitVec 7) (x : BitVec 3) : fD (mkR d a b x) = d := by
  apply BitVec.eq_of_toNat_eq; rw [fD, field_toNat, mkR_toNat]; omega
@[simp] theorem fA_mkR (d a b : BitVec 7) (x : BitVec 3) : fA (mkR d a b x) = a := by
  apply BitVec.eq_of_toNat_eq; rw [fA, field_toNat, mkR_toNat]; omega
@[simp] theorem fB_mkR (d a b : BitVec 7) (x : BitVec 3) : fB (mkR d a b x) = b := by
  apply BitVec.eq_of_toNat_eq; rw [fB, field_toNat, mkR_toNat]; omega
@[simp] theorem fX_mkR (d a b : BitVec 7) (x : BitVec 3) : fX (mkR d a b x) = x := by
  apply BitVec.eq_of_toNat_eq; rw [fX, field_toNat, mkR_toNat]; omega
@[simp] theorem fD_mkI (d a : BitVec 7) (i : BitVec 10) : fD (mkI d a i) = d := by
  apply BitVec.eq_of_toNat_eq; rw [fD, field_toNat, mkI_toNat]; omega
@[simp] theorem fA_mkI (d a : BitVec 7) (i : BitVec 10) : fA (mkI d a i) = a := by
  apply BitVec.eq_of_toNat_eq; rw [fA, field_toNat, mkI_toNat]; omega
@[simp] theorem fI_mkI (d a : BitVec 7) (i : BitVec 10) : fI (mkI d a i) = i := by
  apply BitVec.eq_of_toNat_eq; rw [fI, field_toNat, mkI_toNat]; omega
@[simp] theorem fD_mkL (d : BitVec 7) (i : BitVec 17) : fD (mkL d i) = d := by
  apply BitVec.eq_of_toNat_eq; rw [fD, field_toNat, mkL_toNat]; omega
@[simp] theorem fL_mkL (d : BitVec 7) (i : BitVec 17) : fL (mkL d i) = i := by
  apply BitVec.eq_of_toNat_eq; rw [fL, field_toNat, mkL_toNat]; omega
@[simp] theorem fQ_mkB (q : BitVec 3) (o : BitVec 21) : fQ (mkB q o) = q := by
  apply BitVec.eq_of_toNat_eq; rw [fQ, field_toNat, mkB_toNat]; omega
@[simp] theorem fO_mkB (q : BitVec 3) (o : BitVec 21) : fO (mkB q o) = o := by
  apply BitVec.eq_of_toNat_eq; rw [fO, field_toNat, mkB_toNat]; omega
@[simp] theorem mask_mkLR (m : BitVec 8) (o : BitVec 16) : (mkLR m o).extractLsb' 16 8 = m := by
  apply BitVec.eq_of_toNat_eq; rw [field_toNat, mkLR_toNat]; omega
@[simp] theorem off_mkLR (m : BitVec 8) (o : BitVec 16) : (mkLR m o).extractLsb' 0 16 = o := by
  apply BitVec.eq_of_toNat_eq; rw [field_toNat, mkLR_toNat]; omega
@[simp] theorem high_mkCnt (d a : BitVec 7) (c : BitVec 6) : (mkI d a (mkCnt c)).extractLsb' 6 4 = 0 := by
  apply BitVec.eq_of_toNat_eq; rw [field_toNat, mkI_toNat, mkCnt_toNat]; simp; omega
@[simp] theorem cnt_mkCnt (d a : BitVec 7) (c : BitVec 6) : (mkI d a (mkCnt c)).extractLsb' 0 6 = c := by
  apply BitVec.eq_of_toNat_eq; rw [field_toNat, mkI_toNat, mkCnt_toNat]; omega
@[simp] theorem top_mkC (c : SCond) (q : BitVec 3) (a : BitVec 7) (i : BitVec 10) : (mkC c q a i).extractLsb' 23 1 = 0 := by
  apply BitVec.eq_of_toNat_eq; rw [field_toNat, mkC_toNat]; simp; omega
@[simp] theorem cond_mkC (c : SCond) (q : BitVec 3) (a : BitVec 7) (i : BitVec 10) :
    (mkC c q a i).extractLsb' 20 3 = c.code := by
  apply BitVec.eq_of_toNat_eq; rw [field_toNat, mkC_toNat]; omega
@[simp] theorem qd_mkC (c : SCond) (q : BitVec 3) (a : BitVec 7) (i : BitVec 10) : (mkC c q a i).extractLsb' 17 3 = q := by
  apply BitVec.eq_of_toNat_eq; rw [field_toNat, mkC_toNat]; omega
@[simp] theorem fA_mkC (c : SCond) (q : BitVec 3) (a : BitVec 7) (i : BitVec 10) : fA (mkC c q a i) = a := by
  apply BitVec.eq_of_toNat_eq; rw [fA, field_toNat, mkC_toNat]; omega
@[simp] theorem fI_mkC (c : SCond) (q : BitVec 3) (a : BitVec 7) (i : BitVec 10) : fI (mkC c q a i) = i := by
  apply BitVec.eq_of_toNat_eq; rw [fI, field_toNat, mkC_toNat]; omega
@[simp] theorem fB_mkC (c : SCond) (q : BitVec 3) (a b : BitVec 7) (x : BitVec 3) : fB (mkC c q a (mkBX b x)) = b := by
  apply BitVec.eq_of_toNat_eq; rw [fB, field_toNat, mkC_toNat, mkBX_toNat]; omega
@[simp] theorem fX_mkC (c : SCond) (q : BitVec 3) (a b : BitVec 7) (x : BitVec 3) : fX (mkC c q a (mkBX b x)) = x := by
  apply BitVec.eq_of_toNat_eq; rw [fX, field_toNat, mkC_toNat, mkBX_toNat]; omega

/-! ### The lane word -/

theorem joinL0_toNat (r : RawL) : (joinL0 r).toNat =
    (if r.sw then 1 else 0) * 2 ^ 31 + r.grp.toNat * 2 ^ 27 + r.fn.toNat * 2 ^ 21 + (if r.g then 1 else 0) * 2 ^ 20 +
    (if r.n then 1 else 0) * 2 ^ 19 + r.p.toNat * 2 ^ 15 + r.vd.toNat * 2 ^ 6 + r.ma.toNat := by
  have h : (joinL0 r).toNat = (((((((if r.sw then 1 else 0) * 2 ^ 4 + r.grp.toNat) * 2 ^ 6 + r.fn.toNat) * 2 ^ 1 +
      (if r.g then 1 else 0)) * 2 ^ 1 + (if r.n then 1 else 0)) * 2 ^ 4 + r.p.toNat) * 2 ^ 9 + r.vd.toNat) * 2 ^ 6 + r.ma.toNat := by
    unfold joinL0
    rw [append_toNat, append_toNat, append_toNat, append_toNat, append_toNat, append_toNat, append_toNat,
      ofBool_toNat', ofBool_toNat', ofBool_toNat']
  omega

set_option maxRecDepth 4000 in
theorem joinL1_toNat (r : RawL) : (joinL1 r).toNat =
    (if r.ka then 1 else 0) * 2 ^ 31 + r.mb.toNat * 2 ^ 27 + r.vc.toNat * 2 ^ 18 + r.vb.toNat * 2 ^ 9 + r.va.toNat := by
  have h : (joinL1 r).toNat = ((((if r.ka then 1 else 0) * 2 ^ 4 + r.mb.toNat) * 2 ^ 9 + r.vc.toNat) * 2 ^ 9 + r.vb.toNat) * 2 ^ 9 +
      r.va.toNat := by
    unfold joinL1
    rw [append_toNat, append_toNat, append_toNat, append_toNat, ofBool_toNat']
  omega

@[simp] theorem splitL_joinL (r : RawL) : splitL (joinL0 r) (joinL1 r) r.w2 = r := by
  have h0 := joinL0_toNat r
  have h1 := joinL1_toNat r
  obtain ⟨sw, grp, fn, g, n, p, vd, ma, ka, mb, vc, vb, va, w2⟩ := r
  simp only at h0 h1
  have b1 := grp.isLt
  have b2 := fn.isLt
  have b3 := p.isLt
  have b4 := vd.isLt
  have b5 := ma.isLt
  have b6 := mb.isLt
  have b7 := vc.isLt
  have b8 := vb.isLt
  have b9 := va.isLt
  have c1 : (if sw then 1 else 0) < 2 := by split <;> omega
  have c2 : (if g then 1 else 0) < 2 := by split <;> omega
  have c3 : (if n then 1 else 0) < 2 := by split <;> omega
  have c4 : (if ka then 1 else 0) < 2 := by split <;> omega
  have back (b : Bool) : decide ((if b then 1 else 0) = 1) = b := by cases b <;> rfl
  simp only [splitL, RawL.mk.injEq, and_true]
  refine ⟨?_, ?_, ?_, ?_, ?_, ?_, ?_, ?_, ?_, ?_, ?_, ?_, ?_⟩
  · rw [bit_field, h0]; exact (congrArg (fun x : Nat => decide (x = 1)) (by omega)).trans (back sw)
  · apply BitVec.eq_of_toNat_eq; rw [field_toNat, h0]; omega
  · apply BitVec.eq_of_toNat_eq; rw [field_toNat, h0]; omega
  · rw [bit_field, h0]; exact (congrArg (fun x : Nat => decide (x = 1)) (by omega)).trans (back g)
  · rw [bit_field, h0]; exact (congrArg (fun x : Nat => decide (x = 1)) (by omega)).trans (back n)
  · apply BitVec.eq_of_toNat_eq; rw [field_toNat, h0]; omega
  · apply BitVec.eq_of_toNat_eq; rw [field_toNat, h0]; omega
  · apply BitVec.eq_of_toNat_eq; rw [field_toNat, h0]; omega
  · rw [bit_field, h1]; exact (congrArg (fun x : Nat => decide (x = 1)) (by omega)).trans (back ka)
  · apply BitVec.eq_of_toNat_eq; rw [field_toNat, h1]; omega
  · apply BitVec.eq_of_toNat_eq; rw [field_toNat, h1]; omega
  · apply BitVec.eq_of_toNat_eq; rw [field_toNat, h1]; omega
  · apply BitVec.eq_of_toNat_eq; rw [field_toNat, h1]; omega

theorem joinL_splitL (w0 w1 w2 : W32) : joinL0 (splitL w0 w1 w2) = w0 ∧ joinL1 (splitL w0 w1 w2) = w1 := by
  have back (n : Nat) (h : n < 2) : (if decide (n = 1) = true then 1 else 0) = n := by
    rcases (by omega : n = 0 ∨ n = 1) with rfl | rfl <;> rfl
  have l0 := w0.isLt
  have l1 := w1.isLt
  constructor
  · apply BitVec.eq_of_toNat_eq
    rw [joinL0_toNat]
    simp only [splitL, bit_field, field_toNat]
    rw [back _ (by omega), back _ (by omega), back _ (by omega)]
    omega
  · apply BitVec.eq_of_toNat_eq
    rw [joinL1_toNat]
    simp only [splitL, bit_field, field_toNat]
    rw [back _ (by omega)]
    omega

/-! ### Codes -/

@[simp] theorem Ty.ofCode_code (x : Ty) : Ty.ofCode x.code = x := by cases x <;> rfl
@[simp] theorem Pk.ofCode_code (x : Pk) : Pk.ofCode x.code = some x := by cases x <;> rfl
@[simp] theorem Rm.ofCode_code (x : Rm) : Rm.ofCode x.code = some x := by cases x <;> rfl
@[simp] theorem Scope.ofCode_code (x : Scope) : Scope.ofCode x.code = some x := by cases x <;> rfl
@[simp] theorem Ord.ofCode_code (x : Ord) : Ord.ofCode x.code = x := by cases x <;> rfl
@[simp] theorem Wd.ofCode_code (x : Wd) : Wd.ofCode x.code = x := by cases x <;> rfl
@[simp] theorem Dt.ofCode_code (x : Dt) : Dt.ofCode x.code = some x := by cases x <;> rfl
@[simp] theorem ICond.ofCode_code (x : ICond) : ICond.ofCode x.code = some x := by cases x <;> rfl
@[simp] theorem FCond.ofCode_code (x : FCond) : FCond.ofCode x.code = x := by cases x <;> rfl
@[simp] theorem SCond.ofCode_code (x : SCond) : SCond.ofCode x.code = x := by cases x <;> rfl
@[simp] theorem AOp.ofCode_code (x : AOp) : AOp.ofCode x.code = some x := by cases x <;> rfl
@[simp] theorem BarOp.ofCode_code (x : BarOp) : BarOp.ofCode x.code = some x := by cases x <;> rfl
@[simp] theorem Level.ofCode_code (x : Level) : Level.ofCode x.code = some x := by cases x <;> rfl
@[simp] theorem RedOp.ofCode_code (x : RedOp) : RedOp.ofCode x.code = some x := by cases x <;> rfl
@[simp] theorem XOp.ofCode_code (x : XOp) : XOp.ofCode x.code = x := by cases x <;> rfl
@[simp] theorem VMode.ofCode_code (x : VMode) : VMode.ofCode x.code = some x := by cases x <;> rfl

end Sys2Proof
end

