-- ==== Sys2Proof/Laws/State.lean ====
section
/-!
SUPPORT. One lemma for every field of State and every update of a part of it: what the update leaves, and what it changes.
-/

namespace Sys2Proof.Machine

/-! ### putCore -/

@[simp] theorem State.putCore_turn (s : State) (n : Nat) (x : Core) : (s.putCore n x).turn = s.turn := rfl
@[simp] theorem State.putCore_agenda (s : State) (n : Nat) (x : Core) : (s.putCore n x).agenda = s.agenda := rfl
@[simp] theorem State.putCore_draws (s : State) (n : Nat) (x : Core) : (s.putCore n x).draws = s.draws := rfl
@[simp] theorem State.putCore_nextUid (s : State) (n : Nat) (x : Core) : (s.putCore n x).nextUid = s.nextUid := rfl
@[simp] theorem State.putCore_powered (s : State) (n : Nat) (x : Core) : (s.putCore n x).powered = s.powered := rfl
@[simp] theorem State.putCore_fuses (s : State) (n : Nat) (x : Core) : (s.putCore n x).fuses = s.fuses := rfl
@[simp] theorem State.putCore_ident (s : State) (n : Nat) (x : Core) : (s.putCore n x).ident = s.ident := rfl
@[simp] theorem State.putCore_clk (s : State) (n : Nat) (x : Core) : (s.putCore n x).clk = s.clk := rfl
@[simp] theorem State.putCore_mem (s : State) (n : Nat) (x : Core) : (s.putCore n x).mem = s.mem := rfl
@[simp] theorem State.putCore_poison (s : State) (n : Nat) (x : Core) : (s.putCore n x).poison = s.poison := rfl
@[simp] theorem State.putCore_hostMap (s : State) (n : Nat) (x : Core) : (s.putCore n x).hostMap = s.hostMap := rfl
@[simp] theorem State.putCore_worlds (s : State) (n : Nat) (x : Core) : (s.putCore n x).worlds = s.worlds := rfl
@[simp] theorem State.putCore_spaces (s : State) (n : Nat) (x : Core) : (s.putCore n x).spaces = s.spaces := rfl
@[simp] theorem State.putCore_queues (s : State) (n : Nat) (x : Core) : (s.putCore n x).queues = s.queues := rfl
@[simp] theorem State.putCore_round (s : State) (n : Nat) (x : Core) : (s.putCore n x).round = s.round := rfl
@[simp] theorem State.putCore_bells (s : State) (n : Nat) (x : Core) : (s.putCore n x).bells = s.bells := rfl
@[simp] theorem State.putCore_notify (s : State) (n : Nat) (x : Core) : (s.putCore n x).notify = s.notify := rfl
@[simp] theorem State.putCore_drives (s : State) (n : Nat) (x : Core) : (s.putCore n x).drives = s.drives := rfl
@[simp] theorem State.putCore_mbox (s : State) (n : Nat) (x : Core) : (s.putCore n x).mbox = s.mbox := rfl
@[simp] theorem State.putCore_units (s : State) (n : Nat) (x : Core) : (s.putCore n x).units = s.units := rfl
@[simp] theorem State.putCore_launches (s : State) (n : Nat) (x : Core) : (s.putCore n x).launches = s.launches := rfl
@[simp] theorem State.putCore_saves (s : State) (n : Nat) (x : Core) : (s.putCore n x).saves = s.saves := rfl
@[simp] theorem State.putCore_blocks (s : State) (n : Nat) (x : Core) : (s.putCore n x).blocks = s.blocks := rfl
@[simp] theorem State.putCore_clusters (s : State) (n : Nat) (x : Core) : (s.putCore n x).clusters = s.clusters := rfl
@[simp] theorem State.putCore_crews (s : State) (n : Nat) (x : Core) : (s.putCore n x).crews = s.crews := rfl
@[simp] theorem State.putCore_cores (s : State) (n : Nat) (x : Core) : (s.putCore n x).cores = listSet s.cores n x := rfl
@[simp] theorem State.putCore_sup (s : State) (n : Nat) (x : Core) : (s.putCore n x).sup = s.sup := rfl
@[simp] theorem State.putCore_ctls (s : State) (n : Nat) (x : Core) : (s.putCore n x).ctls = s.ctls := rfl
@[simp] theorem State.putCore_reqs (s : State) (n : Nat) (x : Core) : (s.putCore n x).reqs = s.reqs := rfl
@[simp] theorem State.putCore_fore (s : State) (n : Nat) (x : Core) : (s.putCore n x).fore = s.fore := rfl
@[simp] theorem State.putCore_porter (s : State) (n : Nat) (x : Core) : (s.putCore n x).porter = s.porter := rfl
@[simp] theorem State.putCore_links (s : State) (n : Nat) (x : Core) : (s.putCore n x).links = s.links := rfl
@[simp] theorem State.putCore_peers (s : State) (n : Nat) (x : Core) : (s.putCore n x).peers = s.peers := rfl

/-! ### putCtl -/

@[simp] theorem State.putCtl_turn (s : State) (n : Nat) (x : Ctl) : (s.putCtl n x).turn = s.turn := rfl
@[simp] theorem State.putCtl_agenda (s : State) (n : Nat) (x : Ctl) : (s.putCtl n x).agenda = s.agenda := rfl
@[simp] theorem State.putCtl_draws (s : State) (n : Nat) (x : Ctl) : (s.putCtl n x).draws = s.draws := rfl
@[simp] theorem State.putCtl_nextUid (s : State) (n : Nat) (x : Ctl) : (s.putCtl n x).nextUid = s.nextUid := rfl
@[simp] theorem State.putCtl_powered (s : State) (n : Nat) (x : Ctl) : (s.putCtl n x).powered = s.powered := rfl
@[simp] theorem State.putCtl_fuses (s : State) (n : Nat) (x : Ctl) : (s.putCtl n x).fuses = s.fuses := rfl
@[simp] theorem State.putCtl_ident (s : State) (n : Nat) (x : Ctl) : (s.putCtl n x).ident = s.ident := rfl
@[simp] theorem State.putCtl_clk (s : State) (n : Nat) (x : Ctl) : (s.putCtl n x).clk = s.clk := rfl
@[simp] theorem State.putCtl_mem (s : State) (n : Nat) (x : Ctl) : (s.putCtl n x).mem = s.mem := rfl
@[simp] theorem State.putCtl_poison (s : State) (n : Nat) (x : Ctl) : (s.putCtl n x).poison = s.poison := rfl
@[simp] theorem State.putCtl_hostMap (s : State) (n : Nat) (x : Ctl) : (s.putCtl n x).hostMap = s.hostMap := rfl
@[simp] theorem State.putCtl_worlds (s : State) (n : Nat) (x : Ctl) : (s.putCtl n x).worlds = s.worlds := rfl
@[simp] theorem State.putCtl_spaces (s : State) (n : Nat) (x : Ctl) : (s.putCtl n x).spaces = s.spaces := rfl
@[simp] theorem State.putCtl_queues (s : State) (n : Nat) (x : Ctl) : (s.putCtl n x).queues = s.queues := rfl
@[simp] theorem State.putCtl_round (s : State) (n : Nat) (x : Ctl) : (s.putCtl n x).round = s.round := rfl
@[simp] theorem State.putCtl_bells (s : State) (n : Nat) (x : Ctl) : (s.putCtl n x).bells = s.bells := rfl
@[simp] theorem State.putCtl_notify (s : State) (n : Nat) (x : Ctl) : (s.putCtl n x).notify = s.notify := rfl
@[simp] theorem State.putCtl_drives (s : State) (n : Nat) (x : Ctl) : (s.putCtl n x).drives = s.drives := rfl
@[simp] theorem State.putCtl_mbox (s : State) (n : Nat) (x : Ctl) : (s.putCtl n x).mbox = s.mbox := rfl
@[simp] theorem State.putCtl_units (s : State) (n : Nat) (x : Ctl) : (s.putCtl n x).units = s.units := rfl
@[simp] theorem State.putCtl_launches (s : State) (n : Nat) (x : Ctl) : (s.putCtl n x).launches = s.launches := rfl
@[simp] theorem State.putCtl_saves (s : State) (n : Nat) (x : Ctl) : (s.putCtl n x).saves = s.saves := rfl
@[simp] theorem State.putCtl_blocks (s : State) (n : Nat) (x : Ctl) : (s.putCtl n x).blocks = s.blocks := rfl
@[simp] theorem State.putCtl_clusters (s : State) (n : Nat) (x : Ctl) : (s.putCtl n x).clusters = s.clusters := rfl
@[simp] theorem State.putCtl_crews (s : State) (n : Nat) (x : Ctl) : (s.putCtl n x).crews = s.crews := rfl
@[simp] theorem State.putCtl_cores (s : State) (n : Nat) (x : Ctl) : (s.putCtl n x).cores = s.cores := rfl
@[simp] theorem State.putCtl_sup (s : State) (n : Nat) (x : Ctl) : (s.putCtl n x).sup = s.sup := rfl
@[simp] theorem State.putCtl_ctls (s : State) (n : Nat) (x : Ctl) : (s.putCtl n x).ctls = listSet s.ctls n x := rfl
@[simp] theorem State.putCtl_reqs (s : State) (n : Nat) (x : Ctl) : (s.putCtl n x).reqs = s.reqs := rfl
@[simp] theorem State.putCtl_fore (s : State) (n : Nat) (x : Ctl) : (s.putCtl n x).fore = s.fore := rfl
@[simp] theorem State.putCtl_porter (s : State) (n : Nat) (x : Ctl) : (s.putCtl n x).porter = s.porter := rfl
@[simp] theorem State.putCtl_links (s : State) (n : Nat) (x : Ctl) : (s.putCtl n x).links = s.links := rfl
@[simp] theorem State.putCtl_peers (s : State) (n : Nat) (x : Ctl) : (s.putCtl n x).peers = s.peers := rfl

/-! ### putSpace -/

@[simp] theorem State.putSpace_turn (s : State) (n : Nat) (x : Space) : (s.putSpace n x).turn = s.turn := rfl
@[simp] theorem State.putSpace_agenda (s : State) (n : Nat) (x : Space) : (s.putSpace n x).agenda = s.agenda := rfl
@[simp] theorem State.putSpace_draws (s : State) (n : Nat) (x : Space) : (s.putSpace n x).draws = s.draws := rfl
@[simp] theorem State.putSpace_nextUid (s : State) (n : Nat) (x : Space) : (s.putSpace n x).nextUid = s.nextUid := rfl
@[simp] theorem State.putSpace_powered (s : State) (n : Nat) (x : Space) : (s.putSpace n x).powered = s.powered := rfl
@[simp] theorem State.putSpace_fuses (s : State) (n : Nat) (x : Space) : (s.putSpace n x).fuses = s.fuses := rfl
@[simp] theorem State.putSpace_ident (s : State) (n : Nat) (x : Space) : (s.putSpace n x).ident = s.ident := rfl
@[simp] theorem State.putSpace_clk (s : State) (n : Nat) (x : Space) : (s.putSpace n x).clk = s.clk := rfl
@[simp] theorem State.putSpace_mem (s : State) (n : Nat) (x : Space) : (s.putSpace n x).mem = s.mem := rfl
@[simp] theorem State.putSpace_poison (s : State) (n : Nat) (x : Space) : (s.putSpace n x).poison = s.poison := rfl
@[simp] theorem State.putSpace_hostMap (s : State) (n : Nat) (x : Space) : (s.putSpace n x).hostMap = s.hostMap := rfl
@[simp] theorem State.putSpace_worlds (s : State) (n : Nat) (x : Space) : (s.putSpace n x).worlds = s.worlds := rfl
@[simp] theorem State.putSpace_spaces (s : State) (n : Nat) (x : Space) : (s.putSpace n x).spaces = listSet s.spaces n x := rfl
@[simp] theorem State.putSpace_queues (s : State) (n : Nat) (x : Space) : (s.putSpace n x).queues = s.queues := rfl
@[simp] theorem State.putSpace_round (s : State) (n : Nat) (x : Space) : (s.putSpace n x).round = s.round := rfl
@[simp] theorem State.putSpace_bells (s : State) (n : Nat) (x : Space) : (s.putSpace n x).bells = s.bells := rfl
@[simp] theorem State.putSpace_notify (s : State) (n : Nat) (x : Space) : (s.putSpace n x).notify = s.notify := rfl
@[simp] theorem State.putSpace_drives (s : State) (n : Nat) (x : Space) : (s.putSpace n x).drives = s.drives := rfl
@[simp] theorem State.putSpace_mbox (s : State) (n : Nat) (x : Space) : (s.putSpace n x).mbox = s.mbox := rfl
@[simp] theorem State.putSpace_units (s : State) (n : Nat) (x : Space) : (s.putSpace n x).units = s.units := rfl
@[simp] theorem State.putSpace_launches (s : State) (n : Nat) (x : Space) : (s.putSpace n x).launches = s.launches := rfl
@[simp] theorem State.putSpace_saves (s : State) (n : Nat) (x : Space) : (s.putSpace n x).saves = s.saves := rfl
@[simp] theorem State.putSpace_blocks (s : State) (n : Nat) (x : Space) : (s.putSpace n x).blocks = s.blocks := rfl
@[simp] theorem State.putSpace_clusters (s : State) (n : Nat) (x : Space) : (s.putSpace n x).clusters = s.clusters := rfl
@[simp] theorem State.putSpace_crews (s : State) (n : Nat) (x : Space) : (s.putSpace n x).crews = s.crews := rfl
@[simp] theorem State.putSpace_cores (s : State) (n : Nat) (x : Space) : (s.putSpace n x).cores = s.cores := rfl
@[simp] theorem State.putSpace_sup (s : State) (n : Nat) (x : Space) : (s.putSpace n x).sup = s.sup := rfl
@[simp] theorem State.putSpace_ctls (s : State) (n : Nat) (x : Space) : (s.putSpace n x).ctls = s.ctls := rfl
@[simp] theorem State.putSpace_reqs (s : State) (n : Nat) (x : Space) : (s.putSpace n x).reqs = s.reqs := rfl
@[simp] theorem State.putSpace_fore (s : State) (n : Nat) (x : Space) : (s.putSpace n x).fore = s.fore := rfl
@[simp] theorem State.putSpace_porter (s : State) (n : Nat) (x : Space) : (s.putSpace n x).porter = s.porter := rfl
@[simp] theorem State.putSpace_links (s : State) (n : Nat) (x : Space) : (s.putSpace n x).links = s.links := rfl
@[simp] theorem State.putSpace_peers (s : State) (n : Nat) (x : Space) : (s.putSpace n x).peers = s.peers := rfl

/-! ### putQueue -/

@[simp] theorem State.putQueue_turn (s : State) (n : Nat) (x : Queue) : (s.putQueue n x).turn = s.turn := rfl
@[simp] theorem State.putQueue_agenda (s : State) (n : Nat) (x : Queue) : (s.putQueue n x).agenda = s.agenda := rfl
@[simp] theorem State.putQueue_draws (s : State) (n : Nat) (x : Queue) : (s.putQueue n x).draws = s.draws := rfl
@[simp] theorem State.putQueue_nextUid (s : State) (n : Nat) (x : Queue) : (s.putQueue n x).nextUid = s.nextUid := rfl
@[simp] theorem State.putQueue_powered (s : State) (n : Nat) (x : Queue) : (s.putQueue n x).powered = s.powered := rfl
@[simp] theorem State.putQueue_fuses (s : State) (n : Nat) (x : Queue) : (s.putQueue n x).fuses = s.fuses := rfl
@[simp] theorem State.putQueue_ident (s : State) (n : Nat) (x : Queue) : (s.putQueue n x).ident = s.ident := rfl
@[simp] theorem State.putQueue_clk (s : State) (n : Nat) (x : Queue) : (s.putQueue n x).clk = s.clk := rfl
@[simp] theorem State.putQueue_mem (s : State) (n : Nat) (x : Queue) : (s.putQueue n x).mem = s.mem := rfl
@[simp] theorem State.putQueue_poison (s : State) (n : Nat) (x : Queue) : (s.putQueue n x).poison = s.poison := rfl
@[simp] theorem State.putQueue_hostMap (s : State) (n : Nat) (x : Queue) : (s.putQueue n x).hostMap = s.hostMap := rfl
@[simp] theorem State.putQueue_worlds (s : State) (n : Nat) (x : Queue) : (s.putQueue n x).worlds = s.worlds := rfl
@[simp] theorem State.putQueue_spaces (s : State) (n : Nat) (x : Queue) : (s.putQueue n x).spaces = s.spaces := rfl
@[simp] theorem State.putQueue_queues (s : State) (n : Nat) (x : Queue) : (s.putQueue n x).queues = listSet s.queues n x := rfl
@[simp] theorem State.putQueue_round (s : State) (n : Nat) (x : Queue) : (s.putQueue n x).round = s.round := rfl
@[simp] theorem State.putQueue_bells (s : State) (n : Nat) (x : Queue) : (s.putQueue n x).bells = s.bells := rfl
@[simp] theorem State.putQueue_notify (s : State) (n : Nat) (x : Queue) : (s.putQueue n x).notify = s.notify := rfl
@[simp] theorem State.putQueue_drives (s : State) (n : Nat) (x : Queue) : (s.putQueue n x).drives = s.drives := rfl
@[simp] theorem State.putQueue_mbox (s : State) (n : Nat) (x : Queue) : (s.putQueue n x).mbox = s.mbox := rfl
@[simp] theorem State.putQueue_units (s : State) (n : Nat) (x : Queue) : (s.putQueue n x).units = s.units := rfl
@[simp] theorem State.putQueue_launches (s : State) (n : Nat) (x : Queue) : (s.putQueue n x).launches = s.launches := rfl
@[simp] theorem State.putQueue_saves (s : State) (n : Nat) (x : Queue) : (s.putQueue n x).saves = s.saves := rfl
@[simp] theorem State.putQueue_blocks (s : State) (n : Nat) (x : Queue) : (s.putQueue n x).blocks = s.blocks := rfl
@[simp] theorem State.putQueue_clusters (s : State) (n : Nat) (x : Queue) : (s.putQueue n x).clusters = s.clusters := rfl
@[simp] theorem State.putQueue_crews (s : State) (n : Nat) (x : Queue) : (s.putQueue n x).crews = s.crews := rfl
@[simp] theorem State.putQueue_cores (s : State) (n : Nat) (x : Queue) : (s.putQueue n x).cores = s.cores := rfl
@[simp] theorem State.putQueue_sup (s : State) (n : Nat) (x : Queue) : (s.putQueue n x).sup = s.sup := rfl
@[simp] theorem State.putQueue_ctls (s : State) (n : Nat) (x : Queue) : (s.putQueue n x).ctls = s.ctls := rfl
@[simp] theorem State.putQueue_reqs (s : State) (n : Nat) (x : Queue) : (s.putQueue n x).reqs = s.reqs := rfl
@[simp] theorem State.putQueue_fore (s : State) (n : Nat) (x : Queue) : (s.putQueue n x).fore = s.fore := rfl
@[simp] theorem State.putQueue_porter (s : State) (n : Nat) (x : Queue) : (s.putQueue n x).porter = s.porter := rfl
@[simp] theorem State.putQueue_links (s : State) (n : Nat) (x : Queue) : (s.putQueue n x).links = s.links := rfl
@[simp] theorem State.putQueue_peers (s : State) (n : Nat) (x : Queue) : (s.putQueue n x).peers = s.peers := rfl

/-! ### putDrive -/

@[simp] theorem State.putDrive_turn (s : State) (n : Nat) (x : Drive) : (s.putDrive n x).turn = s.turn := rfl
@[simp] theorem State.putDrive_agenda (s : State) (n : Nat) (x : Drive) : (s.putDrive n x).agenda = s.agenda := rfl
@[simp] theorem State.putDrive_draws (s : State) (n : Nat) (x : Drive) : (s.putDrive n x).draws = s.draws := rfl
@[simp] theorem State.putDrive_nextUid (s : State) (n : Nat) (x : Drive) : (s.putDrive n x).nextUid = s.nextUid := rfl
@[simp] theorem State.putDrive_powered (s : State) (n : Nat) (x : Drive) : (s.putDrive n x).powered = s.powered := rfl
@[simp] theorem State.putDrive_fuses (s : State) (n : Nat) (x : Drive) : (s.putDrive n x).fuses = s.fuses := rfl
@[simp] theorem State.putDrive_ident (s : State) (n : Nat) (x : Drive) : (s.putDrive n x).ident = s.ident := rfl
@[simp] theorem State.putDrive_clk (s : State) (n : Nat) (x : Drive) : (s.putDrive n x).clk = s.clk := rfl
@[simp] theorem State.putDrive_mem (s : State) (n : Nat) (x : Drive) : (s.putDrive n x).mem = s.mem := rfl
@[simp] theorem State.putDrive_poison (s : State) (n : Nat) (x : Drive) : (s.putDrive n x).poison = s.poison := rfl
@[simp] theorem State.putDrive_hostMap (s : State) (n : Nat) (x : Drive) : (s.putDrive n x).hostMap = s.hostMap := rfl
@[simp] theorem State.putDrive_worlds (s : State) (n : Nat) (x : Drive) : (s.putDrive n x).worlds = s.worlds := rfl
@[simp] theorem State.putDrive_spaces (s : State) (n : Nat) (x : Drive) : (s.putDrive n x).spaces = s.spaces := rfl
@[simp] theorem State.putDrive_queues (s : State) (n : Nat) (x : Drive) : (s.putDrive n x).queues = s.queues := rfl
@[simp] theorem State.putDrive_round (s : State) (n : Nat) (x : Drive) : (s.putDrive n x).round = s.round := rfl
@[simp] theorem State.putDrive_bells (s : State) (n : Nat) (x : Drive) : (s.putDrive n x).bells = s.bells := rfl
@[simp] theorem State.putDrive_notify (s : State) (n : Nat) (x : Drive) : (s.putDrive n x).notify = s.notify := rfl
@[simp] theorem State.putDrive_drives (s : State) (n : Nat) (x : Drive) : (s.putDrive n x).drives = listSet s.drives n x := rfl
@[simp] theorem State.putDrive_mbox (s : State) (n : Nat) (x : Drive) : (s.putDrive n x).mbox = s.mbox := rfl
@[simp] theorem State.putDrive_units (s : State) (n : Nat) (x : Drive) : (s.putDrive n x).units = s.units := rfl
@[simp] theorem State.putDrive_launches (s : State) (n : Nat) (x : Drive) : (s.putDrive n x).launches = s.launches := rfl
@[simp] theorem State.putDrive_saves (s : State) (n : Nat) (x : Drive) : (s.putDrive n x).saves = s.saves := rfl
@[simp] theorem State.putDrive_blocks (s : State) (n : Nat) (x : Drive) : (s.putDrive n x).blocks = s.blocks := rfl
@[simp] theorem State.putDrive_clusters (s : State) (n : Nat) (x : Drive) : (s.putDrive n x).clusters = s.clusters := rfl
@[simp] theorem State.putDrive_crews (s : State) (n : Nat) (x : Drive) : (s.putDrive n x).crews = s.crews := rfl
@[simp] theorem State.putDrive_cores (s : State) (n : Nat) (x : Drive) : (s.putDrive n x).cores = s.cores := rfl
@[simp] theorem State.putDrive_sup (s : State) (n : Nat) (x : Drive) : (s.putDrive n x).sup = s.sup := rfl
@[simp] theorem State.putDrive_ctls (s : State) (n : Nat) (x : Drive) : (s.putDrive n x).ctls = s.ctls := rfl
@[simp] theorem State.putDrive_reqs (s : State) (n : Nat) (x : Drive) : (s.putDrive n x).reqs = s.reqs := rfl
@[simp] theorem State.putDrive_fore (s : State) (n : Nat) (x : Drive) : (s.putDrive n x).fore = s.fore := rfl
@[simp] theorem State.putDrive_porter (s : State) (n : Nat) (x : Drive) : (s.putDrive n x).porter = s.porter := rfl
@[simp] theorem State.putDrive_links (s : State) (n : Nat) (x : Drive) : (s.putDrive n x).links = s.links := rfl
@[simp] theorem State.putDrive_peers (s : State) (n : Nat) (x : Drive) : (s.putDrive n x).peers = s.peers := rfl

/-! ### putCrew -/

@[simp] theorem State.putCrew_turn (s : State) (c : CrewRef) (x : Crew) : (s.putCrew c x).turn = s.turn := rfl
@[simp] theorem State.putCrew_agenda (s : State) (c : CrewRef) (x : Crew) : (s.putCrew c x).agenda = s.agenda := rfl
@[simp] theorem State.putCrew_draws (s : State) (c : CrewRef) (x : Crew) : (s.putCrew c x).draws = s.draws := rfl
@[simp] theorem State.putCrew_nextUid (s : State) (c : CrewRef) (x : Crew) : (s.putCrew c x).nextUid = s.nextUid := rfl
@[simp] theorem State.putCrew_powered (s : State) (c : CrewRef) (x : Crew) : (s.putCrew c x).powered = s.powered := rfl
@[simp] theorem State.putCrew_fuses (s : State) (c : CrewRef) (x : Crew) : (s.putCrew c x).fuses = s.fuses := rfl
@[simp] theorem State.putCrew_ident (s : State) (c : CrewRef) (x : Crew) : (s.putCrew c x).ident = s.ident := rfl
@[simp] theorem State.putCrew_clk (s : State) (c : CrewRef) (x : Crew) : (s.putCrew c x).clk = s.clk := rfl
@[simp] theorem State.putCrew_mem (s : State) (c : CrewRef) (x : Crew) : (s.putCrew c x).mem = s.mem := rfl
@[simp] theorem State.putCrew_poison (s : State) (c : CrewRef) (x : Crew) : (s.putCrew c x).poison = s.poison := rfl
@[simp] theorem State.putCrew_hostMap (s : State) (c : CrewRef) (x : Crew) : (s.putCrew c x).hostMap = s.hostMap := rfl
@[simp] theorem State.putCrew_worlds (s : State) (c : CrewRef) (x : Crew) : (s.putCrew c x).worlds = s.worlds := rfl
@[simp] theorem State.putCrew_spaces (s : State) (c : CrewRef) (x : Crew) : (s.putCrew c x).spaces = s.spaces := rfl
@[simp] theorem State.putCrew_queues (s : State) (c : CrewRef) (x : Crew) : (s.putCrew c x).queues = s.queues := rfl
@[simp] theorem State.putCrew_round (s : State) (c : CrewRef) (x : Crew) : (s.putCrew c x).round = s.round := rfl
@[simp] theorem State.putCrew_bells (s : State) (c : CrewRef) (x : Crew) : (s.putCrew c x).bells = s.bells := rfl
@[simp] theorem State.putCrew_notify (s : State) (c : CrewRef) (x : Crew) : (s.putCrew c x).notify = s.notify := rfl
@[simp] theorem State.putCrew_drives (s : State) (c : CrewRef) (x : Crew) : (s.putCrew c x).drives = s.drives := rfl
@[simp] theorem State.putCrew_mbox (s : State) (c : CrewRef) (x : Crew) : (s.putCrew c x).mbox = s.mbox := rfl
@[simp] theorem State.putCrew_units (s : State) (c : CrewRef) (x : Crew) : (s.putCrew c x).units = s.units := rfl
@[simp] theorem State.putCrew_launches (s : State) (c : CrewRef) (x : Crew) : (s.putCrew c x).launches = s.launches := rfl
@[simp] theorem State.putCrew_saves (s : State) (c : CrewRef) (x : Crew) : (s.putCrew c x).saves = s.saves := rfl
@[simp] theorem State.putCrew_blocks (s : State) (c : CrewRef) (x : Crew) : (s.putCrew c x).blocks = s.blocks := rfl
@[simp] theorem State.putCrew_clusters (s : State) (c : CrewRef) (x : Crew) : (s.putCrew c x).clusters = s.clusters := rfl
@[simp] theorem State.putCrew_crews (s : State) (c : CrewRef) (x : Crew) : (s.putCrew c x).crews = assocPut s.crews c x := rfl
@[simp] theorem State.putCrew_cores (s : State) (c : CrewRef) (x : Crew) : (s.putCrew c x).cores = s.cores := rfl
@[simp] theorem State.putCrew_sup (s : State) (c : CrewRef) (x : Crew) : (s.putCrew c x).sup = s.sup := rfl
@[simp] theorem State.putCrew_ctls (s : State) (c : CrewRef) (x : Crew) : (s.putCrew c x).ctls = s.ctls := rfl
@[simp] theorem State.putCrew_reqs (s : State) (c : CrewRef) (x : Crew) : (s.putCrew c x).reqs = s.reqs := rfl
@[simp] theorem State.putCrew_fore (s : State) (c : CrewRef) (x : Crew) : (s.putCrew c x).fore = s.fore := rfl
@[simp] theorem State.putCrew_porter (s : State) (c : CrewRef) (x : Crew) : (s.putCrew c x).porter = s.porter := rfl
@[simp] theorem State.putCrew_links (s : State) (c : CrewRef) (x : Crew) : (s.putCrew c x).links = s.links := rfl
@[simp] theorem State.putCrew_peers (s : State) (c : CrewRef) (x : Crew) : (s.putCrew c x).peers = s.peers := rfl

/-! ### dropCrew -/

@[simp] theorem State.dropCrew_turn (s : State) (c : CrewRef) : (s.dropCrew c).turn = s.turn := rfl
@[simp] theorem State.dropCrew_agenda (s : State) (c : CrewRef) : (s.dropCrew c).agenda = s.agenda := rfl
@[simp] theorem State.dropCrew_draws (s : State) (c : CrewRef) : (s.dropCrew c).draws = s.draws := rfl
@[simp] theorem State.dropCrew_nextUid (s : State) (c : CrewRef) : (s.dropCrew c).nextUid = s.nextUid := rfl
@[simp] theorem State.dropCrew_powered (s : State) (c : CrewRef) : (s.dropCrew c).powered = s.powered := rfl
@[simp] theorem State.dropCrew_fuses (s : State) (c : CrewRef) : (s.dropCrew c).fuses = s.fuses := rfl
@[simp] theorem State.dropCrew_ident (s : State) (c : CrewRef) : (s.dropCrew c).ident = s.ident := rfl
@[simp] theorem State.dropCrew_clk (s : State) (c : CrewRef) : (s.dropCrew c).clk = s.clk := rfl
@[simp] theorem State.dropCrew_mem (s : State) (c : CrewRef) : (s.dropCrew c).mem = s.mem := rfl
@[simp] theorem State.dropCrew_poison (s : State) (c : CrewRef) : (s.dropCrew c).poison = s.poison := rfl
@[simp] theorem State.dropCrew_hostMap (s : State) (c : CrewRef) : (s.dropCrew c).hostMap = s.hostMap := rfl
@[simp] theorem State.dropCrew_worlds (s : State) (c : CrewRef) : (s.dropCrew c).worlds = s.worlds := rfl
@[simp] theorem State.dropCrew_spaces (s : State) (c : CrewRef) : (s.dropCrew c).spaces = s.spaces := rfl
@[simp] theorem State.dropCrew_queues (s : State) (c : CrewRef) : (s.dropCrew c).queues = s.queues := rfl
@[simp] theorem State.dropCrew_round (s : State) (c : CrewRef) : (s.dropCrew c).round = s.round := rfl
@[simp] theorem State.dropCrew_bells (s : State) (c : CrewRef) : (s.dropCrew c).bells = s.bells := rfl
@[simp] theorem State.dropCrew_notify (s : State) (c : CrewRef) : (s.dropCrew c).notify = s.notify := rfl
@[simp] theorem State.dropCrew_drives (s : State) (c : CrewRef) : (s.dropCrew c).drives = s.drives := rfl
@[simp] theorem State.dropCrew_mbox (s : State) (c : CrewRef) : (s.dropCrew c).mbox = s.mbox := rfl
@[simp] theorem State.dropCrew_units (s : State) (c : CrewRef) : (s.dropCrew c).units = s.units := rfl
@[simp] theorem State.dropCrew_launches (s : State) (c : CrewRef) : (s.dropCrew c).launches = s.launches := rfl
@[simp] theorem State.dropCrew_saves (s : State) (c : CrewRef) : (s.dropCrew c).saves = s.saves := rfl
@[simp] theorem State.dropCrew_blocks (s : State) (c : CrewRef) : (s.dropCrew c).blocks = s.blocks := rfl
@[simp] theorem State.dropCrew_clusters (s : State) (c : CrewRef) : (s.dropCrew c).clusters = s.clusters := rfl
@[simp] theorem State.dropCrew_crews (s : State) (c : CrewRef) : (s.dropCrew c).crews = assocDel s.crews c := rfl
@[simp] theorem State.dropCrew_cores (s : State) (c : CrewRef) : (s.dropCrew c).cores = s.cores := rfl
@[simp] theorem State.dropCrew_sup (s : State) (c : CrewRef) : (s.dropCrew c).sup = s.sup := rfl
@[simp] theorem State.dropCrew_ctls (s : State) (c : CrewRef) : (s.dropCrew c).ctls = s.ctls := rfl
@[simp] theorem State.dropCrew_reqs (s : State) (c : CrewRef) : (s.dropCrew c).reqs = s.reqs := rfl
@[simp] theorem State.dropCrew_fore (s : State) (c : CrewRef) : (s.dropCrew c).fore = s.fore := rfl
@[simp] theorem State.dropCrew_porter (s : State) (c : CrewRef) : (s.dropCrew c).porter = s.porter := rfl
@[simp] theorem State.dropCrew_links (s : State) (c : CrewRef) : (s.dropCrew c).links = s.links := rfl
@[simp] theorem State.dropCrew_peers (s : State) (c : CrewRef) : (s.dropCrew c).peers = s.peers := rfl

/-! ### putBlock -/

@[simp] theorem State.putBlock_turn (s : State) (n : Nat) (x : Block) : (s.putBlock n x).turn = s.turn := rfl
@[simp] theorem State.putBlock_agenda (s : State) (n : Nat) (x : Block) : (s.putBlock n x).agenda = s.agenda := rfl
@[simp] theorem State.putBlock_draws (s : State) (n : Nat) (x : Block) : (s.putBlock n x).draws = s.draws := rfl
@[simp] theorem State.putBlock_nextUid (s : State) (n : Nat) (x : Block) : (s.putBlock n x).nextUid = s.nextUid := rfl
@[simp] theorem State.putBlock_powered (s : State) (n : Nat) (x : Block) : (s.putBlock n x).powered = s.powered := rfl
@[simp] theorem State.putBlock_fuses (s : State) (n : Nat) (x : Block) : (s.putBlock n x).fuses = s.fuses := rfl
@[simp] theorem State.putBlock_ident (s : State) (n : Nat) (x : Block) : (s.putBlock n x).ident = s.ident := rfl
@[simp] theorem State.putBlock_clk (s : State) (n : Nat) (x : Block) : (s.putBlock n x).clk = s.clk := rfl
@[simp] theorem State.putBlock_mem (s : State) (n : Nat) (x : Block) : (s.putBlock n x).mem = s.mem := rfl
@[simp] theorem State.putBlock_poison (s : State) (n : Nat) (x : Block) : (s.putBlock n x).poison = s.poison := rfl
@[simp] theorem State.putBlock_hostMap (s : State) (n : Nat) (x : Block) : (s.putBlock n x).hostMap = s.hostMap := rfl
@[simp] theorem State.putBlock_worlds (s : State) (n : Nat) (x : Block) : (s.putBlock n x).worlds = s.worlds := rfl
@[simp] theorem State.putBlock_spaces (s : State) (n : Nat) (x : Block) : (s.putBlock n x).spaces = s.spaces := rfl
@[simp] theorem State.putBlock_queues (s : State) (n : Nat) (x : Block) : (s.putBlock n x).queues = s.queues := rfl
@[simp] theorem State.putBlock_round (s : State) (n : Nat) (x : Block) : (s.putBlock n x).round = s.round := rfl
@[simp] theorem State.putBlock_bells (s : State) (n : Nat) (x : Block) : (s.putBlock n x).bells = s.bells := rfl
@[simp] theorem State.putBlock_notify (s : State) (n : Nat) (x : Block) : (s.putBlock n x).notify = s.notify := rfl
@[simp] theorem State.putBlock_drives (s : State) (n : Nat) (x : Block) : (s.putBlock n x).drives = s.drives := rfl
@[simp] theorem State.putBlock_mbox (s : State) (n : Nat) (x : Block) : (s.putBlock n x).mbox = s.mbox := rfl
@[simp] theorem State.putBlock_units (s : State) (n : Nat) (x : Block) : (s.putBlock n x).units = s.units := rfl
@[simp] theorem State.putBlock_launches (s : State) (n : Nat) (x : Block) : (s.putBlock n x).launches = s.launches := rfl
@[simp] theorem State.putBlock_saves (s : State) (n : Nat) (x : Block) : (s.putBlock n x).saves = s.saves := rfl
@[simp] theorem State.putBlock_blocks (s : State) (n : Nat) (x : Block) : (s.putBlock n x).blocks = assocPut s.blocks n x := rfl
@[simp] theorem State.putBlock_clusters (s : State) (n : Nat) (x : Block) : (s.putBlock n x).clusters = s.clusters := rfl
@[simp] theorem State.putBlock_crews (s : State) (n : Nat) (x : Block) : (s.putBlock n x).crews = s.crews := rfl
@[simp] theorem State.putBlock_cores (s : State) (n : Nat) (x : Block) : (s.putBlock n x).cores = s.cores := rfl
@[simp] theorem State.putBlock_sup (s : State) (n : Nat) (x : Block) : (s.putBlock n x).sup = s.sup := rfl
@[simp] theorem State.putBlock_ctls (s : State) (n : Nat) (x : Block) : (s.putBlock n x).ctls = s.ctls := rfl
@[simp] theorem State.putBlock_reqs (s : State) (n : Nat) (x : Block) : (s.putBlock n x).reqs = s.reqs := rfl
@[simp] theorem State.putBlock_fore (s : State) (n : Nat) (x : Block) : (s.putBlock n x).fore = s.fore := rfl
@[simp] theorem State.putBlock_porter (s : State) (n : Nat) (x : Block) : (s.putBlock n x).porter = s.porter := rfl
@[simp] theorem State.putBlock_links (s : State) (n : Nat) (x : Block) : (s.putBlock n x).links = s.links := rfl
@[simp] theorem State.putBlock_peers (s : State) (n : Nat) (x : Block) : (s.putBlock n x).peers = s.peers := rfl

/-! ### putCluster -/

@[simp] theorem State.putCluster_turn (s : State) (n : Nat) (x : Cluster) : (s.putCluster n x).turn = s.turn := rfl
@[simp] theorem State.putCluster_agenda (s : State) (n : Nat) (x : Cluster) : (s.putCluster n x).agenda = s.agenda := rfl
@[simp] theorem State.putCluster_draws (s : State) (n : Nat) (x : Cluster) : (s.putCluster n x).draws = s.draws := rfl
@[simp] theorem State.putCluster_nextUid (s : State) (n : Nat) (x : Cluster) : (s.putCluster n x).nextUid = s.nextUid := rfl
@[simp] theorem State.putCluster_powered (s : State) (n : Nat) (x : Cluster) : (s.putCluster n x).powered = s.powered := rfl
@[simp] theorem State.putCluster_fuses (s : State) (n : Nat) (x : Cluster) : (s.putCluster n x).fuses = s.fuses := rfl
@[simp] theorem State.putCluster_ident (s : State) (n : Nat) (x : Cluster) : (s.putCluster n x).ident = s.ident := rfl
@[simp] theorem State.putCluster_clk (s : State) (n : Nat) (x : Cluster) : (s.putCluster n x).clk = s.clk := rfl
@[simp] theorem State.putCluster_mem (s : State) (n : Nat) (x : Cluster) : (s.putCluster n x).mem = s.mem := rfl
@[simp] theorem State.putCluster_poison (s : State) (n : Nat) (x : Cluster) : (s.putCluster n x).poison = s.poison := rfl
@[simp] theorem State.putCluster_hostMap (s : State) (n : Nat) (x : Cluster) : (s.putCluster n x).hostMap = s.hostMap := rfl
@[simp] theorem State.putCluster_worlds (s : State) (n : Nat) (x : Cluster) : (s.putCluster n x).worlds = s.worlds := rfl
@[simp] theorem State.putCluster_spaces (s : State) (n : Nat) (x : Cluster) : (s.putCluster n x).spaces = s.spaces := rfl
@[simp] theorem State.putCluster_queues (s : State) (n : Nat) (x : Cluster) : (s.putCluster n x).queues = s.queues := rfl
@[simp] theorem State.putCluster_round (s : State) (n : Nat) (x : Cluster) : (s.putCluster n x).round = s.round := rfl
@[simp] theorem State.putCluster_bells (s : State) (n : Nat) (x : Cluster) : (s.putCluster n x).bells = s.bells := rfl
@[simp] theorem State.putCluster_notify (s : State) (n : Nat) (x : Cluster) : (s.putCluster n x).notify = s.notify := rfl
@[simp] theorem State.putCluster_drives (s : State) (n : Nat) (x : Cluster) : (s.putCluster n x).drives = s.drives := rfl
@[simp] theorem State.putCluster_mbox (s : State) (n : Nat) (x : Cluster) : (s.putCluster n x).mbox = s.mbox := rfl
@[simp] theorem State.putCluster_units (s : State) (n : Nat) (x : Cluster) : (s.putCluster n x).units = s.units := rfl
@[simp] theorem State.putCluster_launches (s : State) (n : Nat) (x : Cluster) : (s.putCluster n x).launches = s.launches := rfl
@[simp] theorem State.putCluster_saves (s : State) (n : Nat) (x : Cluster) : (s.putCluster n x).saves = s.saves := rfl
@[simp] theorem State.putCluster_blocks (s : State) (n : Nat) (x : Cluster) : (s.putCluster n x).blocks = s.blocks := rfl
@[simp] theorem State.putCluster_clusters (s : State) (n : Nat) (x : Cluster) : (s.putCluster n x).clusters = assocPut s.clusters n x := rfl
@[simp] theorem State.putCluster_crews (s : State) (n : Nat) (x : Cluster) : (s.putCluster n x).crews = s.crews := rfl
@[simp] theorem State.putCluster_cores (s : State) (n : Nat) (x : Cluster) : (s.putCluster n x).cores = s.cores := rfl
@[simp] theorem State.putCluster_sup (s : State) (n : Nat) (x : Cluster) : (s.putCluster n x).sup = s.sup := rfl
@[simp] theorem State.putCluster_ctls (s : State) (n : Nat) (x : Cluster) : (s.putCluster n x).ctls = s.ctls := rfl
@[simp] theorem State.putCluster_reqs (s : State) (n : Nat) (x : Cluster) : (s.putCluster n x).reqs = s.reqs := rfl
@[simp] theorem State.putCluster_fore (s : State) (n : Nat) (x : Cluster) : (s.putCluster n x).fore = s.fore := rfl
@[simp] theorem State.putCluster_porter (s : State) (n : Nat) (x : Cluster) : (s.putCluster n x).porter = s.porter := rfl
@[simp] theorem State.putCluster_links (s : State) (n : Nat) (x : Cluster) : (s.putCluster n x).links = s.links := rfl
@[simp] theorem State.putCluster_peers (s : State) (n : Nat) (x : Cluster) : (s.putCluster n x).peers = s.peers := rfl

/-! ### modCrew -/

@[simp] theorem State.modCrew_turn (s : State) (c : CrewRef) (f : Crew → Crew) : (s.modCrew c f).turn = s.turn := by
  unfold State.modCrew; split <;> rfl
@[simp] theorem State.modCrew_agenda (s : State) (c : CrewRef) (f : Crew → Crew) : (s.modCrew c f).agenda = s.agenda := by
  unfold State.modCrew; split <;> rfl
@[simp] theorem State.modCrew_draws (s : State) (c : CrewRef) (f : Crew → Crew) : (s.modCrew c f).draws = s.draws := by
  unfold State.modCrew; split <;> rfl
@[simp] theorem State.modCrew_nextUid (s : State) (c : CrewRef) (f : Crew → Crew) : (s.modCrew c f).nextUid = s.nextUid := by
  unfold State.modCrew; split <;> rfl
@[simp] theorem State.modCrew_powered (s : State) (c : CrewRef) (f : Crew → Crew) : (s.modCrew c f).powered = s.powered := by
  unfold State.modCrew; split <;> rfl
@[simp] theorem State.modCrew_fuses (s : State) (c : CrewRef) (f : Crew → Crew) : (s.modCrew c f).fuses = s.fuses := by
  unfold State.modCrew; split <;> rfl
@[simp] theorem State.modCrew_ident (s : State) (c : CrewRef) (f : Crew → Crew) : (s.modCrew c f).ident = s.ident := by
  unfold State.modCrew; split <;> rfl
@[simp] theorem State.modCrew_clk (s : State) (c : CrewRef) (f : Crew → Crew) : (s.modCrew c f).clk = s.clk := by
  unfold State.modCrew; split <;> rfl
@[simp] theorem State.modCrew_mem (s : State) (c : CrewRef) (f : Crew → Crew) : (s.modCrew c f).mem = s.mem := by
  unfold State.modCrew; split <;> rfl
@[simp] theorem State.modCrew_poison (s : State) (c : CrewRef) (f : Crew → Crew) : (s.modCrew c f).poison = s.poison := by
  unfold State.modCrew; split <;> rfl
@[simp] theorem State.modCrew_hostMap (s : State) (c : CrewRef) (f : Crew → Crew) : (s.modCrew c f).hostMap = s.hostMap := by
  unfold State.modCrew; split <;> rfl
@[simp] theorem State.modCrew_worlds (s : State) (c : CrewRef) (f : Crew → Crew) : (s.modCrew c f).worlds = s.worlds := by
  unfold State.modCrew; split <;> rfl
@[simp] theorem State.modCrew_spaces (s : State) (c : CrewRef) (f : Crew → Crew) : (s.modCrew c f).spaces = s.spaces := by
  unfold State.modCrew; split <;> rfl
@[simp] theorem State.modCrew_queues (s : State) (c : CrewRef) (f : Crew → Crew) : (s.modCrew c f).queues = s.queues := by
  unfold State.modCrew; split <;> rfl
@[simp] theorem State.modCrew_round (s : State) (c : CrewRef) (f : Crew → Crew) : (s.modCrew c f).round = s.round := by
  unfold State.modCrew; split <;> rfl
@[simp] theorem State.modCrew_bells (s : State) (c : CrewRef) (f : Crew → Crew) : (s.modCrew c f).bells = s.bells := by
  unfold State.modCrew; split <;> rfl
@[simp] theorem State.modCrew_notify (s : State) (c : CrewRef) (f : Crew → Crew) : (s.modCrew c f).notify = s.notify := by
  unfold State.modCrew; split <;> rfl
@[simp] theorem State.modCrew_drives (s : State) (c : CrewRef) (f : Crew → Crew) : (s.modCrew c f).drives = s.drives := by
  unfold State.modCrew; split <;> rfl
@[simp] theorem State.modCrew_mbox (s : State) (c : CrewRef) (f : Crew → Crew) : (s.modCrew c f).mbox = s.mbox := by
  unfold State.modCrew; split <;> rfl
@[simp] theorem State.modCrew_units (s : State) (c : CrewRef) (f : Crew → Crew) : (s.modCrew c f).units = s.units := by
  unfold State.modCrew; split <;> rfl
@[simp] theorem State.modCrew_launches (s : State) (c : CrewRef) (f : Crew → Crew) : (s.modCrew c f).launches = s.launches := by
  unfold State.modCrew; split <;> rfl
@[simp] theorem State.modCrew_saves (s : State) (c : CrewRef) (f : Crew → Crew) : (s.modCrew c f).saves = s.saves := by
  unfold State.modCrew; split <;> rfl
@[simp] theorem State.modCrew_blocks (s : State) (c : CrewRef) (f : Crew → Crew) : (s.modCrew c f).blocks = s.blocks := by
  unfold State.modCrew; split <;> rfl
@[simp] theorem State.modCrew_clusters (s : State) (c : CrewRef) (f : Crew → Crew) : (s.modCrew c f).clusters = s.clusters := by
  unfold State.modCrew; split <;> rfl
@[simp] theorem State.modCrew_cores (s : State) (c : CrewRef) (f : Crew → Crew) : (s.modCrew c f).cores = s.cores := by
  unfold State.modCrew; split <;> rfl
@[simp] theorem State.modCrew_sup (s : State) (c : CrewRef) (f : Crew → Crew) : (s.modCrew c f).sup = s.sup := by
  unfold State.modCrew; split <;> rfl
@[simp] theorem State.modCrew_ctls (s : State) (c : CrewRef) (f : Crew → Crew) : (s.modCrew c f).ctls = s.ctls := by
  unfold State.modCrew; split <;> rfl
@[simp] theorem State.modCrew_reqs (s : State) (c : CrewRef) (f : Crew → Crew) : (s.modCrew c f).reqs = s.reqs := by
  unfold State.modCrew; split <;> rfl
@[simp] theorem State.modCrew_fore (s : State) (c : CrewRef) (f : Crew → Crew) : (s.modCrew c f).fore = s.fore := by
  unfold State.modCrew; split <;> rfl
@[simp] theorem State.modCrew_porter (s : State) (c : CrewRef) (f : Crew → Crew) : (s.modCrew c f).porter = s.porter := by
  unfold State.modCrew; split <;> rfl
@[simp] theorem State.modCrew_links (s : State) (c : CrewRef) (f : Crew → Crew) : (s.modCrew c f).links = s.links := by
  unfold State.modCrew; split <;> rfl
@[simp] theorem State.modCrew_peers (s : State) (c : CrewRef) (f : Crew → Crew) : (s.modCrew c f).peers = s.peers := by
  unfold State.modCrew; split <;> rfl

/-! ### modBlock -/

@[simp] theorem State.modBlock_turn (s : State) (n : Nat) (f : Block → Block) : (s.modBlock n f).turn = s.turn := by
  unfold State.modBlock; split <;> rfl
@[simp] theorem State.modBlock_agenda (s : State) (n : Nat) (f : Block → Block) : (s.modBlock n f).agenda = s.agenda := by
  unfold State.modBlock; split <;> rfl
@[simp] theorem State.modBlock_draws (s : State) (n : Nat) (f : Block → Block) : (s.modBlock n f).draws = s.draws := by
  unfold State.modBlock; split <;> rfl
@[simp] theorem State.modBlock_nextUid (s : State) (n : Nat) (f : Block → Block) : (s.modBlock n f).nextUid = s.nextUid := by
  unfold State.modBlock; split <;> rfl
@[simp] theorem State.modBlock_powered (s : State) (n : Nat) (f : Block → Block) : (s.modBlock n f).powered = s.powered := by
  unfold State.modBlock; split <;> rfl
@[simp] theorem State.modBlock_fuses (s : State) (n : Nat) (f : Block → Block) : (s.modBlock n f).fuses = s.fuses := by
  unfold State.modBlock; split <;> rfl
@[simp] theorem State.modBlock_ident (s : State) (n : Nat) (f : Block → Block) : (s.modBlock n f).ident = s.ident := by
  unfold State.modBlock; split <;> rfl
@[simp] theorem State.modBlock_clk (s : State) (n : Nat) (f : Block → Block) : (s.modBlock n f).clk = s.clk := by
  unfold State.modBlock; split <;> rfl
@[simp] theorem State.modBlock_mem (s : State) (n : Nat) (f : Block → Block) : (s.modBlock n f).mem = s.mem := by
  unfold State.modBlock; split <;> rfl
@[simp] theorem State.modBlock_poison (s : State) (n : Nat) (f : Block → Block) : (s.modBlock n f).poison = s.poison := by
  unfold State.modBlock; split <;> rfl
@[simp] theorem State.modBlock_hostMap (s : State) (n : Nat) (f : Block → Block) : (s.modBlock n f).hostMap = s.hostMap := by
  unfold State.modBlock; split <;> rfl
@[simp] theorem State.modBlock_worlds (s : State) (n : Nat) (f : Block → Block) : (s.modBlock n f).worlds = s.worlds := by
  unfold State.modBlock; split <;> rfl
@[simp] theorem State.modBlock_spaces (s : State) (n : Nat) (f : Block → Block) : (s.modBlock n f).spaces = s.spaces := by
  unfold State.modBlock; split <;> rfl
@[simp] theorem State.modBlock_queues (s : State) (n : Nat) (f : Block → Block) : (s.modBlock n f).queues = s.queues := by
  unfold State.modBlock; split <;> rfl
@[simp] theorem State.modBlock_round (s : State) (n : Nat) (f : Block → Block) : (s.modBlock n f).round = s.round := by
  unfold State.modBlock; split <;> rfl
@[simp] theorem State.modBlock_bells (s : State) (n : Nat) (f : Block → Block) : (s.modBlock n f).bells = s.bells := by
  unfold State.modBlock; split <;> rfl
@[simp] theorem State.modBlock_notify (s : State) (n : Nat) (f : Block → Block) : (s.modBlock n f).notify = s.notify := by
  unfold State.modBlock; split <;> rfl
@[simp] theorem State.modBlock_drives (s : State) (n : Nat) (f : Block → Block) : (s.modBlock n f).drives = s.drives := by
  unfold State.modBlock; split <;> rfl
@[simp] theorem State.modBlock_mbox (s : State) (n : Nat) (f : Block → Block) : (s.modBlock n f).mbox = s.mbox := by
  unfold State.modBlock; split <;> rfl
@[simp] theorem State.modBlock_units (s : State) (n : Nat) (f : Block → Block) : (s.modBlock n f).units = s.units := by
  unfold State.modBlock; split <;> rfl
@[simp] theorem State.modBlock_launches (s : State) (n : Nat) (f : Block → Block) : (s.modBlock n f).launches = s.launches := by
  unfold State.modBlock; split <;> rfl
@[simp] theorem State.modBlock_saves (s : State) (n : Nat) (f : Block → Block) : (s.modBlock n f).saves = s.saves := by
  unfold State.modBlock; split <;> rfl
@[simp] theorem State.modBlock_clusters (s : State) (n : Nat) (f : Block → Block) : (s.modBlock n f).clusters = s.clusters := by
  unfold State.modBlock; split <;> rfl
@[simp] theorem State.modBlock_crews (s : State) (n : Nat) (f : Block → Block) : (s.modBlock n f).crews = s.crews := by
  unfold State.modBlock; split <;> rfl
@[simp] theorem State.modBlock_cores (s : State) (n : Nat) (f : Block → Block) : (s.modBlock n f).cores = s.cores := by
  unfold State.modBlock; split <;> rfl
@[simp] theorem State.modBlock_sup (s : State) (n : Nat) (f : Block → Block) : (s.modBlock n f).sup = s.sup := by
  unfold State.modBlock; split <;> rfl
@[simp] theorem State.modBlock_ctls (s : State) (n : Nat) (f : Block → Block) : (s.modBlock n f).ctls = s.ctls := by
  unfold State.modBlock; split <;> rfl
@[simp] theorem State.modBlock_reqs (s : State) (n : Nat) (f : Block → Block) : (s.modBlock n f).reqs = s.reqs := by
  unfold State.modBlock; split <;> rfl
@[simp] theorem State.modBlock_fore (s : State) (n : Nat) (f : Block → Block) : (s.modBlock n f).fore = s.fore := by
  unfold State.modBlock; split <;> rfl
@[simp] theorem State.modBlock_porter (s : State) (n : Nat) (f : Block → Block) : (s.modBlock n f).porter = s.porter := by
  unfold State.modBlock; split <;> rfl
@[simp] theorem State.modBlock_links (s : State) (n : Nat) (f : Block → Block) : (s.modBlock n f).links = s.links := by
  unfold State.modBlock; split <;> rfl
@[simp] theorem State.modBlock_peers (s : State) (n : Nat) (f : Block → Block) : (s.modBlock n f).peers = s.peers := by
  unfold State.modBlock; split <;> rfl

/-! ### modCluster -/

@[simp] theorem State.modCluster_turn (s : State) (n : Nat) (f : Cluster → Cluster) : (s.modCluster n f).turn = s.turn := by
  unfold State.modCluster; split <;> rfl
@[simp] theorem State.modCluster_agenda (s : State) (n : Nat) (f : Cluster → Cluster) : (s.modCluster n f).agenda = s.agenda := by
  unfold State.modCluster; split <;> rfl
@[simp] theorem State.modCluster_draws (s : State) (n : Nat) (f : Cluster → Cluster) : (s.modCluster n f).draws = s.draws := by
  unfold State.modCluster; split <;> rfl
@[simp] theorem State.modCluster_nextUid (s : State) (n : Nat) (f : Cluster → Cluster) : (s.modCluster n f).nextUid = s.nextUid := by
  unfold State.modCluster; split <;> rfl
@[simp] theorem State.modCluster_powered (s : State) (n : Nat) (f : Cluster → Cluster) : (s.modCluster n f).powered = s.powered := by
  unfold State.modCluster; split <;> rfl
@[simp] theorem State.modCluster_fuses (s : State) (n : Nat) (f : Cluster → Cluster) : (s.modCluster n f).fuses = s.fuses := by
  unfold State.modCluster; split <;> rfl
@[simp] theorem State.modCluster_ident (s : State) (n : Nat) (f : Cluster → Cluster) : (s.modCluster n f).ident = s.ident := by
  unfold State.modCluster; split <;> rfl
@[simp] theorem State.modCluster_clk (s : State) (n : Nat) (f : Cluster → Cluster) : (s.modCluster n f).clk = s.clk := by
  unfold State.modCluster; split <;> rfl
@[simp] theorem State.modCluster_mem (s : State) (n : Nat) (f : Cluster → Cluster) : (s.modCluster n f).mem = s.mem := by
  unfold State.modCluster; split <;> rfl
@[simp] theorem State.modCluster_poison (s : State) (n : Nat) (f : Cluster → Cluster) : (s.modCluster n f).poison = s.poison := by
  unfold State.modCluster; split <;> rfl
@[simp] theorem State.modCluster_hostMap (s : State) (n : Nat) (f : Cluster → Cluster) : (s.modCluster n f).hostMap = s.hostMap := by
  unfold State.modCluster; split <;> rfl
@[simp] theorem State.modCluster_worlds (s : State) (n : Nat) (f : Cluster → Cluster) : (s.modCluster n f).worlds = s.worlds := by
  unfold State.modCluster; split <;> rfl
@[simp] theorem State.modCluster_spaces (s : State) (n : Nat) (f : Cluster → Cluster) : (s.modCluster n f).spaces = s.spaces := by
  unfold State.modCluster; split <;> rfl
@[simp] theorem State.modCluster_queues (s : State) (n : Nat) (f : Cluster → Cluster) : (s.modCluster n f).queues = s.queues := by
  unfold State.modCluster; split <;> rfl
@[simp] theorem State.modCluster_round (s : State) (n : Nat) (f : Cluster → Cluster) : (s.modCluster n f).round = s.round := by
  unfold State.modCluster; split <;> rfl
@[simp] theorem State.modCluster_bells (s : State) (n : Nat) (f : Cluster → Cluster) : (s.modCluster n f).bells = s.bells := by
  unfold State.modCluster; split <;> rfl
@[simp] theorem State.modCluster_notify (s : State) (n : Nat) (f : Cluster → Cluster) : (s.modCluster n f).notify = s.notify := by
  unfold State.modCluster; split <;> rfl
@[simp] theorem State.modCluster_drives (s : State) (n : Nat) (f : Cluster → Cluster) : (s.modCluster n f).drives = s.drives := by
  unfold State.modCluster; split <;> rfl
@[simp] theorem State.modCluster_mbox (s : State) (n : Nat) (f : Cluster → Cluster) : (s.modCluster n f).mbox = s.mbox := by
  unfold State.modCluster; split <;> rfl
@[simp] theorem State.modCluster_units (s : State) (n : Nat) (f : Cluster → Cluster) : (s.modCluster n f).units = s.units := by
  unfold State.modCluster; split <;> rfl
@[simp] theorem State.modCluster_launches (s : State) (n : Nat) (f : Cluster → Cluster) : (s.modCluster n f).launches = s.launches := by
  unfold State.modCluster; split <;> rfl
@[simp] theorem State.modCluster_saves (s : State) (n : Nat) (f : Cluster → Cluster) : (s.modCluster n f).saves = s.saves := by
  unfold State.modCluster; split <;> rfl
@[simp] theorem State.modCluster_blocks (s : State) (n : Nat) (f : Cluster → Cluster) : (s.modCluster n f).blocks = s.blocks := by
  unfold State.modCluster; split <;> rfl
@[simp] theorem State.modCluster_crews (s : State) (n : Nat) (f : Cluster → Cluster) : (s.modCluster n f).crews = s.crews := by
  unfold State.modCluster; split <;> rfl
@[simp] theorem State.modCluster_cores (s : State) (n : Nat) (f : Cluster → Cluster) : (s.modCluster n f).cores = s.cores := by
  unfold State.modCluster; split <;> rfl
@[simp] theorem State.modCluster_sup (s : State) (n : Nat) (f : Cluster → Cluster) : (s.modCluster n f).sup = s.sup := by
  unfold State.modCluster; split <;> rfl
@[simp] theorem State.modCluster_ctls (s : State) (n : Nat) (f : Cluster → Cluster) : (s.modCluster n f).ctls = s.ctls := by
  unfold State.modCluster; split <;> rfl
@[simp] theorem State.modCluster_reqs (s : State) (n : Nat) (f : Cluster → Cluster) : (s.modCluster n f).reqs = s.reqs := by
  unfold State.modCluster; split <;> rfl
@[simp] theorem State.modCluster_fore (s : State) (n : Nat) (f : Cluster → Cluster) : (s.modCluster n f).fore = s.fore := by
  unfold State.modCluster; split <;> rfl
@[simp] theorem State.modCluster_porter (s : State) (n : Nat) (f : Cluster → Cluster) : (s.modCluster n f).porter = s.porter := by
  unfold State.modCluster; split <;> rfl
@[simp] theorem State.modCluster_links (s : State) (n : Nat) (f : Cluster → Cluster) : (s.modCluster n f).links = s.links := by
  unfold State.modCluster; split <;> rfl
@[simp] theorem State.modCluster_peers (s : State) (n : Nat) (f : Cluster → Cluster) : (s.modCluster n f).peers = s.peers := by
  unfold State.modCluster; split <;> rfl

/-! ### modLaunch -/

@[simp] theorem State.modLaunch_turn (s : State) (n : Nat) (f : Launch → Launch) : (s.modLaunch n f).turn = s.turn := rfl
@[simp] theorem State.modLaunch_agenda (s : State) (n : Nat) (f : Launch → Launch) : (s.modLaunch n f).agenda = s.agenda := rfl
@[simp] theorem State.modLaunch_draws (s : State) (n : Nat) (f : Launch → Launch) : (s.modLaunch n f).draws = s.draws := rfl
@[simp] theorem State.modLaunch_nextUid (s : State) (n : Nat) (f : Launch → Launch) : (s.modLaunch n f).nextUid = s.nextUid := rfl
@[simp] theorem State.modLaunch_powered (s : State) (n : Nat) (f : Launch → Launch) : (s.modLaunch n f).powered = s.powered := rfl
@[simp] theorem State.modLaunch_fuses (s : State) (n : Nat) (f : Launch → Launch) : (s.modLaunch n f).fuses = s.fuses := rfl
@[simp] theorem State.modLaunch_ident (s : State) (n : Nat) (f : Launch → Launch) : (s.modLaunch n f).ident = s.ident := rfl
@[simp] theorem State.modLaunch_clk (s : State) (n : Nat) (f : Launch → Launch) : (s.modLaunch n f).clk = s.clk := rfl
@[simp] theorem State.modLaunch_mem (s : State) (n : Nat) (f : Launch → Launch) : (s.modLaunch n f).mem = s.mem := rfl
@[simp] theorem State.modLaunch_poison (s : State) (n : Nat) (f : Launch → Launch) : (s.modLaunch n f).poison = s.poison := rfl
@[simp] theorem State.modLaunch_hostMap (s : State) (n : Nat) (f : Launch → Launch) : (s.modLaunch n f).hostMap = s.hostMap := rfl
@[simp] theorem State.modLaunch_worlds (s : State) (n : Nat) (f : Launch → Launch) : (s.modLaunch n f).worlds = s.worlds := rfl
@[simp] theorem State.modLaunch_spaces (s : State) (n : Nat) (f : Launch → Launch) : (s.modLaunch n f).spaces = s.spaces := rfl
@[simp] theorem State.modLaunch_queues (s : State) (n : Nat) (f : Launch → Launch) : (s.modLaunch n f).queues = s.queues := rfl
@[simp] theorem State.modLaunch_round (s : State) (n : Nat) (f : Launch → Launch) : (s.modLaunch n f).round = s.round := rfl
@[simp] theorem State.modLaunch_bells (s : State) (n : Nat) (f : Launch → Launch) : (s.modLaunch n f).bells = s.bells := rfl
@[simp] theorem State.modLaunch_notify (s : State) (n : Nat) (f : Launch → Launch) : (s.modLaunch n f).notify = s.notify := rfl
@[simp] theorem State.modLaunch_drives (s : State) (n : Nat) (f : Launch → Launch) : (s.modLaunch n f).drives = s.drives := rfl
@[simp] theorem State.modLaunch_mbox (s : State) (n : Nat) (f : Launch → Launch) : (s.modLaunch n f).mbox = s.mbox := rfl
@[simp] theorem State.modLaunch_units (s : State) (n : Nat) (f : Launch → Launch) : (s.modLaunch n f).units = s.units := rfl
@[simp] theorem State.modLaunch_saves (s : State) (n : Nat) (f : Launch → Launch) : (s.modLaunch n f).saves = s.saves := rfl
@[simp] theorem State.modLaunch_blocks (s : State) (n : Nat) (f : Launch → Launch) : (s.modLaunch n f).blocks = s.blocks := rfl
@[simp] theorem State.modLaunch_clusters (s : State) (n : Nat) (f : Launch → Launch) : (s.modLaunch n f).clusters = s.clusters := rfl
@[simp] theorem State.modLaunch_crews (s : State) (n : Nat) (f : Launch → Launch) : (s.modLaunch n f).crews = s.crews := rfl
@[simp] theorem State.modLaunch_cores (s : State) (n : Nat) (f : Launch → Launch) : (s.modLaunch n f).cores = s.cores := rfl
@[simp] theorem State.modLaunch_sup (s : State) (n : Nat) (f : Launch → Launch) : (s.modLaunch n f).sup = s.sup := rfl
@[simp] theorem State.modLaunch_ctls (s : State) (n : Nat) (f : Launch → Launch) : (s.modLaunch n f).ctls = s.ctls := rfl
@[simp] theorem State.modLaunch_reqs (s : State) (n : Nat) (f : Launch → Launch) : (s.modLaunch n f).reqs = s.reqs := rfl
@[simp] theorem State.modLaunch_fore (s : State) (n : Nat) (f : Launch → Launch) : (s.modLaunch n f).fore = s.fore := rfl
@[simp] theorem State.modLaunch_porter (s : State) (n : Nat) (f : Launch → Launch) : (s.modLaunch n f).porter = s.porter := rfl
@[simp] theorem State.modLaunch_links (s : State) (n : Nat) (f : Launch → Launch) : (s.modLaunch n f).links = s.links := rfl
@[simp] theorem State.modLaunch_peers (s : State) (n : Nat) (f : Launch → Launch) : (s.modLaunch n f).peers = s.peers := rfl

/-! ### modUnit -/

@[simp] theorem State.modUnit_turn (s : State) (n : Nat) (f : CUnit → CUnit) : (s.modUnit n f).turn = s.turn := rfl
@[simp] theorem State.modUnit_agenda (s : State) (n : Nat) (f : CUnit → CUnit) : (s.modUnit n f).agenda = s.agenda := rfl
@[simp] theorem State.modUnit_draws (s : State) (n : Nat) (f : CUnit → CUnit) : (s.modUnit n f).draws = s.draws := rfl
@[simp] theorem State.modUnit_nextUid (s : State) (n : Nat) (f : CUnit → CUnit) : (s.modUnit n f).nextUid = s.nextUid := rfl
@[simp] theorem State.modUnit_powered (s : State) (n : Nat) (f : CUnit → CUnit) : (s.modUnit n f).powered = s.powered := rfl
@[simp] theorem State.modUnit_fuses (s : State) (n : Nat) (f : CUnit → CUnit) : (s.modUnit n f).fuses = s.fuses := rfl
@[simp] theorem State.modUnit_ident (s : State) (n : Nat) (f : CUnit → CUnit) : (s.modUnit n f).ident = s.ident := rfl
@[simp] theorem State.modUnit_clk (s : State) (n : Nat) (f : CUnit → CUnit) : (s.modUnit n f).clk = s.clk := rfl
@[simp] theorem State.modUnit_mem (s : State) (n : Nat) (f : CUnit → CUnit) : (s.modUnit n f).mem = s.mem := rfl
@[simp] theorem State.modUnit_poison (s : State) (n : Nat) (f : CUnit → CUnit) : (s.modUnit n f).poison = s.poison := rfl
@[simp] theorem State.modUnit_hostMap (s : State) (n : Nat) (f : CUnit → CUnit) : (s.modUnit n f).hostMap = s.hostMap := rfl
@[simp] theorem State.modUnit_worlds (s : State) (n : Nat) (f : CUnit → CUnit) : (s.modUnit n f).worlds = s.worlds := rfl
@[simp] theorem State.modUnit_spaces (s : State) (n : Nat) (f : CUnit → CUnit) : (s.modUnit n f).spaces = s.spaces := rfl
@[simp] theorem State.modUnit_queues (s : State) (n : Nat) (f : CUnit → CUnit) : (s.modUnit n f).queues = s.queues := rfl
@[simp] theorem State.modUnit_round (s : State) (n : Nat) (f : CUnit → CUnit) : (s.modUnit n f).round = s.round := rfl
@[simp] theorem State.modUnit_bells (s : State) (n : Nat) (f : CUnit → CUnit) : (s.modUnit n f).bells = s.bells := rfl
@[simp] theorem State.modUnit_notify (s : State) (n : Nat) (f : CUnit → CUnit) : (s.modUnit n f).notify = s.notify := rfl
@[simp] theorem State.modUnit_drives (s : State) (n : Nat) (f : CUnit → CUnit) : (s.modUnit n f).drives = s.drives := rfl
@[simp] theorem State.modUnit_mbox (s : State) (n : Nat) (f : CUnit → CUnit) : (s.modUnit n f).mbox = s.mbox := rfl
@[simp] theorem State.modUnit_launches (s : State) (n : Nat) (f : CUnit → CUnit) : (s.modUnit n f).launches = s.launches := rfl
@[simp] theorem State.modUnit_saves (s : State) (n : Nat) (f : CUnit → CUnit) : (s.modUnit n f).saves = s.saves := rfl
@[simp] theorem State.modUnit_blocks (s : State) (n : Nat) (f : CUnit → CUnit) : (s.modUnit n f).blocks = s.blocks := rfl
@[simp] theorem State.modUnit_clusters (s : State) (n : Nat) (f : CUnit → CUnit) : (s.modUnit n f).clusters = s.clusters := rfl
@[simp] theorem State.modUnit_crews (s : State) (n : Nat) (f : CUnit → CUnit) : (s.modUnit n f).crews = s.crews := rfl
@[simp] theorem State.modUnit_cores (s : State) (n : Nat) (f : CUnit → CUnit) : (s.modUnit n f).cores = s.cores := rfl
@[simp] theorem State.modUnit_sup (s : State) (n : Nat) (f : CUnit → CUnit) : (s.modUnit n f).sup = s.sup := rfl
@[simp] theorem State.modUnit_ctls (s : State) (n : Nat) (f : CUnit → CUnit) : (s.modUnit n f).ctls = s.ctls := rfl
@[simp] theorem State.modUnit_reqs (s : State) (n : Nat) (f : CUnit → CUnit) : (s.modUnit n f).reqs = s.reqs := rfl
@[simp] theorem State.modUnit_fore (s : State) (n : Nat) (f : CUnit → CUnit) : (s.modUnit n f).fore = s.fore := rfl
@[simp] theorem State.modUnit_porter (s : State) (n : Nat) (f : CUnit → CUnit) : (s.modUnit n f).porter = s.porter := rfl
@[simp] theorem State.modUnit_links (s : State) (n : Nat) (f : CUnit → CUnit) : (s.modUnit n f).links = s.links := rfl
@[simp] theorem State.modUnit_peers (s : State) (n : Nat) (f : CUnit → CUnit) : (s.modUnit n f).peers = s.peers := rfl

/-! ### waitScalar -/

@[simp] theorem State.waitScalar_turn (s : State) (c : CrewRef) : (s.waitScalar c).turn = s.turn := by
  simp [State.waitScalar]
@[simp] theorem State.waitScalar_agenda (s : State) (c : CrewRef) : (s.waitScalar c).agenda = s.agenda := by
  simp [State.waitScalar]
@[simp] theorem State.waitScalar_draws (s : State) (c : CrewRef) : (s.waitScalar c).draws = s.draws := by
  simp [State.waitScalar]
@[simp] theorem State.waitScalar_nextUid (s : State) (c : CrewRef) : (s.waitScalar c).nextUid = s.nextUid := by
  simp [State.waitScalar]
@[simp] theorem State.waitScalar_powered (s : State) (c : CrewRef) : (s.waitScalar c).powered = s.powered := by
  simp [State.waitScalar]
@[simp] theorem State.waitScalar_fuses (s : State) (c : CrewRef) : (s.waitScalar c).fuses = s.fuses := by
  simp [State.waitScalar]
@[simp] theorem State.waitScalar_ident (s : State) (c : CrewRef) : (s.waitScalar c).ident = s.ident := by
  simp [State.waitScalar]
@[simp] theorem State.waitScalar_clk (s : State) (c : CrewRef) : (s.waitScalar c).clk = s.clk := by
  simp [State.waitScalar]
@[simp] theorem State.waitScalar_mem (s : State) (c : CrewRef) : (s.waitScalar c).mem = s.mem := by
  simp [State.waitScalar]
@[simp] theorem State.waitScalar_poison (s : State) (c : CrewRef) : (s.waitScalar c).poison = s.poison := by
  simp [State.waitScalar]
@[simp] theorem State.waitScalar_hostMap (s : State) (c : CrewRef) : (s.waitScalar c).hostMap = s.hostMap := by
  simp [State.waitScalar]
@[simp] theorem State.waitScalar_worlds (s : State) (c : CrewRef) : (s.waitScalar c).worlds = s.worlds := by
  simp [State.waitScalar]
@[simp] theorem State.waitScalar_spaces (s : State) (c : CrewRef) : (s.waitScalar c).spaces = s.spaces := by
  simp [State.waitScalar]
@[simp] theorem State.waitScalar_queues (s : State) (c : CrewRef) : (s.waitScalar c).queues = s.queues := by
  simp [State.waitScalar]
@[simp] theorem State.waitScalar_round (s : State) (c : CrewRef) : (s.waitScalar c).round = s.round := by
  simp [State.waitScalar]
@[simp] theorem State.waitScalar_bells (s : State) (c : CrewRef) : (s.waitScalar c).bells = s.bells := by
  simp [State.waitScalar]
@[simp] theorem State.waitScalar_notify (s : State) (c : CrewRef) : (s.waitScalar c).notify = s.notify := by
  simp [State.waitScalar]
@[simp] theorem State.waitScalar_drives (s : State) (c : CrewRef) : (s.waitScalar c).drives = s.drives := by
  simp [State.waitScalar]
@[simp] theorem State.waitScalar_mbox (s : State) (c : CrewRef) : (s.waitScalar c).mbox = s.mbox := by
  simp [State.waitScalar]
@[simp] theorem State.waitScalar_units (s : State) (c : CrewRef) : (s.waitScalar c).units = s.units := by
  simp [State.waitScalar]
@[simp] theorem State.waitScalar_launches (s : State) (c : CrewRef) : (s.waitScalar c).launches = s.launches := by
  simp [State.waitScalar]
@[simp] theorem State.waitScalar_saves (s : State) (c : CrewRef) : (s.waitScalar c).saves = s.saves := by
  simp [State.waitScalar]
@[simp] theorem State.waitScalar_blocks (s : State) (c : CrewRef) : (s.waitScalar c).blocks = s.blocks := by
  simp [State.waitScalar]
@[simp] theorem State.waitScalar_clusters (s : State) (c : CrewRef) : (s.waitScalar c).clusters = s.clusters := by
  simp [State.waitScalar]
@[simp] theorem State.waitScalar_cores (s : State) (c : CrewRef) : (s.waitScalar c).cores = s.cores := by
  simp [State.waitScalar]
@[simp] theorem State.waitScalar_sup (s : State) (c : CrewRef) : (s.waitScalar c).sup = s.sup := by
  simp [State.waitScalar]
@[simp] theorem State.waitScalar_ctls (s : State) (c : CrewRef) : (s.waitScalar c).ctls = s.ctls := by
  simp [State.waitScalar]
@[simp] theorem State.waitScalar_reqs (s : State) (c : CrewRef) : (s.waitScalar c).reqs = s.reqs := by
  simp [State.waitScalar]
@[simp] theorem State.waitScalar_fore (s : State) (c : CrewRef) : (s.waitScalar c).fore = s.fore := by
  simp [State.waitScalar]
@[simp] theorem State.waitScalar_porter (s : State) (c : CrewRef) : (s.waitScalar c).porter = s.porter := by
  simp [State.waitScalar]
@[simp] theorem State.waitScalar_links (s : State) (c : CrewRef) : (s.waitScalar c).links = s.links := by
  simp [State.waitScalar]
@[simp] theorem State.waitScalar_peers (s : State) (c : CrewRef) : (s.waitScalar c).peers = s.peers := by
  simp [State.waitScalar]

/-! ### sticky -/

@[simp] theorem State.sticky_turn (s : State) (c : CrewRef) (g : Flags) : (s.sticky c g).turn = s.turn := by
  simp [State.sticky]
@[simp] theorem State.sticky_agenda (s : State) (c : CrewRef) (g : Flags) : (s.sticky c g).agenda = s.agenda := by
  simp [State.sticky]
@[simp] theorem State.sticky_draws (s : State) (c : CrewRef) (g : Flags) : (s.sticky c g).draws = s.draws := by
  simp [State.sticky]
@[simp] theorem State.sticky_nextUid (s : State) (c : CrewRef) (g : Flags) : (s.sticky c g).nextUid = s.nextUid := by
  simp [State.sticky]
@[simp] theorem State.sticky_powered (s : State) (c : CrewRef) (g : Flags) : (s.sticky c g).powered = s.powered := by
  simp [State.sticky]
@[simp] theorem State.sticky_fuses (s : State) (c : CrewRef) (g : Flags) : (s.sticky c g).fuses = s.fuses := by
  simp [State.sticky]
@[simp] theorem State.sticky_ident (s : State) (c : CrewRef) (g : Flags) : (s.sticky c g).ident = s.ident := by
  simp [State.sticky]
@[simp] theorem State.sticky_clk (s : State) (c : CrewRef) (g : Flags) : (s.sticky c g).clk = s.clk := by
  simp [State.sticky]
@[simp] theorem State.sticky_mem (s : State) (c : CrewRef) (g : Flags) : (s.sticky c g).mem = s.mem := by
  simp [State.sticky]
@[simp] theorem State.sticky_poison (s : State) (c : CrewRef) (g : Flags) : (s.sticky c g).poison = s.poison := by
  simp [State.sticky]
@[simp] theorem State.sticky_hostMap (s : State) (c : CrewRef) (g : Flags) : (s.sticky c g).hostMap = s.hostMap := by
  simp [State.sticky]
@[simp] theorem State.sticky_worlds (s : State) (c : CrewRef) (g : Flags) : (s.sticky c g).worlds = s.worlds := by
  simp [State.sticky]
@[simp] theorem State.sticky_spaces (s : State) (c : CrewRef) (g : Flags) : (s.sticky c g).spaces = s.spaces := by
  simp [State.sticky]
@[simp] theorem State.sticky_queues (s : State) (c : CrewRef) (g : Flags) : (s.sticky c g).queues = s.queues := by
  simp [State.sticky]
@[simp] theorem State.sticky_round (s : State) (c : CrewRef) (g : Flags) : (s.sticky c g).round = s.round := by
  simp [State.sticky]
@[simp] theorem State.sticky_bells (s : State) (c : CrewRef) (g : Flags) : (s.sticky c g).bells = s.bells := by
  simp [State.sticky]
@[simp] theorem State.sticky_notify (s : State) (c : CrewRef) (g : Flags) : (s.sticky c g).notify = s.notify := by
  simp [State.sticky]
@[simp] theorem State.sticky_drives (s : State) (c : CrewRef) (g : Flags) : (s.sticky c g).drives = s.drives := by
  simp [State.sticky]
@[simp] theorem State.sticky_mbox (s : State) (c : CrewRef) (g : Flags) : (s.sticky c g).mbox = s.mbox := by
  simp [State.sticky]
@[simp] theorem State.sticky_units (s : State) (c : CrewRef) (g : Flags) : (s.sticky c g).units = s.units := by
  simp [State.sticky]
@[simp] theorem State.sticky_launches (s : State) (c : CrewRef) (g : Flags) : (s.sticky c g).launches = s.launches := by
  simp [State.sticky]
@[simp] theorem State.sticky_saves (s : State) (c : CrewRef) (g : Flags) : (s.sticky c g).saves = s.saves := by
  simp [State.sticky]
@[simp] theorem State.sticky_blocks (s : State) (c : CrewRef) (g : Flags) : (s.sticky c g).blocks = s.blocks := by
  simp [State.sticky]
@[simp] theorem State.sticky_clusters (s : State) (c : CrewRef) (g : Flags) : (s.sticky c g).clusters = s.clusters := by
  simp [State.sticky]
@[simp] theorem State.sticky_cores (s : State) (c : CrewRef) (g : Flags) : (s.sticky c g).cores = s.cores := by
  simp [State.sticky]
@[simp] theorem State.sticky_sup (s : State) (c : CrewRef) (g : Flags) : (s.sticky c g).sup = s.sup := by
  simp [State.sticky]
@[simp] theorem State.sticky_ctls (s : State) (c : CrewRef) (g : Flags) : (s.sticky c g).ctls = s.ctls := by
  simp [State.sticky]
@[simp] theorem State.sticky_reqs (s : State) (c : CrewRef) (g : Flags) : (s.sticky c g).reqs = s.reqs := by
  simp [State.sticky]
@[simp] theorem State.sticky_fore (s : State) (c : CrewRef) (g : Flags) : (s.sticky c g).fore = s.fore := by
  simp [State.sticky]
@[simp] theorem State.sticky_porter (s : State) (c : CrewRef) (g : Flags) : (s.sticky c g).porter = s.porter := by
  simp [State.sticky]
@[simp] theorem State.sticky_links (s : State) (c : CrewRef) (g : Flags) : (s.sticky c g).links = s.links := by
  simp [State.sticky]
@[simp] theorem State.sticky_peers (s : State) (c : CrewRef) (g : Flags) : (s.sticky c g).peers = s.peers := by
  simp [State.sticky]

/-! ### putMos -/

@[simp] theorem State.putMos_turn (s : State) (c : CrewRef) (l : List MosEntry) : (s.putMos c l).turn = s.turn := by
  cases c <;> rfl
@[simp] theorem State.putMos_agenda (s : State) (c : CrewRef) (l : List MosEntry) : (s.putMos c l).agenda = s.agenda := by
  cases c <;> rfl
@[simp] theorem State.putMos_draws (s : State) (c : CrewRef) (l : List MosEntry) : (s.putMos c l).draws = s.draws := by
  cases c <;> rfl
@[simp] theorem State.putMos_nextUid (s : State) (c : CrewRef) (l : List MosEntry) : (s.putMos c l).nextUid = s.nextUid := by
  cases c <;> rfl
@[simp] theorem State.putMos_powered (s : State) (c : CrewRef) (l : List MosEntry) : (s.putMos c l).powered = s.powered := by
  cases c <;> rfl
@[simp] theorem State.putMos_fuses (s : State) (c : CrewRef) (l : List MosEntry) : (s.putMos c l).fuses = s.fuses := by
  cases c <;> rfl
@[simp] theorem State.putMos_ident (s : State) (c : CrewRef) (l : List MosEntry) : (s.putMos c l).ident = s.ident := by
  cases c <;> rfl
@[simp] theorem State.putMos_clk (s : State) (c : CrewRef) (l : List MosEntry) : (s.putMos c l).clk = s.clk := by
  cases c <;> rfl
@[simp] theorem State.putMos_mem (s : State) (c : CrewRef) (l : List MosEntry) : (s.putMos c l).mem = s.mem := by
  cases c <;> rfl
@[simp] theorem State.putMos_poison (s : State) (c : CrewRef) (l : List MosEntry) : (s.putMos c l).poison = s.poison := by
  cases c <;> rfl
@[simp] theorem State.putMos_hostMap (s : State) (c : CrewRef) (l : List MosEntry) : (s.putMos c l).hostMap = s.hostMap := by
  cases c <;> rfl
@[simp] theorem State.putMos_worlds (s : State) (c : CrewRef) (l : List MosEntry) : (s.putMos c l).worlds = s.worlds := by
  cases c <;> rfl
@[simp] theorem State.putMos_spaces (s : State) (c : CrewRef) (l : List MosEntry) : (s.putMos c l).spaces = s.spaces := by
  cases c <;> rfl
@[simp] theorem State.putMos_queues (s : State) (c : CrewRef) (l : List MosEntry) : (s.putMos c l).queues = s.queues := by
  cases c <;> rfl
@[simp] theorem State.putMos_round (s : State) (c : CrewRef) (l : List MosEntry) : (s.putMos c l).round = s.round := by
  cases c <;> rfl
@[simp] theorem State.putMos_bells (s : State) (c : CrewRef) (l : List MosEntry) : (s.putMos c l).bells = s.bells := by
  cases c <;> rfl
@[simp] theorem State.putMos_notify (s : State) (c : CrewRef) (l : List MosEntry) : (s.putMos c l).notify = s.notify := by
  cases c <;> rfl
@[simp] theorem State.putMos_drives (s : State) (c : CrewRef) (l : List MosEntry) : (s.putMos c l).drives = s.drives := by
  cases c <;> rfl
@[simp] theorem State.putMos_mbox (s : State) (c : CrewRef) (l : List MosEntry) : (s.putMos c l).mbox = s.mbox := by
  cases c <;> rfl
@[simp] theorem State.putMos_units (s : State) (c : CrewRef) (l : List MosEntry) : (s.putMos c l).units = s.units := by
  cases c <;> rfl
@[simp] theorem State.putMos_launches (s : State) (c : CrewRef) (l : List MosEntry) : (s.putMos c l).launches = s.launches := by
  cases c <;> rfl
@[simp] theorem State.putMos_saves (s : State) (c : CrewRef) (l : List MosEntry) : (s.putMos c l).saves = s.saves := by
  cases c <;> rfl
@[simp] theorem State.putMos_blocks (s : State) (c : CrewRef) (l : List MosEntry) : (s.putMos c l).blocks = s.blocks := by
  cases c <;> rfl
@[simp] theorem State.putMos_clusters (s : State) (c : CrewRef) (l : List MosEntry) : (s.putMos c l).clusters = s.clusters := by
  cases c <;> rfl
@[simp] theorem State.putMos_crews (s : State) (c : CrewRef) (l : List MosEntry) : (s.putMos c l).crews = s.crews := by
  cases c <;> rfl
@[simp] theorem State.putMos_sup (s : State) (c : CrewRef) (l : List MosEntry) : (s.putMos c l).sup = s.sup := by
  cases c <;> rfl
@[simp] theorem State.putMos_reqs (s : State) (c : CrewRef) (l : List MosEntry) : (s.putMos c l).reqs = s.reqs := by
  cases c <;> rfl
@[simp] theorem State.putMos_fore (s : State) (c : CrewRef) (l : List MosEntry) : (s.putMos c l).fore = s.fore := by
  cases c <;> rfl
@[simp] theorem State.putMos_porter (s : State) (c : CrewRef) (l : List MosEntry) : (s.putMos c l).porter = s.porter := by
  cases c <;> rfl
@[simp] theorem State.putMos_links (s : State) (c : CrewRef) (l : List MosEntry) : (s.putMos c l).links = s.links := by
  cases c <;> rfl
@[simp] theorem State.putMos_peers (s : State) (c : CrewRef) (l : List MosEntry) : (s.putMos c l).peers = s.peers := by
  cases c <;> rfl

/-! ### putSlots -/

@[simp] theorem State.putSlots_turn (s : State) (c : CrewRef) (l : List OvSlot) : (s.putSlots c l).turn = s.turn := by
  cases c <;> rfl
@[simp] theorem State.putSlots_agenda (s : State) (c : CrewRef) (l : List OvSlot) : (s.putSlots c l).agenda = s.agenda := by
  cases c <;> rfl
@[simp] theorem State.putSlots_draws (s : State) (c : CrewRef) (l : List OvSlot) : (s.putSlots c l).draws = s.draws := by
  cases c <;> rfl
@[simp] theorem State.putSlots_nextUid (s : State) (c : CrewRef) (l : List OvSlot) : (s.putSlots c l).nextUid = s.nextUid := by
  cases c <;> rfl
@[simp] theorem State.putSlots_powered (s : State) (c : CrewRef) (l : List OvSlot) : (s.putSlots c l).powered = s.powered := by
  cases c <;> rfl
@[simp] theorem State.putSlots_fuses (s : State) (c : CrewRef) (l : List OvSlot) : (s.putSlots c l).fuses = s.fuses := by
  cases c <;> rfl
@[simp] theorem State.putSlots_ident (s : State) (c : CrewRef) (l : List OvSlot) : (s.putSlots c l).ident = s.ident := by
  cases c <;> rfl
@[simp] theorem State.putSlots_clk (s : State) (c : CrewRef) (l : List OvSlot) : (s.putSlots c l).clk = s.clk := by
  cases c <;> rfl
@[simp] theorem State.putSlots_mem (s : State) (c : CrewRef) (l : List OvSlot) : (s.putSlots c l).mem = s.mem := by
  cases c <;> rfl
@[simp] theorem State.putSlots_poison (s : State) (c : CrewRef) (l : List OvSlot) : (s.putSlots c l).poison = s.poison := by
  cases c <;> rfl
@[simp] theorem State.putSlots_hostMap (s : State) (c : CrewRef) (l : List OvSlot) : (s.putSlots c l).hostMap = s.hostMap := by
  cases c <;> rfl
@[simp] theorem State.putSlots_worlds (s : State) (c : CrewRef) (l : List OvSlot) : (s.putSlots c l).worlds = s.worlds := by
  cases c <;> rfl
@[simp] theorem State.putSlots_spaces (s : State) (c : CrewRef) (l : List OvSlot) : (s.putSlots c l).spaces = s.spaces := by
  cases c <;> rfl
@[simp] theorem State.putSlots_queues (s : State) (c : CrewRef) (l : List OvSlot) : (s.putSlots c l).queues = s.queues := by
  cases c <;> rfl
@[simp] theorem State.putSlots_round (s : State) (c : CrewRef) (l : List OvSlot) : (s.putSlots c l).round = s.round := by
  cases c <;> rfl
@[simp] theorem State.putSlots_bells (s : State) (c : CrewRef) (l : List OvSlot) : (s.putSlots c l).bells = s.bells := by
  cases c <;> rfl
@[simp] theorem State.putSlots_notify (s : State) (c : CrewRef) (l : List OvSlot) : (s.putSlots c l).notify = s.notify := by
  cases c <;> rfl
@[simp] theorem State.putSlots_drives (s : State) (c : CrewRef) (l : List OvSlot) : (s.putSlots c l).drives = s.drives := by
  cases c <;> rfl
@[simp] theorem State.putSlots_mbox (s : State) (c : CrewRef) (l : List OvSlot) : (s.putSlots c l).mbox = s.mbox := by
  cases c <;> rfl
@[simp] theorem State.putSlots_units (s : State) (c : CrewRef) (l : List OvSlot) : (s.putSlots c l).units = s.units := by
  cases c <;> rfl
@[simp] theorem State.putSlots_launches (s : State) (c : CrewRef) (l : List OvSlot) : (s.putSlots c l).launches = s.launches := by
  cases c <;> rfl
@[simp] theorem State.putSlots_saves (s : State) (c : CrewRef) (l : List OvSlot) : (s.putSlots c l).saves = s.saves := by
  cases c <;> rfl
@[simp] theorem State.putSlots_blocks (s : State) (c : CrewRef) (l : List OvSlot) : (s.putSlots c l).blocks = s.blocks := by
  cases c <;> rfl
@[simp] theorem State.putSlots_clusters (s : State) (c : CrewRef) (l : List OvSlot) : (s.putSlots c l).clusters = s.clusters := by
  cases c <;> rfl
@[simp] theorem State.putSlots_crews (s : State) (c : CrewRef) (l : List OvSlot) : (s.putSlots c l).crews = s.crews := by
  cases c <;> rfl
@[simp] theorem State.putSlots_sup (s : State) (c : CrewRef) (l : List OvSlot) : (s.putSlots c l).sup = s.sup := by
  cases c <;> rfl
@[simp] theorem State.putSlots_reqs (s : State) (c : CrewRef) (l : List OvSlot) : (s.putSlots c l).reqs = s.reqs := by
  cases c <;> rfl
@[simp] theorem State.putSlots_fore (s : State) (c : CrewRef) (l : List OvSlot) : (s.putSlots c l).fore = s.fore := by
  cases c <;> rfl
@[simp] theorem State.putSlots_porter (s : State) (c : CrewRef) (l : List OvSlot) : (s.putSlots c l).porter = s.porter := by
  cases c <;> rfl
@[simp] theorem State.putSlots_links (s : State) (c : CrewRef) (l : List OvSlot) : (s.putSlots c l).links = s.links := by
  cases c <;> rfl
@[simp] theorem State.putSlots_peers (s : State) (c : CrewRef) (l : List OvSlot) : (s.putSlots c l).peers = s.peers := by
  cases c <;> rfl

/-! ### Reading a part after replacing it -/

theorem assocGet_put_same {κ α : Type} [DecidableEq κ] (l : List (κ × α)) (a : κ) (v : α) :
    assocGet (assocPut l a v) a = some v := by
  induction l with
  | nil => simp [assocPut, assocGet]
  | cons h t ih =>
    obtain ⟨k, w⟩ := h
    by_cases hk : a = k <;> simp [assocPut, assocGet, hk, ih]

theorem assocGet_put_other {κ α : Type} [DecidableEq κ] (l : List (κ × α)) (a b : κ) (v : α) (h : b ≠ a) :
    assocGet (assocPut l a v) b = assocGet l b := by
  induction l with
  | nil => simp [assocPut, assocGet, h]
  | cons x t ih =>
    obtain ⟨k, w⟩ := x
    by_cases hk : a = k
    · subst hk; simp [assocPut, assocGet, h]
    · by_cases hb : b = k <;> simp [assocPut, assocGet, hk, hb, ih]

theorem listGet_set_same {α : Type} (d v : α) (l : List α) (k : Nat) (h : k < l.length) :
    listGet d (listSet l k v) k = v := by
  induction l generalizing k with
  | nil => simp at h
  | cons x t ih => cases k with
    | zero => rfl
    | succ k => exact ih k (by simpa using h)

theorem listGet_set_other {α : Type} (d v : α) (l : List α) (k j : Nat) (h : j ≠ k) :
    listGet d (listSet l k v) j = listGet d l j := by
  induction l generalizing k j with
  | nil => rfl
  | cons x t ih => cases k with
    | zero => cases j with
      | zero => exact absurd rfl h
      | succ j => rfl
    | succ k => cases j with
      | zero => rfl
      | succ j => exact ih k j (by omega)

theorem listSet_length {α : Type} (v : α) (l : List α) (k : Nat) : (listSet l k v).length = l.length := by
  induction l generalizing k with
  | nil => rfl
  | cons x t ih => cases k with
    | zero => rfl
    | succ k => simp [listSet, ih]

@[simp] theorem State.crew?_putCrew_self (s : State) (c : CrewRef) (k : Crew) : (s.putCrew c k).crew? c = some k :=
  assocGet_put_same _ _ _

theorem State.crew?_putCrew_other (s : State) (c d : CrewRef) (k : Crew) (h : d ≠ c) : (s.putCrew c k).crew? d = s.crew? d :=
  assocGet_put_other _ _ _ _ h

theorem State.modCrew_eq (s : State) (c : CrewRef) (k : Crew) (f : Crew → Crew) (h : s.crew? c = some k) :
    s.modCrew c f = s.putCrew c (f k) := by
  simp [State.modCrew, h]

theorem State.core_putCore_same (s : State) (n : Nat) (x : Core) (h : n < s.cores.length) : (s.putCore n x).core n = x :=
  listGet_set_same _ _ _ _ h

theorem State.core_putCore_other (s : State) (n j : Nat) (x : Core) (h : j ≠ n) : (s.putCore n x).core j = s.core j :=
  listGet_set_other _ _ _ _ _ h

@[simp] theorem State.putCrew_at_core (s : State) (c : CrewRef) (k : Crew) (n : Nat) : (s.putCrew c k).core n = s.core n := rfl
@[simp] theorem State.putCrew_at_ctl (s : State) (c : CrewRef) (k : Crew) (n : Nat) : (s.putCrew c k).ctl n = s.ctl n := rfl
@[simp] theorem State.putCrew_at_space (s : State) (c : CrewRef) (k : Crew) (n : Nat) : (s.putCrew c k).space n = s.space n := rfl
@[simp] theorem State.putCrew_at_queue (s : State) (c : CrewRef) (k : Crew) (n : Nat) : (s.putCrew c k).queue n = s.queue n := rfl
@[simp] theorem State.putCrew_at_drive (s : State) (c : CrewRef) (k : Crew) (n : Nat) : (s.putCrew c k).drive n = s.drive n := rfl
@[simp] theorem State.putCrew_at_block (s : State) (c : CrewRef) (k : Crew) (n : Nat) : (s.putCrew c k).block? n = s.block? n := rfl
@[simp] theorem State.putCrew_at_cluster (s : State) (c : CrewRef) (k : Crew) (n : Nat) : (s.putCrew c k).cluster? n = s.cluster? n := rfl
@[simp] theorem State.putCrew_at_launch (s : State) (c : CrewRef) (k : Crew) (n : Nat) : (s.putCrew c k).launch? n = s.launch? n := rfl
@[simp] theorem State.putCrew_at_unit (s : State) (c : CrewRef) (k : Crew) (n : Nat) : (s.putCrew c k).unit? n = s.unit? n := rfl
@[simp] theorem State.putCrew_blockOf (s : State) (c d : CrewRef) (k : Crew) : (s.putCrew c k).blockOf d = s.blockOf d := by
  cases d <;> rfl
@[simp] theorem State.putCrew_launchOf (s : State) (c d : CrewRef) (k : Crew) : (s.putCrew c k).launchOf d = s.launchOf d := by
  cases d <;> rfl
@[simp] theorem State.putCrew_recOf (s : State) (c d : CrewRef) (k : Crew) : (s.putCrew c k).recOf d = s.recOf d := by
  cases d <;> rfl
@[simp] theorem State.putCrew_coreOf (s : State) (c d : CrewRef) (k : Crew) : (s.putCrew c k).coreOf d = s.coreOf d := by
  cases d <;> rfl
@[simp] theorem State.putCrew_dieOf (s : State) (c d : CrewRef) (k : Crew) : (s.putCrew c k).dieOf d = s.dieOf d := by
  cases d <;> rfl
@[simp] theorem State.putCrew_worldOf (s : State) (c d : CrewRef) (k : Crew) : (s.putCrew c k).worldOf d = s.worldOf d := by
  cases d <;> rfl
@[simp] theorem State.putCrew_asidOf (s : State) (c d : CrewRef) (k : Crew) : (s.putCrew c k).asidOf d = s.asidOf d := by
  cases d <;> rfl
@[simp] theorem State.putCrew_slotsOf (s : State) (c d : CrewRef) (k : Crew) : (s.putCrew c k).slotsOf d = s.slotsOf d := by
  cases d <;> rfl
@[simp] theorem State.putCrew_mosOf (s : State) (c d : CrewRef) (k : Crew) : (s.putCrew c k).mosOf d = s.mosOf d := by
  cases d <;> rfl
@[simp] theorem State.putCrew_blockD (s : State) (c d : CrewRef) (k : Crew) : (s.putCrew c k).blockD d = s.blockD d := by
  cases d <;> rfl
@[simp] theorem State.putCrew_handlerEntry (s : State) (c d : CrewRef) (k : Crew) : (s.putCrew c k).handlerEntry d = s.handlerEntry d := by
  cases d <;> rfl
@[simp] theorem State.putCrew_byte (s : State) (c : CrewRef) (k : Crew) (a : Nat) : (s.putCrew c k).byte a = s.byte a := rfl

/-! ### Crew.putSreg -/

@[simp] theorem Crew.putSreg_unit (k : Crew) (b : Bool) (i : Nat) (v : W64) : (k.putSreg b i v).unit = k.unit := by
  unfold Crew.putSreg; split <;> rfl
@[simp] theorem Crew.putSreg_pc (k : Crew) (b : Bool) (i : Nat) (v : W64) : (k.putSreg b i v).pc = k.pc := by
  unfold Crew.putSreg; split <;> rfl
@[simp] theorem Crew.putSreg_q (k : Crew) (b : Bool) (i : Nat) (v : W64) : (k.putSreg b i v).q = k.q := by
  unfold Crew.putSreg; split <;> rfl
@[simp] theorem Crew.putSreg_v (k : Crew) (b : Bool) (i : Nat) (v : W64) : (k.putSreg b i v).v = k.v := by
  unfold Crew.putSreg; split <;> rfl
@[simp] theorem Crew.putSreg_p (k : Crew) (b : Bool) (i : Nat) (v : W64) : (k.putSreg b i v).p = k.p := by
  unfold Crew.putSreg; split <;> rfl
@[simp] theorem Crew.putSreg_groups (k : Crew) (b : Bool) (i : Nat) (v : W64) : (k.putSreg b i v).groups = k.groups := by
  unfold Crew.putSreg; split <;> rfl
@[simp] theorem Crew.putSreg_flags (k : Crew) (b : Bool) (i : Nat) (v : W64) : (k.putSreg b i v).flags = k.flags := by
  unfold Crew.putSreg; split <;> rfl
@[simp] theorem Crew.putSreg_h (k : Crew) (b : Bool) (i : Nat) (v : W64) : (k.putSreg b i v).h = k.h := by
  unfold Crew.putSreg; split <;> rfl
@[simp] theorem Crew.putSreg_tr (k : Crew) (b : Bool) (i : Nat) (v : W64) : (k.putSreg b i v).tr = k.tr := by
  unfold Crew.putSreg; split <;> rfl
@[simp] theorem Crew.putSreg_ftstat (k : Crew) (b : Bool) (i : Nat) (v : W64) : (k.putSreg b i v).ftstat = k.ftstat := by
  unfold Crew.putSreg; split <;> rfl
@[simp] theorem Crew.putSreg_ftReq (k : Crew) (b : Bool) (i : Nat) (v : W64) : (k.putSreg b i v).ftReq = k.ftReq := by
  unfold Crew.putSreg; split <;> rfl
@[simp] theorem Crew.putSreg_grant (k : Crew) (b : Bool) (i : Nat) (v : W64) : (k.putSreg b i v).grant = k.grant := by
  unfold Crew.putSreg; split <;> rfl
@[simp] theorem Crew.putSreg_gangw (k : Crew) (b : Bool) (i : Nat) (v : W64) : (k.putSreg b i v).gangw = k.gangw := by
  unfold Crew.putSreg; split <;> rfl
@[simp] theorem Crew.putSreg_ctx (k : Crew) (b : Bool) (i : Nat) (v : W64) : (k.putSreg b i v).ctx = k.ctx := by
  unfold Crew.putSreg; split <;> rfl
@[simp] theorem Crew.putSreg_runs (k : Crew) (b : Bool) (i : Nat) (v : W64) : (k.putSreg b i v).runs = k.runs := by
  unfold Crew.putSreg; split <;> rfl
@[simp] theorem Crew.putSreg_hrun (k : Crew) (b : Bool) (i : Nat) (v : W64) : (k.putSreg b i v).hrun = k.hrun := by
  unfold Crew.putSreg; split <;> rfl
@[simp] theorem Crew.putSreg_out (k : Crew) (b : Bool) (i : Nat) (v : W64) : (k.putSreg b i v).out = k.out := by
  unfold Crew.putSreg; split <;> rfl
@[simp] theorem Crew.putSreg_shown (k : Crew) (b : Bool) (i : Nat) (v : W64) : (k.putSreg b i v).shown = k.shown := by
  unfold Crew.putSreg; split <;> rfl
@[simp] theorem Crew.putSreg_park (k : Crew) (b : Bool) (i : Nat) (v : W64) : (k.putSreg b i v).park = k.park := by
  unfold Crew.putSreg; split <;> rfl
@[simp] theorem Crew.putSreg_parkH (k : Crew) (b : Bool) (i : Nat) (v : W64) : (k.putSreg b i v).parkH = k.parkH := by
  unfold Crew.putSreg; split <;> rfl
@[simp] theorem Crew.putSreg_wait (k : Crew) (b : Bool) (i : Nat) (v : W64) : (k.putSreg b i v).wait = k.wait := by
  unfold Crew.putSreg; split <;> rfl
@[simp] theorem Crew.putSreg_word (k : Crew) (b : Bool) (i : Nat) (v : W64) : (k.putSreg b i v).word = k.word := by
  unfold Crew.putSreg; split <;> rfl
@[simp] theorem Crew.putSreg_blk (k : Crew) (b : Bool) (i : Nat) (v : W64) : (k.putSreg b i v).blk = k.blk := by
  unfold Crew.putSreg; split <;> rfl
@[simp] theorem Crew.putSreg_unread (k : Crew) (b : Bool) (i : Nat) (v : W64) : (k.putSreg b i v).unread = k.unread := by
  unfold Crew.putSreg; split <;> rfl
@[simp] theorem Crew.putSreg_memerr (k : Crew) (b : Bool) (i : Nat) (v : W64) : (k.putSreg b i v).memerr = k.memerr := by
  unfold Crew.putSreg; split <;> rfl
@[simp] theorem Crew.putSreg_deferred (k : Crew) (b : Bool) (i : Nat) (v : W64) : (k.putSreg b i v).deferred = k.deferred := by
  unfold Crew.putSreg; split <;> rfl
@[simp] theorem Crew.putSreg_trapping (k : Crew) (b : Bool) (i : Nat) (v : W64) : (k.putSreg b i v).trapping = k.trapping := by
  unfold Crew.putSreg; split <;> rfl
@[simp] theorem Crew.putSreg_growth (k : Crew) (b : Bool) (i : Nat) (v : W64) : (k.putSreg b i v).growth = k.growth := by
  unfold Crew.putSreg; split <;> rfl
@[simp] theorem Crew.putSreg_leave (k : Crew) (b : Bool) (i : Nat) (v : W64) : (k.putSreg b i v).leave = k.leave := by
  unfold Crew.putSreg; split <;> rfl
@[simp] theorem Crew.putSreg_stopping (k : Crew) (b : Bool) (i : Nat) (v : W64) : (k.putSreg b i v).stopping = k.stopping := by
  unfold Crew.putSreg; split <;> rfl
@[simp] theorem Crew.putSreg_age (k : Crew) (b : Bool) (i : Nat) (v : W64) : (k.putSreg b i v).age = k.age := by
  unfold Crew.putSreg; split <;> rfl
@[simp] theorem Crew.putSreg_sinceS (k : Crew) (b : Bool) (i : Nat) (v : W64) : (k.putSreg b i v).sinceS = k.sinceS := by
  unfold Crew.putSreg; split <;> rfl
@[simp] theorem Crew.putSreg_sinceL (k : Crew) (b : Bool) (i : Nat) (v : W64) : (k.putSreg b i v).sinceL = k.sinceL := by
  unfold Crew.putSreg; split <;> rfl
@[simp] theorem Crew.putSreg_boostS (k : Crew) (b : Bool) (i : Nat) (v : W64) : (k.putSreg b i v).boostS = k.boostS := by
  unfold Crew.putSreg; split <;> rfl
@[simp] theorem Crew.putSreg_boostL (k : Crew) (b : Bool) (i : Nat) (v : W64) : (k.putSreg b i v).boostL = k.boostL := by
  unfold Crew.putSreg; split <;> rfl

/-! ### Crew.swrite -/

@[simp] theorem Crew.swrite_unit (k : Crew) (r : BitVec 7) (v : W64) : (k.swrite r v).unit = k.unit := by
  unfold Crew.swrite; split <;> simp
@[simp] theorem Crew.swrite_pc (k : Crew) (r : BitVec 7) (v : W64) : (k.swrite r v).pc = k.pc := by
  unfold Crew.swrite; split <;> simp
@[simp] theorem Crew.swrite_q (k : Crew) (r : BitVec 7) (v : W64) : (k.swrite r v).q = k.q := by
  unfold Crew.swrite; split <;> simp
@[simp] theorem Crew.swrite_v (k : Crew) (r : BitVec 7) (v : W64) : (k.swrite r v).v = k.v := by
  unfold Crew.swrite; split <;> simp
@[simp] theorem Crew.swrite_p (k : Crew) (r : BitVec 7) (v : W64) : (k.swrite r v).p = k.p := by
  unfold Crew.swrite; split <;> simp
@[simp] theorem Crew.swrite_groups (k : Crew) (r : BitVec 7) (v : W64) : (k.swrite r v).groups = k.groups := by
  unfold Crew.swrite; split <;> simp
@[simp] theorem Crew.swrite_flags (k : Crew) (r : BitVec 7) (v : W64) : (k.swrite r v).flags = k.flags := by
  unfold Crew.swrite; split <;> simp
@[simp] theorem Crew.swrite_h (k : Crew) (r : BitVec 7) (v : W64) : (k.swrite r v).h = k.h := by
  unfold Crew.swrite; split <;> simp
@[simp] theorem Crew.swrite_tr (k : Crew) (r : BitVec 7) (v : W64) : (k.swrite r v).tr = k.tr := by
  unfold Crew.swrite; split <;> simp
@[simp] theorem Crew.swrite_ftstat (k : Crew) (r : BitVec 7) (v : W64) : (k.swrite r v).ftstat = k.ftstat := by
  unfold Crew.swrite; split <;> simp
@[simp] theorem Crew.swrite_ftReq (k : Crew) (r : BitVec 7) (v : W64) : (k.swrite r v).ftReq = k.ftReq := by
  unfold Crew.swrite; split <;> simp
@[simp] theorem Crew.swrite_grant (k : Crew) (r : BitVec 7) (v : W64) : (k.swrite r v).grant = k.grant := by
  unfold Crew.swrite; split <;> simp
@[simp] theorem Crew.swrite_gangw (k : Crew) (r : BitVec 7) (v : W64) : (k.swrite r v).gangw = k.gangw := by
  unfold Crew.swrite; split <;> simp
@[simp] theorem Crew.swrite_ctx (k : Crew) (r : BitVec 7) (v : W64) : (k.swrite r v).ctx = k.ctx := by
  unfold Crew.swrite; split <;> simp
@[simp] theorem Crew.swrite_runs (k : Crew) (r : BitVec 7) (v : W64) : (k.swrite r v).runs = k.runs := by
  unfold Crew.swrite; split <;> simp
@[simp] theorem Crew.swrite_hrun (k : Crew) (r : BitVec 7) (v : W64) : (k.swrite r v).hrun = k.hrun := by
  unfold Crew.swrite; split <;> simp
@[simp] theorem Crew.swrite_out (k : Crew) (r : BitVec 7) (v : W64) : (k.swrite r v).out = k.out := by
  unfold Crew.swrite; split <;> simp
@[simp] theorem Crew.swrite_shown (k : Crew) (r : BitVec 7) (v : W64) : (k.swrite r v).shown = k.shown := by
  unfold Crew.swrite; split <;> simp
@[simp] theorem Crew.swrite_park (k : Crew) (r : BitVec 7) (v : W64) : (k.swrite r v).park = k.park := by
  unfold Crew.swrite; split <;> simp
@[simp] theorem Crew.swrite_parkH (k : Crew) (r : BitVec 7) (v : W64) : (k.swrite r v).parkH = k.parkH := by
  unfold Crew.swrite; split <;> simp
@[simp] theorem Crew.swrite_wait (k : Crew) (r : BitVec 7) (v : W64) : (k.swrite r v).wait = k.wait := by
  unfold Crew.swrite; split <;> simp
@[simp] theorem Crew.swrite_word (k : Crew) (r : BitVec 7) (v : W64) : (k.swrite r v).word = k.word := by
  unfold Crew.swrite; split <;> simp
@[simp] theorem Crew.swrite_blk (k : Crew) (r : BitVec 7) (v : W64) : (k.swrite r v).blk = k.blk := by
  unfold Crew.swrite; split <;> simp
@[simp] theorem Crew.swrite_unread (k : Crew) (r : BitVec 7) (v : W64) : (k.swrite r v).unread = k.unread := by
  unfold Crew.swrite; split <;> simp
@[simp] theorem Crew.swrite_memerr (k : Crew) (r : BitVec 7) (v : W64) : (k.swrite r v).memerr = k.memerr := by
  unfold Crew.swrite; split <;> simp
@[simp] theorem Crew.swrite_deferred (k : Crew) (r : BitVec 7) (v : W64) : (k.swrite r v).deferred = k.deferred := by
  unfold Crew.swrite; split <;> simp
@[simp] theorem Crew.swrite_trapping (k : Crew) (r : BitVec 7) (v : W64) : (k.swrite r v).trapping = k.trapping := by
  unfold Crew.swrite; split <;> simp
@[simp] theorem Crew.swrite_growth (k : Crew) (r : BitVec 7) (v : W64) : (k.swrite r v).growth = k.growth := by
  unfold Crew.swrite; split <;> simp
@[simp] theorem Crew.swrite_leave (k : Crew) (r : BitVec 7) (v : W64) : (k.swrite r v).leave = k.leave := by
  unfold Crew.swrite; split <;> simp
@[simp] theorem Crew.swrite_stopping (k : Crew) (r : BitVec 7) (v : W64) : (k.swrite r v).stopping = k.stopping := by
  unfold Crew.swrite; split <;> simp
@[simp] theorem Crew.swrite_age (k : Crew) (r : BitVec 7) (v : W64) : (k.swrite r v).age = k.age := by
  unfold Crew.swrite; split <;> simp
@[simp] theorem Crew.swrite_sinceS (k : Crew) (r : BitVec 7) (v : W64) : (k.swrite r v).sinceS = k.sinceS := by
  unfold Crew.swrite; split <;> simp
@[simp] theorem Crew.swrite_sinceL (k : Crew) (r : BitVec 7) (v : W64) : (k.swrite r v).sinceL = k.sinceL := by
  unfold Crew.swrite; split <;> simp
@[simp] theorem Crew.swrite_boostS (k : Crew) (r : BitVec 7) (v : W64) : (k.swrite r v).boostS = k.boostS := by
  unfold Crew.swrite; split <;> simp
@[simp] theorem Crew.swrite_boostL (k : Crew) (r : BitVec 7) (v : W64) : (k.swrite r v).boostL = k.boostL := by
  unfold Crew.swrite; split <;> simp

/-! ### Crew.qwrite -/

@[simp] theorem Crew.qwrite_unit (k : Crew) (i : BitVec 3) (b : Bool) : (k.qwrite i b).unit = k.unit := rfl
@[simp] theorem Crew.qwrite_pc (k : Crew) (i : BitVec 3) (b : Bool) : (k.qwrite i b).pc = k.pc := rfl
@[simp] theorem Crew.qwrite_s (k : Crew) (i : BitVec 3) (b : Bool) : (k.qwrite i b).s = k.s := rfl
@[simp] theorem Crew.qwrite_bank (k : Crew) (i : BitVec 3) (b : Bool) : (k.qwrite i b).bank = k.bank := rfl
@[simp] theorem Crew.qwrite_v (k : Crew) (i : BitVec 3) (b : Bool) : (k.qwrite i b).v = k.v := rfl
@[simp] theorem Crew.qwrite_p (k : Crew) (i : BitVec 3) (b : Bool) : (k.qwrite i b).p = k.p := rfl
@[simp] theorem Crew.qwrite_groups (k : Crew) (i : BitVec 3) (b : Bool) : (k.qwrite i b).groups = k.groups := rfl
@[simp] theorem Crew.qwrite_flags (k : Crew) (i : BitVec 3) (b : Bool) : (k.qwrite i b).flags = k.flags := rfl
@[simp] theorem Crew.qwrite_h (k : Crew) (i : BitVec 3) (b : Bool) : (k.qwrite i b).h = k.h := rfl
@[simp] theorem Crew.qwrite_tr (k : Crew) (i : BitVec 3) (b : Bool) : (k.qwrite i b).tr = k.tr := rfl
@[simp] theorem Crew.qwrite_ftstat (k : Crew) (i : BitVec 3) (b : Bool) : (k.qwrite i b).ftstat = k.ftstat := rfl
@[simp] theorem Crew.qwrite_ftReq (k : Crew) (i : BitVec 3) (b : Bool) : (k.qwrite i b).ftReq = k.ftReq := rfl
@[simp] theorem Crew.qwrite_grant (k : Crew) (i : BitVec 3) (b : Bool) : (k.qwrite i b).grant = k.grant := rfl
@[simp] theorem Crew.qwrite_gangw (k : Crew) (i : BitVec 3) (b : Bool) : (k.qwrite i b).gangw = k.gangw := rfl
@[simp] theorem Crew.qwrite_ctx (k : Crew) (i : BitVec 3) (b : Bool) : (k.qwrite i b).ctx = k.ctx := rfl
@[simp] theorem Crew.qwrite_runs (k : Crew) (i : BitVec 3) (b : Bool) : (k.qwrite i b).runs = k.runs := rfl
@[simp] theorem Crew.qwrite_hrun (k : Crew) (i : BitVec 3) (b : Bool) : (k.qwrite i b).hrun = k.hrun := rfl
@[simp] theorem Crew.qwrite_out (k : Crew) (i : BitVec 3) (b : Bool) : (k.qwrite i b).out = k.out := rfl
@[simp] theorem Crew.qwrite_shown (k : Crew) (i : BitVec 3) (b : Bool) : (k.qwrite i b).shown = k.shown := rfl
@[simp] theorem Crew.qwrite_park (k : Crew) (i : BitVec 3) (b : Bool) : (k.qwrite i b).park = k.park := rfl
@[simp] theorem Crew.qwrite_parkH (k : Crew) (i : BitVec 3) (b : Bool) : (k.qwrite i b).parkH = k.parkH := rfl
@[simp] theorem Crew.qwrite_wait (k : Crew) (i : BitVec 3) (b : Bool) : (k.qwrite i b).wait = k.wait := rfl
@[simp] theorem Crew.qwrite_word (k : Crew) (i : BitVec 3) (b : Bool) : (k.qwrite i b).word = k.word := rfl
@[simp] theorem Crew.qwrite_blk (k : Crew) (i : BitVec 3) (b : Bool) : (k.qwrite i b).blk = k.blk := rfl
@[simp] theorem Crew.qwrite_unread (k : Crew) (i : BitVec 3) (b : Bool) : (k.qwrite i b).unread = k.unread := rfl
@[simp] theorem Crew.qwrite_memerr (k : Crew) (i : BitVec 3) (b : Bool) : (k.qwrite i b).memerr = k.memerr := rfl
@[simp] theorem Crew.qwrite_deferred (k : Crew) (i : BitVec 3) (b : Bool) : (k.qwrite i b).deferred = k.deferred := rfl
@[simp] theorem Crew.qwrite_trapping (k : Crew) (i : BitVec 3) (b : Bool) : (k.qwrite i b).trapping = k.trapping := rfl
@[simp] theorem Crew.qwrite_growth (k : Crew) (i : BitVec 3) (b : Bool) : (k.qwrite i b).growth = k.growth := rfl
@[simp] theorem Crew.qwrite_leave (k : Crew) (i : BitVec 3) (b : Bool) : (k.qwrite i b).leave = k.leave := rfl
@[simp] theorem Crew.qwrite_stopping (k : Crew) (i : BitVec 3) (b : Bool) : (k.qwrite i b).stopping = k.stopping := rfl
@[simp] theorem Crew.qwrite_age (k : Crew) (i : BitVec 3) (b : Bool) : (k.qwrite i b).age = k.age := rfl
@[simp] theorem Crew.qwrite_sinceS (k : Crew) (i : BitVec 3) (b : Bool) : (k.qwrite i b).sinceS = k.sinceS := rfl
@[simp] theorem Crew.qwrite_sinceL (k : Crew) (i : BitVec 3) (b : Bool) : (k.qwrite i b).sinceL = k.sinceL := rfl
@[simp] theorem Crew.qwrite_boostS (k : Crew) (i : BitVec 3) (b : Bool) : (k.qwrite i b).boostS = k.boostS := rfl
@[simp] theorem Crew.qwrite_boostL (k : Crew) (i : BitVec 3) (b : Bool) : (k.qwrite i b).boostL = k.boostL := rfl

/-! ### Crew.vwrite -/

@[simp] theorem Crew.vwrite_unit (k : Crew) (l n : Nat) (v : W32) : (k.vwrite l n v).unit = k.unit := rfl
@[simp] theorem Crew.vwrite_pc (k : Crew) (l n : Nat) (v : W32) : (k.vwrite l n v).pc = k.pc := rfl
@[simp] theorem Crew.vwrite_s (k : Crew) (l n : Nat) (v : W32) : (k.vwrite l n v).s = k.s := rfl
@[simp] theorem Crew.vwrite_q (k : Crew) (l n : Nat) (v : W32) : (k.vwrite l n v).q = k.q := rfl
@[simp] theorem Crew.vwrite_bank (k : Crew) (l n : Nat) (v : W32) : (k.vwrite l n v).bank = k.bank := rfl
@[simp] theorem Crew.vwrite_p (k : Crew) (l n : Nat) (v : W32) : (k.vwrite l n v).p = k.p := rfl
@[simp] theorem Crew.vwrite_groups (k : Crew) (l n : Nat) (v : W32) : (k.vwrite l n v).groups = k.groups := rfl
@[simp] theorem Crew.vwrite_flags (k : Crew) (l n : Nat) (v : W32) : (k.vwrite l n v).flags = k.flags := rfl
@[simp] theorem Crew.vwrite_h (k : Crew) (l n : Nat) (v : W32) : (k.vwrite l n v).h = k.h := rfl
@[simp] theorem Crew.vwrite_tr (k : Crew) (l n : Nat) (v : W32) : (k.vwrite l n v).tr = k.tr := rfl
@[simp] theorem Crew.vwrite_ftstat (k : Crew) (l n : Nat) (v : W32) : (k.vwrite l n v).ftstat = k.ftstat := rfl
@[simp] theorem Crew.vwrite_ftReq (k : Crew) (l n : Nat) (v : W32) : (k.vwrite l n v).ftReq = k.ftReq := rfl
@[simp] theorem Crew.vwrite_grant (k : Crew) (l n : Nat) (v : W32) : (k.vwrite l n v).grant = k.grant := rfl
@[simp] theorem Crew.vwrite_gangw (k : Crew) (l n : Nat) (v : W32) : (k.vwrite l n v).gangw = k.gangw := rfl
@[simp] theorem Crew.vwrite_ctx (k : Crew) (l n : Nat) (v : W32) : (k.vwrite l n v).ctx = k.ctx := rfl
@[simp] theorem Crew.vwrite_runs (k : Crew) (l n : Nat) (v : W32) : (k.vwrite l n v).runs = k.runs := rfl
@[simp] theorem Crew.vwrite_hrun (k : Crew) (l n : Nat) (v : W32) : (k.vwrite l n v).hrun = k.hrun := rfl
@[simp] theorem Crew.vwrite_out (k : Crew) (l n : Nat) (v : W32) : (k.vwrite l n v).out = k.out := rfl
@[simp] theorem Crew.vwrite_shown (k : Crew) (l n : Nat) (v : W32) : (k.vwrite l n v).shown = k.shown := rfl
@[simp] theorem Crew.vwrite_park (k : Crew) (l n : Nat) (v : W32) : (k.vwrite l n v).park = k.park := rfl
@[simp] theorem Crew.vwrite_parkH (k : Crew) (l n : Nat) (v : W32) : (k.vwrite l n v).parkH = k.parkH := rfl
@[simp] theorem Crew.vwrite_wait (k : Crew) (l n : Nat) (v : W32) : (k.vwrite l n v).wait = k.wait := rfl
@[simp] theorem Crew.vwrite_word (k : Crew) (l n : Nat) (v : W32) : (k.vwrite l n v).word = k.word := rfl
@[simp] theorem Crew.vwrite_blk (k : Crew) (l n : Nat) (v : W32) : (k.vwrite l n v).blk = k.blk := rfl
@[simp] theorem Crew.vwrite_unread (k : Crew) (l n : Nat) (v : W32) : (k.vwrite l n v).unread = k.unread := rfl
@[simp] theorem Crew.vwrite_memerr (k : Crew) (l n : Nat) (v : W32) : (k.vwrite l n v).memerr = k.memerr := rfl
@[simp] theorem Crew.vwrite_deferred (k : Crew) (l n : Nat) (v : W32) : (k.vwrite l n v).deferred = k.deferred := rfl
@[simp] theorem Crew.vwrite_trapping (k : Crew) (l n : Nat) (v : W32) : (k.vwrite l n v).trapping = k.trapping := rfl
@[simp] theorem Crew.vwrite_growth (k : Crew) (l n : Nat) (v : W32) : (k.vwrite l n v).growth = k.growth := rfl
@[simp] theorem Crew.vwrite_leave (k : Crew) (l n : Nat) (v : W32) : (k.vwrite l n v).leave = k.leave := rfl
@[simp] theorem Crew.vwrite_stopping (k : Crew) (l n : Nat) (v : W32) : (k.vwrite l n v).stopping = k.stopping := rfl
@[simp] theorem Crew.vwrite_age (k : Crew) (l n : Nat) (v : W32) : (k.vwrite l n v).age = k.age := rfl
@[simp] theorem Crew.vwrite_sinceS (k : Crew) (l n : Nat) (v : W32) : (k.vwrite l n v).sinceS = k.sinceS := rfl
@[simp] theorem Crew.vwrite_sinceL (k : Crew) (l n : Nat) (v : W32) : (k.vwrite l n v).sinceL = k.sinceL := rfl
@[simp] theorem Crew.vwrite_boostS (k : Crew) (l n : Nat) (v : W32) : (k.vwrite l n v).boostS = k.boostS := rfl
@[simp] theorem Crew.vwrite_boostL (k : Crew) (l n : Nat) (v : W32) : (k.vwrite l n v).boostL = k.boostL := rfl

/-! ### Crew.vwrite64 -/

@[simp] theorem Crew.vwrite64_unit (k : Crew) (l n : Nat) (v : W64) : (k.vwrite64 l n v).unit = k.unit := rfl
@[simp] theorem Crew.vwrite64_pc (k : Crew) (l n : Nat) (v : W64) : (k.vwrite64 l n v).pc = k.pc := rfl
@[simp] theorem Crew.vwrite64_s (k : Crew) (l n : Nat) (v : W64) : (k.vwrite64 l n v).s = k.s := rfl
@[simp] theorem Crew.vwrite64_q (k : Crew) (l n : Nat) (v : W64) : (k.vwrite64 l n v).q = k.q := rfl
@[simp] theorem Crew.vwrite64_bank (k : Crew) (l n : Nat) (v : W64) : (k.vwrite64 l n v).bank = k.bank := rfl
@[simp] theorem Crew.vwrite64_p (k : Crew) (l n : Nat) (v : W64) : (k.vwrite64 l n v).p = k.p := rfl
@[simp] theorem Crew.vwrite64_groups (k : Crew) (l n : Nat) (v : W64) : (k.vwrite64 l n v).groups = k.groups := rfl
@[simp] theorem Crew.vwrite64_flags (k : Crew) (l n : Nat) (v : W64) : (k.vwrite64 l n v).flags = k.flags := rfl
@[simp] theorem Crew.vwrite64_h (k : Crew) (l n : Nat) (v : W64) : (k.vwrite64 l n v).h = k.h := rfl
@[simp] theorem Crew.vwrite64_tr (k : Crew) (l n : Nat) (v : W64) : (k.vwrite64 l n v).tr = k.tr := rfl
@[simp] theorem Crew.vwrite64_ftstat (k : Crew) (l n : Nat) (v : W64) : (k.vwrite64 l n v).ftstat = k.ftstat := rfl
@[simp] theorem Crew.vwrite64_ftReq (k : Crew) (l n : Nat) (v : W64) : (k.vwrite64 l n v).ftReq = k.ftReq := rfl
@[simp] theorem Crew.vwrite64_grant (k : Crew) (l n : Nat) (v : W64) : (k.vwrite64 l n v).grant = k.grant := rfl
@[simp] theorem Crew.vwrite64_gangw (k : Crew) (l n : Nat) (v : W64) : (k.vwrite64 l n v).gangw = k.gangw := rfl
@[simp] theorem Crew.vwrite64_ctx (k : Crew) (l n : Nat) (v : W64) : (k.vwrite64 l n v).ctx = k.ctx := rfl
@[simp] theorem Crew.vwrite64_runs (k : Crew) (l n : Nat) (v : W64) : (k.vwrite64 l n v).runs = k.runs := rfl
@[simp] theorem Crew.vwrite64_hrun (k : Crew) (l n : Nat) (v : W64) : (k.vwrite64 l n v).hrun = k.hrun := rfl
@[simp] theorem Crew.vwrite64_out (k : Crew) (l n : Nat) (v : W64) : (k.vwrite64 l n v).out = k.out := rfl
@[simp] theorem Crew.vwrite64_shown (k : Crew) (l n : Nat) (v : W64) : (k.vwrite64 l n v).shown = k.shown := rfl
@[simp] theorem Crew.vwrite64_park (k : Crew) (l n : Nat) (v : W64) : (k.vwrite64 l n v).park = k.park := rfl
@[simp] theorem Crew.vwrite64_parkH (k : Crew) (l n : Nat) (v : W64) : (k.vwrite64 l n v).parkH = k.parkH := rfl
@[simp] theorem Crew.vwrite64_wait (k : Crew) (l n : Nat) (v : W64) : (k.vwrite64 l n v).wait = k.wait := rfl
@[simp] theorem Crew.vwrite64_word (k : Crew) (l n : Nat) (v : W64) : (k.vwrite64 l n v).word = k.word := rfl
@[simp] theorem Crew.vwrite64_blk (k : Crew) (l n : Nat) (v : W64) : (k.vwrite64 l n v).blk = k.blk := rfl
@[simp] theorem Crew.vwrite64_unread (k : Crew) (l n : Nat) (v : W64) : (k.vwrite64 l n v).unread = k.unread := rfl
@[simp] theorem Crew.vwrite64_memerr (k : Crew) (l n : Nat) (v : W64) : (k.vwrite64 l n v).memerr = k.memerr := rfl
@[simp] theorem Crew.vwrite64_deferred (k : Crew) (l n : Nat) (v : W64) : (k.vwrite64 l n v).deferred = k.deferred := rfl
@[simp] theorem Crew.vwrite64_trapping (k : Crew) (l n : Nat) (v : W64) : (k.vwrite64 l n v).trapping = k.trapping := rfl
@[simp] theorem Crew.vwrite64_growth (k : Crew) (l n : Nat) (v : W64) : (k.vwrite64 l n v).growth = k.growth := rfl
@[simp] theorem Crew.vwrite64_leave (k : Crew) (l n : Nat) (v : W64) : (k.vwrite64 l n v).leave = k.leave := rfl
@[simp] theorem Crew.vwrite64_stopping (k : Crew) (l n : Nat) (v : W64) : (k.vwrite64 l n v).stopping = k.stopping := rfl
@[simp] theorem Crew.vwrite64_age (k : Crew) (l n : Nat) (v : W64) : (k.vwrite64 l n v).age = k.age := rfl
@[simp] theorem Crew.vwrite64_sinceS (k : Crew) (l n : Nat) (v : W64) : (k.vwrite64 l n v).sinceS = k.sinceS := rfl
@[simp] theorem Crew.vwrite64_sinceL (k : Crew) (l n : Nat) (v : W64) : (k.vwrite64 l n v).sinceL = k.sinceL := rfl
@[simp] theorem Crew.vwrite64_boostS (k : Crew) (l n : Nat) (v : W64) : (k.vwrite64 l n v).boostS = k.boostS := rfl
@[simp] theorem Crew.vwrite64_boostL (k : Crew) (l n : Nat) (v : W64) : (k.vwrite64 l n v).boostL = k.boostL := rfl

/-! ### Crew.pput -/

@[simp] theorem Crew.pput_unit (k : Crew) (i : Nat) (m b : W32) : (k.pput i m b).unit = k.unit := rfl
@[simp] theorem Crew.pput_pc (k : Crew) (i : Nat) (m b : W32) : (k.pput i m b).pc = k.pc := rfl
@[simp] theorem Crew.pput_s (k : Crew) (i : Nat) (m b : W32) : (k.pput i m b).s = k.s := rfl
@[simp] theorem Crew.pput_q (k : Crew) (i : Nat) (m b : W32) : (k.pput i m b).q = k.q := rfl
@[simp] theorem Crew.pput_bank (k : Crew) (i : Nat) (m b : W32) : (k.pput i m b).bank = k.bank := rfl
@[simp] theorem Crew.pput_v (k : Crew) (i : Nat) (m b : W32) : (k.pput i m b).v = k.v := rfl
@[simp] theorem Crew.pput_groups (k : Crew) (i : Nat) (m b : W32) : (k.pput i m b).groups = k.groups := rfl
@[simp] theorem Crew.pput_flags (k : Crew) (i : Nat) (m b : W32) : (k.pput i m b).flags = k.flags := rfl
@[simp] theorem Crew.pput_h (k : Crew) (i : Nat) (m b : W32) : (k.pput i m b).h = k.h := rfl
@[simp] theorem Crew.pput_tr (k : Crew) (i : Nat) (m b : W32) : (k.pput i m b).tr = k.tr := rfl
@[simp] theorem Crew.pput_ftstat (k : Crew) (i : Nat) (m b : W32) : (k.pput i m b).ftstat = k.ftstat := rfl
@[simp] theorem Crew.pput_ftReq (k : Crew) (i : Nat) (m b : W32) : (k.pput i m b).ftReq = k.ftReq := rfl
@[simp] theorem Crew.pput_grant (k : Crew) (i : Nat) (m b : W32) : (k.pput i m b).grant = k.grant := rfl
@[simp] theorem Crew.pput_gangw (k : Crew) (i : Nat) (m b : W32) : (k.pput i m b).gangw = k.gangw := rfl
@[simp] theorem Crew.pput_ctx (k : Crew) (i : Nat) (m b : W32) : (k.pput i m b).ctx = k.ctx := rfl
@[simp] theorem Crew.pput_runs (k : Crew) (i : Nat) (m b : W32) : (k.pput i m b).runs = k.runs := rfl
@[simp] theorem Crew.pput_hrun (k : Crew) (i : Nat) (m b : W32) : (k.pput i m b).hrun = k.hrun := rfl
@[simp] theorem Crew.pput_out (k : Crew) (i : Nat) (m b : W32) : (k.pput i m b).out = k.out := rfl
@[simp] theorem Crew.pput_shown (k : Crew) (i : Nat) (m b : W32) : (k.pput i m b).shown = k.shown := rfl
@[simp] theorem Crew.pput_park (k : Crew) (i : Nat) (m b : W32) : (k.pput i m b).park = k.park := rfl
@[simp] theorem Crew.pput_parkH (k : Crew) (i : Nat) (m b : W32) : (k.pput i m b).parkH = k.parkH := rfl
@[simp] theorem Crew.pput_wait (k : Crew) (i : Nat) (m b : W32) : (k.pput i m b).wait = k.wait := rfl
@[simp] theorem Crew.pput_word (k : Crew) (i : Nat) (m b : W32) : (k.pput i m b).word = k.word := rfl
@[simp] theorem Crew.pput_blk (k : Crew) (i : Nat) (m b : W32) : (k.pput i m b).blk = k.blk := rfl
@[simp] theorem Crew.pput_unread (k : Crew) (i : Nat) (m b : W32) : (k.pput i m b).unread = k.unread := rfl
@[simp] theorem Crew.pput_memerr (k : Crew) (i : Nat) (m b : W32) : (k.pput i m b).memerr = k.memerr := rfl
@[simp] theorem Crew.pput_deferred (k : Crew) (i : Nat) (m b : W32) : (k.pput i m b).deferred = k.deferred := rfl
@[simp] theorem Crew.pput_trapping (k : Crew) (i : Nat) (m b : W32) : (k.pput i m b).trapping = k.trapping := rfl
@[simp] theorem Crew.pput_growth (k : Crew) (i : Nat) (m b : W32) : (k.pput i m b).growth = k.growth := rfl
@[simp] theorem Crew.pput_leave (k : Crew) (i : Nat) (m b : W32) : (k.pput i m b).leave = k.leave := rfl
@[simp] theorem Crew.pput_stopping (k : Crew) (i : Nat) (m b : W32) : (k.pput i m b).stopping = k.stopping := rfl
@[simp] theorem Crew.pput_age (k : Crew) (i : Nat) (m b : W32) : (k.pput i m b).age = k.age := rfl
@[simp] theorem Crew.pput_sinceS (k : Crew) (i : Nat) (m b : W32) : (k.pput i m b).sinceS = k.sinceS := rfl
@[simp] theorem Crew.pput_sinceL (k : Crew) (i : Nat) (m b : W32) : (k.pput i m b).sinceL = k.sinceL := rfl
@[simp] theorem Crew.pput_boostS (k : Crew) (i : Nat) (m b : W32) : (k.pput i m b).boostS = k.boostS := rfl
@[simp] theorem Crew.pput_boostL (k : Crew) (i : Nat) (m b : W32) : (k.pput i m b).boostL = k.boostL := rfl

/-! ### Crew.pwrite -/

@[simp] theorem Crew.pwrite_unit (k : Crew) (l i : Nat) (b : Bool) : (k.pwrite l i b).unit = k.unit := rfl
@[simp] theorem Crew.pwrite_pc (k : Crew) (l i : Nat) (b : Bool) : (k.pwrite l i b).pc = k.pc := rfl
@[simp] theorem Crew.pwrite_s (k : Crew) (l i : Nat) (b : Bool) : (k.pwrite l i b).s = k.s := rfl
@[simp] theorem Crew.pwrite_q (k : Crew) (l i : Nat) (b : Bool) : (k.pwrite l i b).q = k.q := rfl
@[simp] theorem Crew.pwrite_bank (k : Crew) (l i : Nat) (b : Bool) : (k.pwrite l i b).bank = k.bank := rfl
@[simp] theorem Crew.pwrite_v (k : Crew) (l i : Nat) (b : Bool) : (k.pwrite l i b).v = k.v := rfl
@[simp] theorem Crew.pwrite_groups (k : Crew) (l i : Nat) (b : Bool) : (k.pwrite l i b).groups = k.groups := rfl
@[simp] theorem Crew.pwrite_flags (k : Crew) (l i : Nat) (b : Bool) : (k.pwrite l i b).flags = k.flags := rfl
@[simp] theorem Crew.pwrite_h (k : Crew) (l i : Nat) (b : Bool) : (k.pwrite l i b).h = k.h := rfl
@[simp] theorem Crew.pwrite_tr (k : Crew) (l i : Nat) (b : Bool) : (k.pwrite l i b).tr = k.tr := rfl
@[simp] theorem Crew.pwrite_ftstat (k : Crew) (l i : Nat) (b : Bool) : (k.pwrite l i b).ftstat = k.ftstat := rfl
@[simp] theorem Crew.pwrite_ftReq (k : Crew) (l i : Nat) (b : Bool) : (k.pwrite l i b).ftReq = k.ftReq := rfl
@[simp] theorem Crew.pwrite_grant (k : Crew) (l i : Nat) (b : Bool) : (k.pwrite l i b).grant = k.grant := rfl
@[simp] theorem Crew.pwrite_gangw (k : Crew) (l i : Nat) (b : Bool) : (k.pwrite l i b).gangw = k.gangw := rfl
@[simp] theorem Crew.pwrite_ctx (k : Crew) (l i : Nat) (b : Bool) : (k.pwrite l i b).ctx = k.ctx := rfl
@[simp] theorem Crew.pwrite_runs (k : Crew) (l i : Nat) (b : Bool) : (k.pwrite l i b).runs = k.runs := rfl
@[simp] theorem Crew.pwrite_hrun (k : Crew) (l i : Nat) (b : Bool) : (k.pwrite l i b).hrun = k.hrun := rfl
@[simp] theorem Crew.pwrite_out (k : Crew) (l i : Nat) (b : Bool) : (k.pwrite l i b).out = k.out := rfl
@[simp] theorem Crew.pwrite_shown (k : Crew) (l i : Nat) (b : Bool) : (k.pwrite l i b).shown = k.shown := rfl
@[simp] theorem Crew.pwrite_park (k : Crew) (l i : Nat) (b : Bool) : (k.pwrite l i b).park = k.park := rfl
@[simp] theorem Crew.pwrite_parkH (k : Crew) (l i : Nat) (b : Bool) : (k.pwrite l i b).parkH = k.parkH := rfl
@[simp] theorem Crew.pwrite_wait (k : Crew) (l i : Nat) (b : Bool) : (k.pwrite l i b).wait = k.wait := rfl
@[simp] theorem Crew.pwrite_word (k : Crew) (l i : Nat) (b : Bool) : (k.pwrite l i b).word = k.word := rfl
@[simp] theorem Crew.pwrite_blk (k : Crew) (l i : Nat) (b : Bool) : (k.pwrite l i b).blk = k.blk := rfl
@[simp] theorem Crew.pwrite_unread (k : Crew) (l i : Nat) (b : Bool) : (k.pwrite l i b).unread = k.unread := rfl
@[simp] theorem Crew.pwrite_memerr (k : Crew) (l i : Nat) (b : Bool) : (k.pwrite l i b).memerr = k.memerr := rfl
@[simp] theorem Crew.pwrite_deferred (k : Crew) (l i : Nat) (b : Bool) : (k.pwrite l i b).deferred = k.deferred := rfl
@[simp] theorem Crew.pwrite_trapping (k : Crew) (l i : Nat) (b : Bool) : (k.pwrite l i b).trapping = k.trapping := rfl
@[simp] theorem Crew.pwrite_growth (k : Crew) (l i : Nat) (b : Bool) : (k.pwrite l i b).growth = k.growth := rfl
@[simp] theorem Crew.pwrite_leave (k : Crew) (l i : Nat) (b : Bool) : (k.pwrite l i b).leave = k.leave := rfl
@[simp] theorem Crew.pwrite_stopping (k : Crew) (l i : Nat) (b : Bool) : (k.pwrite l i b).stopping = k.stopping := rfl
@[simp] theorem Crew.pwrite_age (k : Crew) (l i : Nat) (b : Bool) : (k.pwrite l i b).age = k.age := rfl
@[simp] theorem Crew.pwrite_sinceS (k : Crew) (l i : Nat) (b : Bool) : (k.pwrite l i b).sinceS = k.sinceS := rfl
@[simp] theorem Crew.pwrite_sinceL (k : Crew) (l i : Nat) (b : Bool) : (k.pwrite l i b).sinceL = k.sinceL := rfl
@[simp] theorem Crew.pwrite_boostS (k : Crew) (l i : Nat) (b : Bool) : (k.pwrite l i b).boostS = k.boostS := rfl
@[simp] theorem Crew.pwrite_boostL (k : Crew) (l i : Nat) (b : Bool) : (k.pwrite l i b).boostL = k.boostL := rfl

/-! ### Crew.sticky -/

@[simp] theorem Crew.sticky_unit (k : Crew) (f : Flags) : (k.sticky f).unit = k.unit := rfl
@[simp] theorem Crew.sticky_pc (k : Crew) (f : Flags) : (k.sticky f).pc = k.pc := rfl
@[simp] theorem Crew.sticky_s (k : Crew) (f : Flags) : (k.sticky f).s = k.s := rfl
@[simp] theorem Crew.sticky_q (k : Crew) (f : Flags) : (k.sticky f).q = k.q := rfl
@[simp] theorem Crew.sticky_bank (k : Crew) (f : Flags) : (k.sticky f).bank = k.bank := rfl
@[simp] theorem Crew.sticky_v (k : Crew) (f : Flags) : (k.sticky f).v = k.v := rfl
@[simp] theorem Crew.sticky_p (k : Crew) (f : Flags) : (k.sticky f).p = k.p := rfl
@[simp] theorem Crew.sticky_groups (k : Crew) (f : Flags) : (k.sticky f).groups = k.groups := rfl
@[simp] theorem Crew.sticky_h (k : Crew) (f : Flags) : (k.sticky f).h = k.h := rfl
@[simp] theorem Crew.sticky_tr (k : Crew) (f : Flags) : (k.sticky f).tr = k.tr := rfl
@[simp] theorem Crew.sticky_ftstat (k : Crew) (f : Flags) : (k.sticky f).ftstat = k.ftstat := rfl
@[simp] theorem Crew.sticky_ftReq (k : Crew) (f : Flags) : (k.sticky f).ftReq = k.ftReq := rfl
@[simp] theorem Crew.sticky_grant (k : Crew) (f : Flags) : (k.sticky f).grant = k.grant := rfl
@[simp] theorem Crew.sticky_gangw (k : Crew) (f : Flags) : (k.sticky f).gangw = k.gangw := rfl
@[simp] theorem Crew.sticky_ctx (k : Crew) (f : Flags) : (k.sticky f).ctx = k.ctx := rfl
@[simp] theorem Crew.sticky_runs (k : Crew) (f : Flags) : (k.sticky f).runs = k.runs := rfl
@[simp] theorem Crew.sticky_hrun (k : Crew) (f : Flags) : (k.sticky f).hrun = k.hrun := rfl
@[simp] theorem Crew.sticky_out (k : Crew) (f : Flags) : (k.sticky f).out = k.out := rfl
@[simp] theorem Crew.sticky_shown (k : Crew) (f : Flags) : (k.sticky f).shown = k.shown := rfl
@[simp] theorem Crew.sticky_park (k : Crew) (f : Flags) : (k.sticky f).park = k.park := rfl
@[simp] theorem Crew.sticky_parkH (k : Crew) (f : Flags) : (k.sticky f).parkH = k.parkH := rfl
@[simp] theorem Crew.sticky_wait (k : Crew) (f : Flags) : (k.sticky f).wait = k.wait := rfl
@[simp] theorem Crew.sticky_word (k : Crew) (f : Flags) : (k.sticky f).word = k.word := rfl
@[simp] theorem Crew.sticky_blk (k : Crew) (f : Flags) : (k.sticky f).blk = k.blk := rfl
@[simp] theorem Crew.sticky_unread (k : Crew) (f : Flags) : (k.sticky f).unread = k.unread := rfl
@[simp] theorem Crew.sticky_memerr (k : Crew) (f : Flags) : (k.sticky f).memerr = k.memerr := rfl
@[simp] theorem Crew.sticky_deferred (k : Crew) (f : Flags) : (k.sticky f).deferred = k.deferred := rfl
@[simp] theorem Crew.sticky_trapping (k : Crew) (f : Flags) : (k.sticky f).trapping = k.trapping := rfl
@[simp] theorem Crew.sticky_growth (k : Crew) (f : Flags) : (k.sticky f).growth = k.growth := rfl
@[simp] theorem Crew.sticky_leave (k : Crew) (f : Flags) : (k.sticky f).leave = k.leave := rfl
@[simp] theorem Crew.sticky_stopping (k : Crew) (f : Flags) : (k.sticky f).stopping = k.stopping := rfl
@[simp] theorem Crew.sticky_age (k : Crew) (f : Flags) : (k.sticky f).age = k.age := rfl
@[simp] theorem Crew.sticky_sinceS (k : Crew) (f : Flags) : (k.sticky f).sinceS = k.sinceS := rfl
@[simp] theorem Crew.sticky_sinceL (k : Crew) (f : Flags) : (k.sticky f).sinceL = k.sinceL := rfl
@[simp] theorem Crew.sticky_boostS (k : Crew) (f : Flags) : (k.sticky f).boostS = k.boostS := rfl
@[simp] theorem Crew.sticky_boostL (k : Crew) (f : Flags) : (k.sticky f).boostL = k.boostL := rfl

/-! ### Crew.setFlags -/

@[simp] theorem Crew.setFlags_unit (k : Crew) (v : W64) : (k.setFlags v).unit = k.unit := rfl
@[simp] theorem Crew.setFlags_pc (k : Crew) (v : W64) : (k.setFlags v).pc = k.pc := rfl
@[simp] theorem Crew.setFlags_s (k : Crew) (v : W64) : (k.setFlags v).s = k.s := rfl
@[simp] theorem Crew.setFlags_q (k : Crew) (v : W64) : (k.setFlags v).q = k.q := rfl
@[simp] theorem Crew.setFlags_bank (k : Crew) (v : W64) : (k.setFlags v).bank = k.bank := rfl
@[simp] theorem Crew.setFlags_v (k : Crew) (v : W64) : (k.setFlags v).v = k.v := rfl
@[simp] theorem Crew.setFlags_p (k : Crew) (v : W64) : (k.setFlags v).p = k.p := rfl
@[simp] theorem Crew.setFlags_groups (k : Crew) (v : W64) : (k.setFlags v).groups = k.groups := rfl
@[simp] theorem Crew.setFlags_h (k : Crew) (v : W64) : (k.setFlags v).h = k.h := rfl
@[simp] theorem Crew.setFlags_tr (k : Crew) (v : W64) : (k.setFlags v).tr = k.tr := rfl
@[simp] theorem Crew.setFlags_ftstat (k : Crew) (v : W64) : (k.setFlags v).ftstat = k.ftstat := rfl
@[simp] theorem Crew.setFlags_ftReq (k : Crew) (v : W64) : (k.setFlags v).ftReq = k.ftReq := rfl
@[simp] theorem Crew.setFlags_grant (k : Crew) (v : W64) : (k.setFlags v).grant = k.grant := rfl
@[simp] theorem Crew.setFlags_gangw (k : Crew) (v : W64) : (k.setFlags v).gangw = k.gangw := rfl
@[simp] theorem Crew.setFlags_ctx (k : Crew) (v : W64) : (k.setFlags v).ctx = k.ctx := rfl
@[simp] theorem Crew.setFlags_runs (k : Crew) (v : W64) : (k.setFlags v).runs = k.runs := rfl
@[simp] theorem Crew.setFlags_hrun (k : Crew) (v : W64) : (k.setFlags v).hrun = k.hrun := rfl
@[simp] theorem Crew.setFlags_out (k : Crew) (v : W64) : (k.setFlags v).out = k.out := rfl
@[simp] theorem Crew.setFlags_shown (k : Crew) (v : W64) : (k.setFlags v).shown = k.shown := rfl
@[simp] theorem Crew.setFlags_park (k : Crew) (v : W64) : (k.setFlags v).park = k.park := rfl
@[simp] theorem Crew.setFlags_parkH (k : Crew) (v : W64) : (k.setFlags v).parkH = k.parkH := rfl
@[simp] theorem Crew.setFlags_wait (k : Crew) (v : W64) : (k.setFlags v).wait = k.wait := rfl
@[simp] theorem Crew.setFlags_word (k : Crew) (v : W64) : (k.setFlags v).word = k.word := rfl
@[simp] theorem Crew.setFlags_blk (k : Crew) (v : W64) : (k.setFlags v).blk = k.blk := rfl
@[simp] theorem Crew.setFlags_unread (k : Crew) (v : W64) : (k.setFlags v).unread = k.unread := rfl
@[simp] theorem Crew.setFlags_memerr (k : Crew) (v : W64) : (k.setFlags v).memerr = k.memerr := rfl
@[simp] theorem Crew.setFlags_deferred (k : Crew) (v : W64) : (k.setFlags v).deferred = k.deferred := rfl
@[simp] theorem Crew.setFlags_trapping (k : Crew) (v : W64) : (k.setFlags v).trapping = k.trapping := rfl
@[simp] theorem Crew.setFlags_growth (k : Crew) (v : W64) : (k.setFlags v).growth = k.growth := rfl
@[simp] theorem Crew.setFlags_leave (k : Crew) (v : W64) : (k.setFlags v).leave = k.leave := rfl
@[simp] theorem Crew.setFlags_stopping (k : Crew) (v : W64) : (k.setFlags v).stopping = k.stopping := rfl
@[simp] theorem Crew.setFlags_age (k : Crew) (v : W64) : (k.setFlags v).age = k.age := rfl
@[simp] theorem Crew.setFlags_sinceS (k : Crew) (v : W64) : (k.setFlags v).sinceS = k.sinceS := rfl
@[simp] theorem Crew.setFlags_sinceL (k : Crew) (v : W64) : (k.setFlags v).sinceL = k.sinceL := rfl
@[simp] theorem Crew.setFlags_boostS (k : Crew) (v : W64) : (k.setFlags v).boostS = k.boostS := rfl
@[simp] theorem Crew.setFlags_boostL (k : Crew) (v : W64) : (k.setFlags v).boostL = k.boostL := rfl

/-! ### Crew.issued -/

@[simp] theorem Crew.issued_unit (k : Crew) (sw : Bool) : (k.issued sw).unit = k.unit := by
  unfold Crew.issued; split <;> rfl
@[simp] theorem Crew.issued_pc (k : Crew) (sw : Bool) : (k.issued sw).pc = k.pc := by
  unfold Crew.issued; split <;> rfl
@[simp] theorem Crew.issued_s (k : Crew) (sw : Bool) : (k.issued sw).s = k.s := by
  unfold Crew.issued; split <;> rfl
@[simp] theorem Crew.issued_q (k : Crew) (sw : Bool) : (k.issued sw).q = k.q := by
  unfold Crew.issued; split <;> rfl
@[simp] theorem Crew.issued_bank (k : Crew) (sw : Bool) : (k.issued sw).bank = k.bank := by
  unfold Crew.issued; split <;> rfl
@[simp] theorem Crew.issued_v (k : Crew) (sw : Bool) : (k.issued sw).v = k.v := by
  unfold Crew.issued; split <;> rfl
@[simp] theorem Crew.issued_p (k : Crew) (sw : Bool) : (k.issued sw).p = k.p := by
  unfold Crew.issued; split <;> rfl
@[simp] theorem Crew.issued_groups (k : Crew) (sw : Bool) : (k.issued sw).groups = k.groups := by
  unfold Crew.issued; split <;> rfl
@[simp] theorem Crew.issued_flags (k : Crew) (sw : Bool) : (k.issued sw).flags = k.flags := by
  unfold Crew.issued; split <;> rfl
@[simp] theorem Crew.issued_h (k : Crew) (sw : Bool) : (k.issued sw).h = k.h := by
  unfold Crew.issued; split <;> rfl
@[simp] theorem Crew.issued_tr (k : Crew) (sw : Bool) : (k.issued sw).tr = k.tr := by
  unfold Crew.issued; split <;> rfl
@[simp] theorem Crew.issued_ftstat (k : Crew) (sw : Bool) : (k.issued sw).ftstat = k.ftstat := by
  unfold Crew.issued; split <;> rfl
@[simp] theorem Crew.issued_ftReq (k : Crew) (sw : Bool) : (k.issued sw).ftReq = k.ftReq := by
  unfold Crew.issued; split <;> rfl
@[simp] theorem Crew.issued_grant (k : Crew) (sw : Bool) : (k.issued sw).grant = k.grant := by
  unfold Crew.issued; split <;> rfl
@[simp] theorem Crew.issued_gangw (k : Crew) (sw : Bool) : (k.issued sw).gangw = k.gangw := by
  unfold Crew.issued; split <;> rfl
@[simp] theorem Crew.issued_ctx (k : Crew) (sw : Bool) : (k.issued sw).ctx = k.ctx := by
  unfold Crew.issued; split <;> rfl
@[simp] theorem Crew.issued_runs (k : Crew) (sw : Bool) : (k.issued sw).runs = k.runs := by
  unfold Crew.issued; split <;> rfl
@[simp] theorem Crew.issued_hrun (k : Crew) (sw : Bool) : (k.issued sw).hrun = k.hrun := by
  unfold Crew.issued; split <;> rfl
@[simp] theorem Crew.issued_out (k : Crew) (sw : Bool) : (k.issued sw).out = k.out := by
  unfold Crew.issued; split <;> rfl
@[simp] theorem Crew.issued_shown (k : Crew) (sw : Bool) : (k.issued sw).shown = k.shown := by
  unfold Crew.issued; split <;> rfl
@[simp] theorem Crew.issued_word (k : Crew) (sw : Bool) : (k.issued sw).word = k.word := by
  unfold Crew.issued; split <;> rfl
@[simp] theorem Crew.issued_blk (k : Crew) (sw : Bool) : (k.issued sw).blk = k.blk := by
  unfold Crew.issued; split <;> rfl
@[simp] theorem Crew.issued_unread (k : Crew) (sw : Bool) : (k.issued sw).unread = k.unread := by
  unfold Crew.issued; split <;> rfl
@[simp] theorem Crew.issued_memerr (k : Crew) (sw : Bool) : (k.issued sw).memerr = k.memerr := by
  unfold Crew.issued; split <;> rfl
@[simp] theorem Crew.issued_deferred (k : Crew) (sw : Bool) : (k.issued sw).deferred = k.deferred := by
  unfold Crew.issued; split <;> rfl
@[simp] theorem Crew.issued_trapping (k : Crew) (sw : Bool) : (k.issued sw).trapping = k.trapping := by
  unfold Crew.issued; split <;> rfl
@[simp] theorem Crew.issued_growth (k : Crew) (sw : Bool) : (k.issued sw).growth = k.growth := by
  unfold Crew.issued; split <;> rfl
@[simp] theorem Crew.issued_leave (k : Crew) (sw : Bool) : (k.issued sw).leave = k.leave := by
  unfold Crew.issued; split <;> rfl
@[simp] theorem Crew.issued_stopping (k : Crew) (sw : Bool) : (k.issued sw).stopping = k.stopping := by
  unfold Crew.issued; split <;> rfl
@[simp] theorem Crew.issued_age (k : Crew) (sw : Bool) : (k.issued sw).age = k.age := by
  unfold Crew.issued; split <;> rfl
@[simp] theorem Crew.issued_sinceS (k : Crew) (sw : Bool) : (k.issued sw).sinceS = k.sinceS := by
  unfold Crew.issued; split <;> rfl
@[simp] theorem Crew.issued_sinceL (k : Crew) (sw : Bool) : (k.issued sw).sinceL = k.sinceL := by
  unfold Crew.issued; split <;> rfl
@[simp] theorem Crew.issued_boostS (k : Crew) (sw : Bool) : (k.issued sw).boostS = k.boostS := by
  unfold Crew.issued; split <;> rfl
@[simp] theorem Crew.issued_boostL (k : Crew) (sw : Bool) : (k.issued sw).boostL = k.boostL := by
  unfold Crew.issued; split <;> rfl

/-! ### Crew.next -/

@[simp] theorem Crew.next_unit (k : Crew) (sw : Bool) : (k.next sw).unit = k.unit := by
  simp [Crew.next]
@[simp] theorem Crew.next_s (k : Crew) (sw : Bool) : (k.next sw).s = k.s := by
  simp [Crew.next]
@[simp] theorem Crew.next_q (k : Crew) (sw : Bool) : (k.next sw).q = k.q := by
  simp [Crew.next]
@[simp] theorem Crew.next_bank (k : Crew) (sw : Bool) : (k.next sw).bank = k.bank := by
  simp [Crew.next]
@[simp] theorem Crew.next_v (k : Crew) (sw : Bool) : (k.next sw).v = k.v := by
  simp [Crew.next]
@[simp] theorem Crew.next_p (k : Crew) (sw : Bool) : (k.next sw).p = k.p := by
  simp [Crew.next]
@[simp] theorem Crew.next_groups (k : Crew) (sw : Bool) : (k.next sw).groups = k.groups := by
  simp [Crew.next]
@[simp] theorem Crew.next_flags (k : Crew) (sw : Bool) : (k.next sw).flags = k.flags := by
  simp [Crew.next]
@[simp] theorem Crew.next_h (k : Crew) (sw : Bool) : (k.next sw).h = k.h := by
  simp [Crew.next]
@[simp] theorem Crew.next_tr (k : Crew) (sw : Bool) : (k.next sw).tr = k.tr := by
  simp [Crew.next]
@[simp] theorem Crew.next_ftstat (k : Crew) (sw : Bool) : (k.next sw).ftstat = k.ftstat := by
  simp [Crew.next]
@[simp] theorem Crew.next_ftReq (k : Crew) (sw : Bool) : (k.next sw).ftReq = k.ftReq := by
  simp [Crew.next]
@[simp] theorem Crew.next_grant (k : Crew) (sw : Bool) : (k.next sw).grant = k.grant := by
  simp [Crew.next]
@[simp] theorem Crew.next_gangw (k : Crew) (sw : Bool) : (k.next sw).gangw = k.gangw := by
  simp [Crew.next]
@[simp] theorem Crew.next_ctx (k : Crew) (sw : Bool) : (k.next sw).ctx = k.ctx := by
  simp [Crew.next]
@[simp] theorem Crew.next_runs (k : Crew) (sw : Bool) : (k.next sw).runs = k.runs := by
  simp [Crew.next]
@[simp] theorem Crew.next_hrun (k : Crew) (sw : Bool) : (k.next sw).hrun = k.hrun := by
  simp [Crew.next]
@[simp] theorem Crew.next_out (k : Crew) (sw : Bool) : (k.next sw).out = k.out := by
  simp [Crew.next]
@[simp] theorem Crew.next_shown (k : Crew) (sw : Bool) : (k.next sw).shown = k.shown := by
  simp [Crew.next]
@[simp] theorem Crew.next_word (k : Crew) (sw : Bool) : (k.next sw).word = k.word := by
  simp [Crew.next]
@[simp] theorem Crew.next_blk (k : Crew) (sw : Bool) : (k.next sw).blk = k.blk := by
  simp [Crew.next]
@[simp] theorem Crew.next_unread (k : Crew) (sw : Bool) : (k.next sw).unread = k.unread := by
  simp [Crew.next]
@[simp] theorem Crew.next_memerr (k : Crew) (sw : Bool) : (k.next sw).memerr = k.memerr := by
  simp [Crew.next]
@[simp] theorem Crew.next_deferred (k : Crew) (sw : Bool) : (k.next sw).deferred = k.deferred := by
  simp [Crew.next]
@[simp] theorem Crew.next_trapping (k : Crew) (sw : Bool) : (k.next sw).trapping = k.trapping := by
  simp [Crew.next]
@[simp] theorem Crew.next_growth (k : Crew) (sw : Bool) : (k.next sw).growth = k.growth := by
  simp [Crew.next]
@[simp] theorem Crew.next_leave (k : Crew) (sw : Bool) : (k.next sw).leave = k.leave := by
  simp [Crew.next]
@[simp] theorem Crew.next_stopping (k : Crew) (sw : Bool) : (k.next sw).stopping = k.stopping := by
  simp [Crew.next]
@[simp] theorem Crew.next_age (k : Crew) (sw : Bool) : (k.next sw).age = k.age := by
  simp [Crew.next]
@[simp] theorem Crew.next_sinceS (k : Crew) (sw : Bool) : (k.next sw).sinceS = k.sinceS := by
  simp [Crew.next]
@[simp] theorem Crew.next_sinceL (k : Crew) (sw : Bool) : (k.next sw).sinceL = k.sinceL := by
  simp [Crew.next]
@[simp] theorem Crew.next_boostS (k : Crew) (sw : Bool) : (k.next sw).boostS = k.boostS := by
  simp [Crew.next]
@[simp] theorem Crew.next_boostL (k : Crew) (sw : Bool) : (k.next sw).boostL = k.boostL := by
  simp [Crew.next]

/-! ### Crew.jump -/

@[simp] theorem Crew.jump_unit (k : Crew) (sw : Bool) (t : CodeAddr) : (k.jump sw t).unit = k.unit := by
  simp [Crew.jump]
@[simp] theorem Crew.jump_s (k : Crew) (sw : Bool) (t : CodeAddr) : (k.jump sw t).s = k.s := by
  simp [Crew.jump]
@[simp] theorem Crew.jump_q (k : Crew) (sw : Bool) (t : CodeAddr) : (k.jump sw t).q = k.q := by
  simp [Crew.jump]
@[simp] theorem Crew.jump_bank (k : Crew) (sw : Bool) (t : CodeAddr) : (k.jump sw t).bank = k.bank := by
  simp [Crew.jump]
@[simp] theorem Crew.jump_v (k : Crew) (sw : Bool) (t : CodeAddr) : (k.jump sw t).v = k.v := by
  simp [Crew.jump]
@[simp] theorem Crew.jump_p (k : Crew) (sw : Bool) (t : CodeAddr) : (k.jump sw t).p = k.p := by
  simp [Crew.jump]
@[simp] theorem Crew.jump_groups (k : Crew) (sw : Bool) (t : CodeAddr) : (k.jump sw t).groups = k.groups := by
  simp [Crew.jump]
@[simp] theorem Crew.jump_flags (k : Crew) (sw : Bool) (t : CodeAddr) : (k.jump sw t).flags = k.flags := by
  simp [Crew.jump]
@[simp] theorem Crew.jump_h (k : Crew) (sw : Bool) (t : CodeAddr) : (k.jump sw t).h = k.h := by
  simp [Crew.jump]
@[simp] theorem Crew.jump_tr (k : Crew) (sw : Bool) (t : CodeAddr) : (k.jump sw t).tr = k.tr := by
  simp [Crew.jump]
@[simp] theorem Crew.jump_ftstat (k : Crew) (sw : Bool) (t : CodeAddr) : (k.jump sw t).ftstat = k.ftstat := by
  simp [Crew.jump]
@[simp] theorem Crew.jump_ftReq (k : Crew) (sw : Bool) (t : CodeAddr) : (k.jump sw t).ftReq = k.ftReq := by
  simp [Crew.jump]
@[simp] theorem Crew.jump_grant (k : Crew) (sw : Bool) (t : CodeAddr) : (k.jump sw t).grant = k.grant := by
  simp [Crew.jump]
@[simp] theorem Crew.jump_gangw (k : Crew) (sw : Bool) (t : CodeAddr) : (k.jump sw t).gangw = k.gangw := by
  simp [Crew.jump]
@[simp] theorem Crew.jump_ctx (k : Crew) (sw : Bool) (t : CodeAddr) : (k.jump sw t).ctx = k.ctx := by
  simp [Crew.jump]
@[simp] theorem Crew.jump_runs (k : Crew) (sw : Bool) (t : CodeAddr) : (k.jump sw t).runs = k.runs := by
  simp [Crew.jump]
@[simp] theorem Crew.jump_hrun (k : Crew) (sw : Bool) (t : CodeAddr) : (k.jump sw t).hrun = k.hrun := by
  simp [Crew.jump]
@[simp] theorem Crew.jump_out (k : Crew) (sw : Bool) (t : CodeAddr) : (k.jump sw t).out = k.out := by
  simp [Crew.jump]
@[simp] theorem Crew.jump_shown (k : Crew) (sw : Bool) (t : CodeAddr) : (k.jump sw t).shown = k.shown := by
  simp [Crew.jump]
@[simp] theorem Crew.jump_word (k : Crew) (sw : Bool) (t : CodeAddr) : (k.jump sw t).word = k.word := by
  simp [Crew.jump]
@[simp] theorem Crew.jump_blk (k : Crew) (sw : Bool) (t : CodeAddr) : (k.jump sw t).blk = k.blk := by
  simp [Crew.jump]
@[simp] theorem Crew.jump_unread (k : Crew) (sw : Bool) (t : CodeAddr) : (k.jump sw t).unread = k.unread := by
  simp [Crew.jump]
@[simp] theorem Crew.jump_memerr (k : Crew) (sw : Bool) (t : CodeAddr) : (k.jump sw t).memerr = k.memerr := by
  simp [Crew.jump]
@[simp] theorem Crew.jump_deferred (k : Crew) (sw : Bool) (t : CodeAddr) : (k.jump sw t).deferred = k.deferred := by
  simp [Crew.jump]
@[simp] theorem Crew.jump_trapping (k : Crew) (sw : Bool) (t : CodeAddr) : (k.jump sw t).trapping = k.trapping := by
  simp [Crew.jump]
@[simp] theorem Crew.jump_growth (k : Crew) (sw : Bool) (t : CodeAddr) : (k.jump sw t).growth = k.growth := by
  simp [Crew.jump]
@[simp] theorem Crew.jump_leave (k : Crew) (sw : Bool) (t : CodeAddr) : (k.jump sw t).leave = k.leave := by
  simp [Crew.jump]
@[simp] theorem Crew.jump_stopping (k : Crew) (sw : Bool) (t : CodeAddr) : (k.jump sw t).stopping = k.stopping := by
  simp [Crew.jump]
@[simp] theorem Crew.jump_age (k : Crew) (sw : Bool) (t : CodeAddr) : (k.jump sw t).age = k.age := by
  simp [Crew.jump]
@[simp] theorem Crew.jump_sinceS (k : Crew) (sw : Bool) (t : CodeAddr) : (k.jump sw t).sinceS = k.sinceS := by
  simp [Crew.jump]
@[simp] theorem Crew.jump_sinceL (k : Crew) (sw : Bool) (t : CodeAddr) : (k.jump sw t).sinceL = k.sinceL := by
  simp [Crew.jump]
@[simp] theorem Crew.jump_boostS (k : Crew) (sw : Bool) (t : CodeAddr) : (k.jump sw t).boostS = k.boostS := by
  simp [Crew.jump]
@[simp] theorem Crew.jump_boostL (k : Crew) (sw : Bool) (t : CodeAddr) : (k.jump sw t).boostL = k.boostL := by
  simp [Crew.jump]

/-! ### Crew.pend -/

@[simp] theorem Crew.pend_unit (k : Crew) (d : Dest) (v : Option Nat) (f : Flags) (n : Nat) : (k.pend d v f n).unit = k.unit := rfl
@[simp] theorem Crew.pend_pc (k : Crew) (d : Dest) (v : Option Nat) (f : Flags) (n : Nat) : (k.pend d v f n).pc = k.pc := rfl
@[simp] theorem Crew.pend_s (k : Crew) (d : Dest) (v : Option Nat) (f : Flags) (n : Nat) : (k.pend d v f n).s = k.s := rfl
@[simp] theorem Crew.pend_q (k : Crew) (d : Dest) (v : Option Nat) (f : Flags) (n : Nat) : (k.pend d v f n).q = k.q := rfl
@[simp] theorem Crew.pend_bank (k : Crew) (d : Dest) (v : Option Nat) (f : Flags) (n : Nat) : (k.pend d v f n).bank = k.bank := rfl
@[simp] theorem Crew.pend_v (k : Crew) (d : Dest) (v : Option Nat) (f : Flags) (n : Nat) : (k.pend d v f n).v = k.v := rfl
@[simp] theorem Crew.pend_p (k : Crew) (d : Dest) (v : Option Nat) (f : Flags) (n : Nat) : (k.pend d v f n).p = k.p := rfl
@[simp] theorem Crew.pend_groups (k : Crew) (d : Dest) (v : Option Nat) (f : Flags) (n : Nat) : (k.pend d v f n).groups = k.groups := rfl
@[simp] theorem Crew.pend_flags (k : Crew) (d : Dest) (v : Option Nat) (f : Flags) (n : Nat) : (k.pend d v f n).flags = k.flags := rfl
@[simp] theorem Crew.pend_h (k : Crew) (d : Dest) (v : Option Nat) (f : Flags) (n : Nat) : (k.pend d v f n).h = k.h := rfl
@[simp] theorem Crew.pend_tr (k : Crew) (d : Dest) (v : Option Nat) (f : Flags) (n : Nat) : (k.pend d v f n).tr = k.tr := rfl
@[simp] theorem Crew.pend_ftstat (k : Crew) (d : Dest) (v : Option Nat) (f : Flags) (n : Nat) : (k.pend d v f n).ftstat = k.ftstat := rfl
@[simp] theorem Crew.pend_ftReq (k : Crew) (d : Dest) (v : Option Nat) (f : Flags) (n : Nat) : (k.pend d v f n).ftReq = k.ftReq := rfl
@[simp] theorem Crew.pend_grant (k : Crew) (d : Dest) (v : Option Nat) (f : Flags) (n : Nat) : (k.pend d v f n).grant = k.grant := rfl
@[simp] theorem Crew.pend_gangw (k : Crew) (d : Dest) (v : Option Nat) (f : Flags) (n : Nat) : (k.pend d v f n).gangw = k.gangw := rfl
@[simp] theorem Crew.pend_ctx (k : Crew) (d : Dest) (v : Option Nat) (f : Flags) (n : Nat) : (k.pend d v f n).ctx = k.ctx := rfl
@[simp] theorem Crew.pend_runs (k : Crew) (d : Dest) (v : Option Nat) (f : Flags) (n : Nat) : (k.pend d v f n).runs = k.runs := rfl
@[simp] theorem Crew.pend_hrun (k : Crew) (d : Dest) (v : Option Nat) (f : Flags) (n : Nat) : (k.pend d v f n).hrun = k.hrun := rfl
@[simp] theorem Crew.pend_shown (k : Crew) (d : Dest) (v : Option Nat) (f : Flags) (n : Nat) : (k.pend d v f n).shown = k.shown := rfl
@[simp] theorem Crew.pend_park (k : Crew) (d : Dest) (v : Option Nat) (f : Flags) (n : Nat) : (k.pend d v f n).park = k.park := rfl
@[simp] theorem Crew.pend_parkH (k : Crew) (d : Dest) (v : Option Nat) (f : Flags) (n : Nat) : (k.pend d v f n).parkH = k.parkH := rfl
@[simp] theorem Crew.pend_wait (k : Crew) (d : Dest) (v : Option Nat) (f : Flags) (n : Nat) : (k.pend d v f n).wait = k.wait := rfl
@[simp] theorem Crew.pend_word (k : Crew) (d : Dest) (v : Option Nat) (f : Flags) (n : Nat) : (k.pend d v f n).word = k.word := rfl
@[simp] theorem Crew.pend_blk (k : Crew) (d : Dest) (v : Option Nat) (f : Flags) (n : Nat) : (k.pend d v f n).blk = k.blk := rfl
@[simp] theorem Crew.pend_unread (k : Crew) (d : Dest) (v : Option Nat) (f : Flags) (n : Nat) : (k.pend d v f n).unread = k.unread := rfl
@[simp] theorem Crew.pend_memerr (k : Crew) (d : Dest) (v : Option Nat) (f : Flags) (n : Nat) : (k.pend d v f n).memerr = k.memerr := rfl
@[simp] theorem Crew.pend_deferred (k : Crew) (d : Dest) (v : Option Nat) (f : Flags) (n : Nat) : (k.pend d v f n).deferred = k.deferred := rfl
@[simp] theorem Crew.pend_trapping (k : Crew) (d : Dest) (v : Option Nat) (f : Flags) (n : Nat) : (k.pend d v f n).trapping = k.trapping := rfl
@[simp] theorem Crew.pend_growth (k : Crew) (d : Dest) (v : Option Nat) (f : Flags) (n : Nat) : (k.pend d v f n).growth = k.growth := rfl
@[simp] theorem Crew.pend_leave (k : Crew) (d : Dest) (v : Option Nat) (f : Flags) (n : Nat) : (k.pend d v f n).leave = k.leave := rfl
@[simp] theorem Crew.pend_stopping (k : Crew) (d : Dest) (v : Option Nat) (f : Flags) (n : Nat) : (k.pend d v f n).stopping = k.stopping := rfl
@[simp] theorem Crew.pend_age (k : Crew) (d : Dest) (v : Option Nat) (f : Flags) (n : Nat) : (k.pend d v f n).age = k.age := rfl
@[simp] theorem Crew.pend_sinceS (k : Crew) (d : Dest) (v : Option Nat) (f : Flags) (n : Nat) : (k.pend d v f n).sinceS = k.sinceS := rfl
@[simp] theorem Crew.pend_sinceL (k : Crew) (d : Dest) (v : Option Nat) (f : Flags) (n : Nat) : (k.pend d v f n).sinceL = k.sinceL := rfl
@[simp] theorem Crew.pend_boostS (k : Crew) (d : Dest) (v : Option Nat) (f : Flags) (n : Nat) : (k.pend d v f n).boostS = k.boostS := rfl
@[simp] theorem Crew.pend_boostL (k : Crew) (d : Dest) (v : Option Nat) (f : Flags) (n : Nat) : (k.pend d v f n).boostL = k.boostL := rfl

/-! ### Crew.pendS -/

@[simp] theorem Crew.pendS_unit (k : Crew) (r : BitVec 7) (v : W64) (f : Flags) : (k.pendS r v f).unit = k.unit := by
  unfold Crew.pendS; split <;> rfl
@[simp] theorem Crew.pendS_pc (k : Crew) (r : BitVec 7) (v : W64) (f : Flags) : (k.pendS r v f).pc = k.pc := by
  unfold Crew.pendS; split <;> rfl
@[simp] theorem Crew.pendS_s (k : Crew) (r : BitVec 7) (v : W64) (f : Flags) : (k.pendS r v f).s = k.s := by
  unfold Crew.pendS; split <;> rfl
@[simp] theorem Crew.pendS_q (k : Crew) (r : BitVec 7) (v : W64) (f : Flags) : (k.pendS r v f).q = k.q := by
  unfold Crew.pendS; split <;> rfl
@[simp] theorem Crew.pendS_bank (k : Crew) (r : BitVec 7) (v : W64) (f : Flags) : (k.pendS r v f).bank = k.bank := by
  unfold Crew.pendS; split <;> rfl
@[simp] theorem Crew.pendS_v (k : Crew) (r : BitVec 7) (v : W64) (f : Flags) : (k.pendS r v f).v = k.v := by
  unfold Crew.pendS; split <;> rfl
@[simp] theorem Crew.pendS_p (k : Crew) (r : BitVec 7) (v : W64) (f : Flags) : (k.pendS r v f).p = k.p := by
  unfold Crew.pendS; split <;> rfl
@[simp] theorem Crew.pendS_groups (k : Crew) (r : BitVec 7) (v : W64) (f : Flags) : (k.pendS r v f).groups = k.groups := by
  unfold Crew.pendS; split <;> rfl
@[simp] theorem Crew.pendS_flags (k : Crew) (r : BitVec 7) (v : W64) (f : Flags) : (k.pendS r v f).flags = k.flags := by
  unfold Crew.pendS; split <;> rfl
@[simp] theorem Crew.pendS_h (k : Crew) (r : BitVec 7) (v : W64) (f : Flags) : (k.pendS r v f).h = k.h := by
  unfold Crew.pendS; split <;> rfl
@[simp] theorem Crew.pendS_tr (k : Crew) (r : BitVec 7) (v : W64) (f : Flags) : (k.pendS r v f).tr = k.tr := by
  unfold Crew.pendS; split <;> rfl
@[simp] theorem Crew.pendS_ftstat (k : Crew) (r : BitVec 7) (v : W64) (f : Flags) : (k.pendS r v f).ftstat = k.ftstat := by
  unfold Crew.pendS; split <;> rfl
@[simp] theorem Crew.pendS_ftReq (k : Crew) (r : BitVec 7) (v : W64) (f : Flags) : (k.pendS r v f).ftReq = k.ftReq := by
  unfold Crew.pendS; split <;> rfl
@[simp] theorem Crew.pendS_grant (k : Crew) (r : BitVec 7) (v : W64) (f : Flags) : (k.pendS r v f).grant = k.grant := by
  unfold Crew.pendS; split <;> rfl
@[simp] theorem Crew.pendS_gangw (k : Crew) (r : BitVec 7) (v : W64) (f : Flags) : (k.pendS r v f).gangw = k.gangw := by
  unfold Crew.pendS; split <;> rfl
@[simp] theorem Crew.pendS_ctx (k : Crew) (r : BitVec 7) (v : W64) (f : Flags) : (k.pendS r v f).ctx = k.ctx := by
  unfold Crew.pendS; split <;> rfl
@[simp] theorem Crew.pendS_runs (k : Crew) (r : BitVec 7) (v : W64) (f : Flags) : (k.pendS r v f).runs = k.runs := by
  unfold Crew.pendS; split <;> rfl
@[simp] theorem Crew.pendS_hrun (k : Crew) (r : BitVec 7) (v : W64) (f : Flags) : (k.pendS r v f).hrun = k.hrun := by
  unfold Crew.pendS; split <;> rfl
@[simp] theorem Crew.pendS_shown (k : Crew) (r : BitVec 7) (v : W64) (f : Flags) : (k.pendS r v f).shown = k.shown := by
  unfold Crew.pendS; split <;> rfl
@[simp] theorem Crew.pendS_park (k : Crew) (r : BitVec 7) (v : W64) (f : Flags) : (k.pendS r v f).park = k.park := by
  unfold Crew.pendS; split <;> rfl
@[simp] theorem Crew.pendS_parkH (k : Crew) (r : BitVec 7) (v : W64) (f : Flags) : (k.pendS r v f).parkH = k.parkH := by
  unfold Crew.pendS; split <;> rfl
@[simp] theorem Crew.pendS_wait (k : Crew) (r : BitVec 7) (v : W64) (f : Flags) : (k.pendS r v f).wait = k.wait := by
  unfold Crew.pendS; split <;> rfl
@[simp] theorem Crew.pendS_word (k : Crew) (r : BitVec 7) (v : W64) (f : Flags) : (k.pendS r v f).word = k.word := by
  unfold Crew.pendS; split <;> rfl
@[simp] theorem Crew.pendS_blk (k : Crew) (r : BitVec 7) (v : W64) (f : Flags) : (k.pendS r v f).blk = k.blk := by
  unfold Crew.pendS; split <;> rfl
@[simp] theorem Crew.pendS_unread (k : Crew) (r : BitVec 7) (v : W64) (f : Flags) : (k.pendS r v f).unread = k.unread := by
  unfold Crew.pendS; split <;> rfl
@[simp] theorem Crew.pendS_memerr (k : Crew) (r : BitVec 7) (v : W64) (f : Flags) : (k.pendS r v f).memerr = k.memerr := by
  unfold Crew.pendS; split <;> rfl
@[simp] theorem Crew.pendS_deferred (k : Crew) (r : BitVec 7) (v : W64) (f : Flags) : (k.pendS r v f).deferred = k.deferred := by
  unfold Crew.pendS; split <;> rfl
@[simp] theorem Crew.pendS_trapping (k : Crew) (r : BitVec 7) (v : W64) (f : Flags) : (k.pendS r v f).trapping = k.trapping := by
  unfold Crew.pendS; split <;> rfl
@[simp] theorem Crew.pendS_growth (k : Crew) (r : BitVec 7) (v : W64) (f : Flags) : (k.pendS r v f).growth = k.growth := by
  unfold Crew.pendS; split <;> rfl
@[simp] theorem Crew.pendS_leave (k : Crew) (r : BitVec 7) (v : W64) (f : Flags) : (k.pendS r v f).leave = k.leave := by
  unfold Crew.pendS; split <;> rfl
@[simp] theorem Crew.pendS_stopping (k : Crew) (r : BitVec 7) (v : W64) (f : Flags) : (k.pendS r v f).stopping = k.stopping := by
  unfold Crew.pendS; split <;> rfl
@[simp] theorem Crew.pendS_age (k : Crew) (r : BitVec 7) (v : W64) (f : Flags) : (k.pendS r v f).age = k.age := by
  unfold Crew.pendS; split <;> rfl
@[simp] theorem Crew.pendS_sinceS (k : Crew) (r : BitVec 7) (v : W64) (f : Flags) : (k.pendS r v f).sinceS = k.sinceS := by
  unfold Crew.pendS; split <;> rfl
@[simp] theorem Crew.pendS_sinceL (k : Crew) (r : BitVec 7) (v : W64) (f : Flags) : (k.pendS r v f).sinceL = k.sinceL := by
  unfold Crew.pendS; split <;> rfl
@[simp] theorem Crew.pendS_boostS (k : Crew) (r : BitVec 7) (v : W64) (f : Flags) : (k.pendS r v f).boostS = k.boostS := by
  unfold Crew.pendS; split <;> rfl
@[simp] theorem Crew.pendS_boostL (k : Crew) (r : BitVec 7) (v : W64) (f : Flags) : (k.pendS r v f).boostL = k.boostL := by
  unfold Crew.pendS; split <;> rfl

/-! ### Crew.pendV -/

@[simp] theorem Crew.pendV_unit (k : Crew) (l n : Nat) (v : W32) (f : Flags) : (k.pendV l n v f).unit = k.unit := rfl
@[simp] theorem Crew.pendV_pc (k : Crew) (l n : Nat) (v : W32) (f : Flags) : (k.pendV l n v f).pc = k.pc := rfl
@[simp] theorem Crew.pendV_s (k : Crew) (l n : Nat) (v : W32) (f : Flags) : (k.pendV l n v f).s = k.s := rfl
@[simp] theorem Crew.pendV_q (k : Crew) (l n : Nat) (v : W32) (f : Flags) : (k.pendV l n v f).q = k.q := rfl
@[simp] theorem Crew.pendV_bank (k : Crew) (l n : Nat) (v : W32) (f : Flags) : (k.pendV l n v f).bank = k.bank := rfl
@[simp] theorem Crew.pendV_v (k : Crew) (l n : Nat) (v : W32) (f : Flags) : (k.pendV l n v f).v = k.v := rfl
@[simp] theorem Crew.pendV_p (k : Crew) (l n : Nat) (v : W32) (f : Flags) : (k.pendV l n v f).p = k.p := rfl
@[simp] theorem Crew.pendV_groups (k : Crew) (l n : Nat) (v : W32) (f : Flags) : (k.pendV l n v f).groups = k.groups := rfl
@[simp] theorem Crew.pendV_flags (k : Crew) (l n : Nat) (v : W32) (f : Flags) : (k.pendV l n v f).flags = k.flags := rfl
@[simp] theorem Crew.pendV_h (k : Crew) (l n : Nat) (v : W32) (f : Flags) : (k.pendV l n v f).h = k.h := rfl
@[simp] theorem Crew.pendV_tr (k : Crew) (l n : Nat) (v : W32) (f : Flags) : (k.pendV l n v f).tr = k.tr := rfl
@[simp] theorem Crew.pendV_ftstat (k : Crew) (l n : Nat) (v : W32) (f : Flags) : (k.pendV l n v f).ftstat = k.ftstat := rfl
@[simp] theorem Crew.pendV_ftReq (k : Crew) (l n : Nat) (v : W32) (f : Flags) : (k.pendV l n v f).ftReq = k.ftReq := rfl
@[simp] theorem Crew.pendV_grant (k : Crew) (l n : Nat) (v : W32) (f : Flags) : (k.pendV l n v f).grant = k.grant := rfl
@[simp] theorem Crew.pendV_gangw (k : Crew) (l n : Nat) (v : W32) (f : Flags) : (k.pendV l n v f).gangw = k.gangw := rfl
@[simp] theorem Crew.pendV_ctx (k : Crew) (l n : Nat) (v : W32) (f : Flags) : (k.pendV l n v f).ctx = k.ctx := rfl
@[simp] theorem Crew.pendV_runs (k : Crew) (l n : Nat) (v : W32) (f : Flags) : (k.pendV l n v f).runs = k.runs := rfl
@[simp] theorem Crew.pendV_hrun (k : Crew) (l n : Nat) (v : W32) (f : Flags) : (k.pendV l n v f).hrun = k.hrun := rfl
@[simp] theorem Crew.pendV_shown (k : Crew) (l n : Nat) (v : W32) (f : Flags) : (k.pendV l n v f).shown = k.shown := rfl
@[simp] theorem Crew.pendV_park (k : Crew) (l n : Nat) (v : W32) (f : Flags) : (k.pendV l n v f).park = k.park := rfl
@[simp] theorem Crew.pendV_parkH (k : Crew) (l n : Nat) (v : W32) (f : Flags) : (k.pendV l n v f).parkH = k.parkH := rfl
@[simp] theorem Crew.pendV_wait (k : Crew) (l n : Nat) (v : W32) (f : Flags) : (k.pendV l n v f).wait = k.wait := rfl
@[simp] theorem Crew.pendV_word (k : Crew) (l n : Nat) (v : W32) (f : Flags) : (k.pendV l n v f).word = k.word := rfl
@[simp] theorem Crew.pendV_blk (k : Crew) (l n : Nat) (v : W32) (f : Flags) : (k.pendV l n v f).blk = k.blk := rfl
@[simp] theorem Crew.pendV_unread (k : Crew) (l n : Nat) (v : W32) (f : Flags) : (k.pendV l n v f).unread = k.unread := rfl
@[simp] theorem Crew.pendV_memerr (k : Crew) (l n : Nat) (v : W32) (f : Flags) : (k.pendV l n v f).memerr = k.memerr := rfl
@[simp] theorem Crew.pendV_deferred (k : Crew) (l n : Nat) (v : W32) (f : Flags) : (k.pendV l n v f).deferred = k.deferred := rfl
@[simp] theorem Crew.pendV_trapping (k : Crew) (l n : Nat) (v : W32) (f : Flags) : (k.pendV l n v f).trapping = k.trapping := rfl
@[simp] theorem Crew.pendV_growth (k : Crew) (l n : Nat) (v : W32) (f : Flags) : (k.pendV l n v f).growth = k.growth := rfl
@[simp] theorem Crew.pendV_leave (k : Crew) (l n : Nat) (v : W32) (f : Flags) : (k.pendV l n v f).leave = k.leave := rfl
@[simp] theorem Crew.pendV_stopping (k : Crew) (l n : Nat) (v : W32) (f : Flags) : (k.pendV l n v f).stopping = k.stopping := rfl
@[simp] theorem Crew.pendV_age (k : Crew) (l n : Nat) (v : W32) (f : Flags) : (k.pendV l n v f).age = k.age := rfl
@[simp] theorem Crew.pendV_sinceS (k : Crew) (l n : Nat) (v : W32) (f : Flags) : (k.pendV l n v f).sinceS = k.sinceS := rfl
@[simp] theorem Crew.pendV_sinceL (k : Crew) (l n : Nat) (v : W32) (f : Flags) : (k.pendV l n v f).sinceL = k.sinceL := rfl
@[simp] theorem Crew.pendV_boostS (k : Crew) (l n : Nat) (v : W32) (f : Flags) : (k.pendV l n v f).boostS = k.boostS := rfl
@[simp] theorem Crew.pendV_boostL (k : Crew) (l n : Nat) (v : W32) (f : Flags) : (k.pendV l n v f).boostL = k.boostL := rfl

/-! ### Crew.setRunNow -/

@[simp] theorem Crew.setRunNow_unit (k : Crew) (r : Run) : (k.setRunNow r).unit = k.unit := by
  unfold Crew.setRunNow; split <;> rfl
@[simp] theorem Crew.setRunNow_pc (k : Crew) (r : Run) : (k.setRunNow r).pc = k.pc := by
  unfold Crew.setRunNow; split <;> rfl
@[simp] theorem Crew.setRunNow_s (k : Crew) (r : Run) : (k.setRunNow r).s = k.s := by
  unfold Crew.setRunNow; split <;> rfl
@[simp] theorem Crew.setRunNow_q (k : Crew) (r : Run) : (k.setRunNow r).q = k.q := by
  unfold Crew.setRunNow; split <;> rfl
@[simp] theorem Crew.setRunNow_bank (k : Crew) (r : Run) : (k.setRunNow r).bank = k.bank := by
  unfold Crew.setRunNow; split <;> rfl
@[simp] theorem Crew.setRunNow_v (k : Crew) (r : Run) : (k.setRunNow r).v = k.v := by
  unfold Crew.setRunNow; split <;> rfl
@[simp] theorem Crew.setRunNow_p (k : Crew) (r : Run) : (k.setRunNow r).p = k.p := by
  unfold Crew.setRunNow; split <;> rfl
@[simp] theorem Crew.setRunNow_groups (k : Crew) (r : Run) : (k.setRunNow r).groups = k.groups := by
  unfold Crew.setRunNow; split <;> rfl
@[simp] theorem Crew.setRunNow_flags (k : Crew) (r : Run) : (k.setRunNow r).flags = k.flags := by
  unfold Crew.setRunNow; split <;> rfl
@[simp] theorem Crew.setRunNow_h (k : Crew) (r : Run) : (k.setRunNow r).h = k.h := by
  unfold Crew.setRunNow; split <;> rfl
@[simp] theorem Crew.setRunNow_tr (k : Crew) (r : Run) : (k.setRunNow r).tr = k.tr := by
  unfold Crew.setRunNow; split <;> rfl
@[simp] theorem Crew.setRunNow_ftstat (k : Crew) (r : Run) : (k.setRunNow r).ftstat = k.ftstat := by
  unfold Crew.setRunNow; split <;> rfl
@[simp] theorem Crew.setRunNow_ftReq (k : Crew) (r : Run) : (k.setRunNow r).ftReq = k.ftReq := by
  unfold Crew.setRunNow; split <;> rfl
@[simp] theorem Crew.setRunNow_grant (k : Crew) (r : Run) : (k.setRunNow r).grant = k.grant := by
  unfold Crew.setRunNow; split <;> rfl
@[simp] theorem Crew.setRunNow_gangw (k : Crew) (r : Run) : (k.setRunNow r).gangw = k.gangw := by
  unfold Crew.setRunNow; split <;> rfl
@[simp] theorem Crew.setRunNow_ctx (k : Crew) (r : Run) : (k.setRunNow r).ctx = k.ctx := by
  unfold Crew.setRunNow; split <;> rfl
@[simp] theorem Crew.setRunNow_out (k : Crew) (r : Run) : (k.setRunNow r).out = k.out := by
  unfold Crew.setRunNow; split <;> rfl
@[simp] theorem Crew.setRunNow_shown (k : Crew) (r : Run) : (k.setRunNow r).shown = k.shown := by
  unfold Crew.setRunNow; split <;> rfl
@[simp] theorem Crew.setRunNow_park (k : Crew) (r : Run) : (k.setRunNow r).park = k.park := by
  unfold Crew.setRunNow; split <;> rfl
@[simp] theorem Crew.setRunNow_parkH (k : Crew) (r : Run) : (k.setRunNow r).parkH = k.parkH := by
  unfold Crew.setRunNow; split <;> rfl
@[simp] theorem Crew.setRunNow_wait (k : Crew) (r : Run) : (k.setRunNow r).wait = k.wait := by
  unfold Crew.setRunNow; split <;> rfl
@[simp] theorem Crew.setRunNow_word (k : Crew) (r : Run) : (k.setRunNow r).word = k.word := by
  unfold Crew.setRunNow; split <;> rfl
@[simp] theorem Crew.setRunNow_blk (k : Crew) (r : Run) : (k.setRunNow r).blk = k.blk := by
  unfold Crew.setRunNow; split <;> rfl
@[simp] theorem Crew.setRunNow_unread (k : Crew) (r : Run) : (k.setRunNow r).unread = k.unread := by
  unfold Crew.setRunNow; split <;> rfl
@[simp] theorem Crew.setRunNow_memerr (k : Crew) (r : Run) : (k.setRunNow r).memerr = k.memerr := by
  unfold Crew.setRunNow; split <;> rfl
@[simp] theorem Crew.setRunNow_deferred (k : Crew) (r : Run) : (k.setRunNow r).deferred = k.deferred := by
  unfold Crew.setRunNow; split <;> rfl
@[simp] theorem Crew.setRunNow_trapping (k : Crew) (r : Run) : (k.setRunNow r).trapping = k.trapping := by
  unfold Crew.setRunNow; split <;> rfl
@[simp] theorem Crew.setRunNow_growth (k : Crew) (r : Run) : (k.setRunNow r).growth = k.growth := by
  unfold Crew.setRunNow; split <;> rfl
@[simp] theorem Crew.setRunNow_leave (k : Crew) (r : Run) : (k.setRunNow r).leave = k.leave := by
  unfold Crew.setRunNow; split <;> rfl
@[simp] theorem Crew.setRunNow_stopping (k : Crew) (r : Run) : (k.setRunNow r).stopping = k.stopping := by
  unfold Crew.setRunNow; split <;> rfl
@[simp] theorem Crew.setRunNow_age (k : Crew) (r : Run) : (k.setRunNow r).age = k.age := by
  unfold Crew.setRunNow; split <;> rfl
@[simp] theorem Crew.setRunNow_sinceS (k : Crew) (r : Run) : (k.setRunNow r).sinceS = k.sinceS := by
  unfold Crew.setRunNow; split <;> rfl
@[simp] theorem Crew.setRunNow_sinceL (k : Crew) (r : Run) : (k.setRunNow r).sinceL = k.sinceL := by
  unfold Crew.setRunNow; split <;> rfl
@[simp] theorem Crew.setRunNow_boostS (k : Crew) (r : Run) : (k.setRunNow r).boostS = k.boostS := by
  unfold Crew.setRunNow; split <;> rfl
@[simp] theorem Crew.setRunNow_boostL (k : Crew) (r : Run) : (k.setRunNow r).boostL = k.boostL := by
  unfold Crew.setRunNow; split <;> rfl

end Sys2Proof.Machine
end

