-- ==== Sys2Proof/Laws/Memory.lean ====
section
/-!
SUPPORT. The laws of sparse maps and of memory: reading after writing, writes elsewhere, and that every operation keeps the
canonical form.
-/

namespace Sys2Proof

section
variable {α : Type}

/-! ### Reading after writing -/

theorem sparseGet_ins_same (d : α) (m : Sparse α) (a : Nat) (v : α) : sparseGet d (sparseIns m a v) a = v := by
  induction m with
  | nil => simp [sparseIns, sparseGet]
  | cons h t ih =>
    obtain ⟨k, w⟩ := h
    unfold sparseIns
    split
    · simp [sparseGet, *]
    · split <;> simp [sparseGet, *]

theorem sparseGet_ins_other (d : α) (m : Sparse α) (a b : Nat) (v : α) (h : b ≠ a) :
    sparseGet d (sparseIns m a v) b = sparseGet d m b := by
  induction m with
  | nil => simp [sparseIns, sparseGet, h]
  | cons x t ih =>
    obtain ⟨k, w⟩ := x
    unfold sparseIns
    split
    · next e => subst e; simp [sparseGet, h]
    · split
      · simp [sparseGet, h]
      · simp [sparseGet, ih]

theorem sparseGet_del_same (d : α) (m : Sparse α) (a : Nat) : sparseGet d (sparseDel m a) a = d := by
  induction m with
  | nil => rfl
  | cons x t ih =>
    obtain ⟨k, w⟩ := x
    unfold sparseDel
    split
    · exact ih
    · simp [sparseGet, *]

theorem sparseGet_del_other (d : α) (m : Sparse α) (a b : Nat) (h : b ≠ a) :
    sparseGet d (sparseDel m a) b = sparseGet d m b := by
  induction m with
  | nil => rfl
  | cons x t ih =>
    obtain ⟨k, w⟩ := x
    unfold sparseDel
    split
    · next e => subst e; simp [sparseGet, h, ih]
    · simp [sparseGet, ih]

variable [DecidableEq α]

@[simp] theorem sparseGet_set_same (d : α) (m : Sparse α) (a : Nat) (v : α) : sparseGet d (sparseSet d m a v) a = v := by
  unfold sparseSet
  split
  · next e => rw [sparseGet_del_same, e]
  · exact sparseGet_ins_same ..

theorem sparseGet_set_other (d : α) (m : Sparse α) (a b : Nat) (v : α) (h : b ≠ a) :
    sparseGet d (sparseSet d m a v) b = sparseGet d m b := by
  unfold sparseSet
  split
  · exact sparseGet_del_other _ _ _ _ h
  · exact sparseGet_ins_other _ _ _ _ _ h

theorem sparseGet_write_below (d : α) (m : Sparse α) (a b : Nat) (l : List α) (h : b < a) :
    sparseGet d (sparseWrite d m a l) b = sparseGet d m b := by
  induction l generalizing m a with
  | nil => rfl
  | cons v t ih =>
    simp only [sparseWrite]
    rw [ih _ _ (by omega), sparseGet_set_other _ _ _ _ _ (by omega)]

/-- A write leaves every key outside its range. -/
theorem sparseGet_write_other (d : α) (m : Sparse α) (a b : Nat) (l : List α) (h : b < a ∨ a + l.length ≤ b) :
    sparseGet d (sparseWrite d m a l) b = sparseGet d m b := by
  induction l generalizing m a with
  | nil => rfl
  | cons v t ih =>
    simp only [sparseWrite, List.length_cons] at *
    rw [ih _ _ (by omega), sparseGet_set_other _ _ _ _ _ (by omega)]

/-- A read after a write of the same range gives what was written. -/
theorem sparseRead_write (d : α) (m : Sparse α) (a : Nat) (l : List α) :
    sparseRead d (sparseWrite d m a l) a l.length = l := by
  induction l generalizing m a with
  | nil => rfl
  | cons v t ih =>
    simp only [sparseWrite, sparseRead, List.length_cons]
    rw [ih, sparseGet_write_below _ _ _ _ _ (by omega), sparseGet_set_same]

/-! ### The canonical form -/

theorem sparseWfFrom_weaken (d : α) (m : Sparse α) (lo lo' : Nat) (hl : lo' ≤ lo) (h : sparseWfFrom d lo m = true) :
    sparseWfFrom d lo' m = true := by
  cases m with
  | nil => rfl
  | cons x t =>
    obtain ⟨k, w⟩ := x
    simp only [sparseWfFrom, Bool.and_eq_true, decide_eq_true_eq] at *
    exact ⟨⟨by omega, h.1.2⟩, h.2⟩

theorem sparseWfFrom_ins (d : α) (m : Sparse α) (lo a : Nat) (v : α) (ha : lo ≤ a) (hv : v ≠ d)
    (h : sparseWfFrom d lo m = true) : sparseWfFrom d lo (sparseIns m a v) = true := by
  induction m generalizing lo with
  | nil => simp [sparseIns, sparseWfFrom, ha, hv]
  | cons x t ih =>
    obtain ⟨k, w⟩ := x
    simp only [sparseWfFrom, Bool.and_eq_true, decide_eq_true_eq] at h
    unfold sparseIns
    split
    · simp [sparseWfFrom, h, hv]
    · split
      · simp only [sparseWfFrom, Bool.and_eq_true, decide_eq_true_eq]
        exact ⟨⟨ha, hv⟩, ⟨⟨by omega, h.1.2⟩, h.2⟩⟩
      · simp only [sparseWfFrom, Bool.and_eq_true, decide_eq_true_eq]
        exact ⟨h.1, ih (k + 1) (by omega) h.2⟩

theorem sparseWfFrom_filter (d : α) (m : Sparse α) (f : Nat × α → Bool) (lo : Nat)
    (h : sparseWfFrom d lo m = true) : sparseWfFrom d lo (m.filter f) = true := by
  induction m generalizing lo with
  | nil => rfl
  | cons x t ih =>
    obtain ⟨k, w⟩ := x
    simp only [sparseWfFrom, Bool.and_eq_true, decide_eq_true_eq] at h
    simp only [List.filter_cons]
    split
    · simp only [sparseWfFrom, Bool.and_eq_true, decide_eq_true_eq]
      exact ⟨h.1, ih _ h.2⟩
    · exact ih _ (sparseWfFrom_weaken d t (k + 1) lo (by omega) h.2)

omit [DecidableEq α] in
theorem sparseDel_eq_filter (m : Sparse α) (a : Nat) : sparseDel m a = m.filter (fun p => decide (p.1 ≠ a)) := by
  induction m with
  | nil => rfl
  | cons x t ih =>
    obtain ⟨k, w⟩ := x
    unfold sparseDel
    by_cases e : a = k
    · simp [e]; simp_all
    · simp [e, ih, Ne.symm e]

/-- A write of one key keeps the canonical form. -/
theorem sparseWf_set (d : α) (m : Sparse α) (a : Nat) (v : α) (h : sparseWf d m = true) : sparseWf d (sparseSet d m a v) = true := by
  unfold sparseSet sparseWf at *
  split
  · rw [sparseDel_eq_filter]; exact sparseWfFrom_filter _ _ _ _ h
  · exact sparseWfFrom_ins _ _ _ _ _ (Nat.zero_le _) (by assumption) h

/-- A write of several keys keeps the canonical form. -/
theorem sparseWf_write (d : α) (m : Sparse α) (a : Nat) (l : List α) (h : sparseWf d m = true) :
    sparseWf d (sparseWrite d m a l) = true := by
  induction l generalizing m a with
  | nil => exact h
  | cons v t ih => exact ih _ _ (sparseWf_set _ _ _ _ h)

/-- Leaving out entries keeps the canonical form. -/
theorem sparseWf_filter (d : α) (m : Sparse α) (f : Nat × α → Bool) (h : sparseWf d m = true) :
    sparseWf d (m.filter f) = true := sparseWfFrom_filter _ _ _ _ h

/-- Clearing a range keeps the canonical form. -/
theorem sparseWf_clear (d : α) (m : Sparse α) (lo hi : Nat) (h : sparseWf d m = true) :
    sparseWf d (sparseClear m lo hi) = true := sparseWf_filter _ _ _ h

theorem sparseGet_wf_lt (d : α) (m : Sparse α) (lo b : Nat) (h : sparseWfFrom d lo m = true) (hb : b < lo) :
    sparseGet d m b = d := by
  induction m generalizing lo with
  | nil => rfl
  | cons x t ih =>
    obtain ⟨k, w⟩ := x
    simp only [sparseWfFrom, Bool.and_eq_true, decide_eq_true_eq] at h
    have : b ≠ k := by omega
    simp only [sparseGet, this, if_false]
    exact ih _ h.2 (by omega)

/-- In canonical form, maps that read alike are the same list. -/
theorem sparseWfFrom_ext (d : α) (m n : Sparse α) (lo : Nat) (hm : sparseWfFrom d lo m = true) (hn : sparseWfFrom d lo n = true)
    (h : ∀ a, sparseGet d m a = sparseGet d n a) : m = n := by
  induction m generalizing n lo with
  | nil =>
    cases n with
    | nil => rfl
    | cons y u =>
      obtain ⟨k, w⟩ := y
      simp only [sparseWfFrom, Bool.and_eq_true, decide_eq_true_eq] at hn
      have := h k
      simp [sparseGet] at this
      exact absurd this.symm hn.1.2
  | cons x t ih =>
    obtain ⟨j, v⟩ := x
    cases n with
    | nil =>
      simp only [sparseWfFrom, Bool.and_eq_true, decide_eq_true_eq] at hm
      have := h j
      simp [sparseGet] at this
      exact absurd this hm.1.2
    | cons y u =>
      obtain ⟨k, w⟩ := y
      simp only [sparseWfFrom, Bool.and_eq_true, decide_eq_true_eq] at hm hn
      have hjk : j = k := by
        rcases Nat.lt_trichotomy j k with l | e | l
        · have := h j
          have hne : j ≠ k := by omega
          simp only [sparseGet, if_true, hne, if_false] at this
          rw [sparseGet_wf_lt d u (k + 1) j hn.2 (by omega)] at this
          exact absurd this hm.1.2
        · exact e
        · have := h k
          have hne : k ≠ j := by omega
          simp only [sparseGet, if_true, hne, if_false] at this
          rw [sparseGet_wf_lt d t (j + 1) k hm.2 (by omega)] at this
          exact absurd this.symm hn.1.2
      subst hjk
      have hv : v = w := by have := h j; simpa [sparseGet] using this
      subst hv
      have ht : t = u := ih u (j + 1) hm.2 hn.2 (by
        intro a
        by_cases ha : a = j
        · subst ha
          rw [sparseGet_wf_lt d t (a + 1) a hm.2 (by omega), sparseGet_wf_lt d u (a + 1) a hn.2 (by omega)]
        · have := h a
          simpa [sparseGet, ha] using this)
      rw [ht]

/-- Equal memories are equal data. -/
theorem sparseWf_ext (d : α) (m n : Sparse α) (hm : sparseWf d m = true) (hn : sparseWf d n = true)
    (h : ∀ a, sparseGet d m a = sparseGet d n a) : m = n := sparseWfFrom_ext d m n 0 hm hn h

end

end Sys2Proof

namespace Sys2Proof.Machine

/-! ### Memory -/

/-- The bytes that a write reaches keep the canonical form. -/
theorem writeBytes_wf (m : List Host.Cell) (skip : Nat → Bool) (pa : Nat) (bs : List Byte) (h : Memory.wf m = true) :
    Memory.wf (writeBytes m skip pa bs) = true := by
  induction bs generalizing m pa with
  | nil => exact h
  | cons b t ih =>
    simp only [writeBytes]
    split
    · exact ih _ _ h
    · exact ih _ _ (sparseWf_set _ _ _ _ h)

/-- A write leaves every byte outside its range. -/
theorem writeBytes_other (m : List Host.Cell) (skip : Nat → Bool) (pa a : Nat) (bs : List Byte)
    (h : a < pa ∨ pa + bs.length ≤ a) :
    sparseGet unlistedByte (writeBytes m skip pa bs) a = sparseGet unlistedByte m a := by
  induction bs generalizing m pa with
  | nil => rfl
  | cons b t ih =>
    simp only [writeBytes, List.length_cons] at *
    rw [ih _ _ (by omega)]
    split
    · rfl
    · exact sparseGet_set_other _ _ _ _ _ (by omega)

/-- A write through no poisoned granule is a plain write. -/
theorem writeBytes_plain (m : List Host.Cell) (pa : Nat) (bs : List Byte) :
    writeBytes m (fun _ => false) pa bs = sparseWrite unlistedByte m pa bs := by
  induction bs generalizing m pa with
  | nil => rfl
  | cons b t ih => simp [writeBytes, sparseWrite, ih]

@[simp] theorem State.watch_mem (s : State) (pa : Nat) (bs : List Byte) : (s.watch pa bs).mem = s.mem := by
  unfold State.watch; split <;> rfl

@[simp] theorem State.changed_mem (s : State) (m : List Host.Cell) (pa n : Nat) : (s.changed m pa n).mem = s.mem := by
  unfold State.changed; split <;> rfl

/-- An entry of the error log keeps memory canonical, written or kept waiting. -/
theorem State.logEntry_wf (s : State) (bs : List Byte) (h : Memory.wf s.mem = true) : Memory.wf (s.logEntry bs).mem = true := by
  simp only [State.logEntry, State.logWrite]
  repeat' split
  all_goals first | exact h | exact sparseWf_write _ _ _ _ h

theorem State.log_wf (s : State) (a b c d : Nat) (h : Memory.wf s.mem = true) : Memory.wf (s.log a b c d).mem = true := by
  unfold State.log
  split
  · exact s.logEntry_wf _ h
  · exact h

/-- So do the entries that waited. -/
theorem State.flushLog_wf (s : State) (h : Memory.wf s.mem = true) : Memory.wf s.flushLog.mem = true := by
  have step (l : List (List Byte)) : ∀ t : State, Memory.wf t.mem = true → Memory.wf (l.foldl State.logEntry t).mem = true := by
    induction l with
    | nil => exact fun _ ht => ht
    | cons b l ih => exact fun t ht => ih _ (t.logEntry_wf b ht)
  unfold State.flushLog
  split
  · exact h
  · exact step _ _ h

/-- Every write of memory keeps its canonical form. -/
theorem State.memWrite_wf (s : State) (pa : Nat) (bs : List Byte) (h : Memory.wf s.mem = true) :
    Memory.wf (s.memWrite pa bs).mem = true := by
  unfold State.memWrite
  simp only [State.changed_mem, State.watch_mem]
  split
  · exact State.log_wf _ _ _ _ _ (writeBytes_wf _ _ _ _ h)
  · exact writeBytes_wf _ _ _ _ h

/-- A write of the package's own units (R291) keeps memory canonical. -/
theorem State.unitWrite_wf (s : State) (sec : Bool) (pa : Nat) (bs : List Byte) (h : Memory.wf s.mem = true) :
    Memory.wf (s.unitWrite sec pa bs).mem = true := by
  unfold State.unitWrite
  split
  · exact s.memWrite_wf pa bs h
  · exact h

/-- Memory after power-up has the canonical form. -/
theorem State.reset_mem_wf : Memory.wf State.reset.mem = true := rfl

end Sys2Proof.Machine
end

