-- ==== Sys2Proof/Laws/Ops.lean ====
section
/-!
SUPPORT. One lemma for each shared operation of the meanings: what it answers where the stream that it needs has the turn, and
everything it can answer.
-/

namespace Sys2Proof.Machine

/-! ### Scalar issue -/

theorem onScalar_at {s : State} {c : CrewRef} {k : Crew} (f : CrewRef → Crew → State) (h : ScalarAt s c k) :
    onScalar s f = .next (f c k) := by
  obtain ⟨ht, hk, -⟩ := h
  simp [onScalar, ht, hk]

theorem scalarIns_at {s : State} {c : CrewRef} {k : Crew} (f : CrewRef → Crew → State) (h : ScalarAt s c k) :
    scalarIns s f = .next (f c k) := by
  have hg : (k.growth && !k.h) = false := by rcases h.2.2 with hg | hg <;> simp [hg]
  simp only [scalarIns, onScalar_at _ h, hg, Bool.false_eq_true, if_false]

theorem blockIns_at {s : State} {b j : Nat} {k : Crew} (f : CrewRef → Crew → State) (h : BlockAt s b j k) :
    blockIns s f = .next (f (.blk b j) k) := by
  simp [blockIns, scalarIns_at _ h, CrewRef.isCtl]

/-- The control crew takes ILLINS at an instruction that it does not have (R67). -/
theorem blockIns_ctl {s : State} {d : Nat} {k : Crew} (f : CrewRef → Crew → State) (h : ScalarAt s (.ctl d) k) :
    blockIns s f = .next (s.trap (.ctl d) cILLINS) := by
  simp [blockIns, scalarIns_at _ h, CrewRef.isCtl]

/-- A growth crew that has not attached takes ATTSEQ at every instruction but ATTACH (R91). -/
theorem scalarIns_growth {s : State} {c : CrewRef} {k : Crew} (f : CrewRef → Crew → State) (ht : s.turn = .scalar c)
    (hk : s.crew? c = some k) (hg : k.growth = true) (hh : k.h = false) : scalarIns s f = .next (s.trap c cATTSEQ) := by
  simp [scalarIns, onScalar, ht, hk, hg, hh]

/-- Everything that a scalar instruction can answer. -/
theorem onScalar_cases {s t : State} {f : CrewRef → Crew → State} (h : onScalar s f = .next t) :
    ∃ c k, s.turn = .scalar c ∧ s.crew? c = some k ∧ t = f c k := by
  unfold onScalar at h
  split at h
  · rename_i c ht
    split at h
    · rename_i k hk
      cases h
      exact ⟨c, k, ht, hk, rfl⟩
    · cases h
  all_goals cases h

theorem scalarIns_cases {s t : State} {f : CrewRef → Crew → State} (h : scalarIns s f = .next t) :
    ∃ c k, s.turn = .scalar c ∧ s.crew? c = some k ∧ (t = f c k ∨ t = s.trap c cATTSEQ) := by
  obtain ⟨c, k, ht, hk, rfl⟩ := onScalar_cases h
  refine ⟨c, k, ht, hk, ?_⟩
  split
  · exact .inr rfl
  · exact .inl rfl

theorem blockIns_cases {s t : State} {f : CrewRef → Crew → State} (h : blockIns s f = .next t) :
    ∃ c k, s.turn = .scalar c ∧ s.crew? c = some k ∧ (t = f c k ∨ t = s.trap c cILLINS ∨ t = s.trap c cATTSEQ) := by
  obtain ⟨c, k, ht, hk, rfl | rfl⟩ := scalarIns_cases h
  · refine ⟨c, k, ht, hk, ?_⟩
    split
    · exact .inr (.inl rfl)
    · exact .inl rfl
  · exact ⟨c, k, ht, hk, .inr (.inr rfl)⟩

/-- A scalar instruction stops only where no scalar thread has the turn. -/
theorem onScalar_goes {s : State} {c : CrewRef} {k : Crew} (f : CrewRef → Crew → State) (ht : s.turn = .scalar c)
    (hk : s.crew? c = some k) : ∃ t, onScalar s f = .next t := ⟨f c k, by simp [onScalar, ht, hk]⟩

theorem scalarIns_goes {s : State} {c : CrewRef} {k : Crew} (f : CrewRef → Crew → State) (ht : s.turn = .scalar c)
    (hk : s.crew? c = some k) : ∃ t, scalarIns s f = .next t := onScalar_goes _ ht hk

theorem blockIns_goes {s : State} {c : CrewRef} {k : Crew} (f : CrewRef → Crew → State) (ht : s.turn = .scalar c)
    (hk : s.crew? c = some k) : ∃ t, blockIns s f = .next t := scalarIns_goes _ ht hk

theorem afterErr_none {s : State} {c : CrewRef} {k : Crew} (n : State) (h : k.scalarErr = []) : s.afterErr c k n = n := by
  simp [State.afterErr, h]

theorem afterErr_some {s : State} {c : CrewRef} {k : Crew} (n : State) (h : k.scalarErr ≠ []) :
    s.afterErr c k n = s.waitScalar c := by
  simp [State.afterErr, h]

/-! ### Lane issue -/

theorem onGang_at {s : State} {t : LaneTurn} (f : LaneTurn → State) (h : GangAt s t) : onGang s f = .next (f t) := by
  obtain ⟨i, k, r, ht, hk, hr, hl, he⟩ := h
  simp [onGang, ht, hk, hr, hl, ← he]

theorem laneIns_at {s : State} {t : LaneTurn} {g : Guard} {regs : List Nat} (f : LaneTurn → W32 → State) (h : GangAt s t)
    (hb : Below t regs) : laneIns s g regs f = .next (f t (lanesOn t g)) := by
  have hn : regs.any (fun n => decide (8 * t.r.groups ≤ n)) = false := by
    simp only [List.any_eq_false, decide_eq_true_eq, Nat.not_le]
    exact hb
  simp only [laneIns, onGang_at _ h, hn, lanesOn, LaneTurn.lanes, Bool.false_eq_true, if_false]

/-- A lane instruction that names a register at or above the group limit traps REGRNG in its lanes (R70). -/
theorem laneIns_regrng {s : State} {t : LaneTurn} {g : Guard} {regs : List Nat} {n : Nat} (f : LaneTurn → W32 → State)
    (h : GangAt s t) (hn : n ∈ regs) (hb : 8 * t.r.groups ≤ n) :
    laneIns s g regs f = .next (s.laneTrap t cREGRNG (lanesOn t g) (lanesOn t g) 0) := by
  have hn : regs.any (fun n => decide (8 * t.r.groups ≤ n)) = true := by
    simp only [List.any_eq_true, decide_eq_true_eq]
    exact ⟨n, hn, hb⟩
  simp only [laneIns, onGang_at _ h, hn, lanesOn, LaneTurn.lanes, if_true]

theorem laneFix_at {s : State} {t : LaneTurn} {g : Guard} {sw : Bool} {regs : List Nat} (f : LaneTurn → W32 → Crew)
    (h : GangAt s t) (hb : Below t regs) :
    laneFix s sw g regs f = .next (s.putCrew t.c (t.next sw (f t (lanesOn t g)))) := by
  simp [laneFix, laneIns_at _ h hb]

/-- Everything that a lane instruction can answer. -/
theorem onGang_cases {s u : State} {f : LaneTurn → State} (h : onGang s f = .next u) : ∃ t, GangAt s t ∧ u = f t := by
  unfold onGang at h
  split at h
  · rename_i c i ht
    split at h
    · cases h
    · rename_i k hk
      split at h
      · cases h
      · rename_i r hr
        split at h
        · rename_i hl
          cases h
          exact ⟨r.laneTurn c k i, ⟨i, k, r, ht, hk, hr, hl, rfl⟩, rfl⟩
        · cases h
  all_goals cases h

theorem laneIns_cases {s u : State} {g : Guard} {regs : List Nat} {f : LaneTurn → W32 → State}
    (h : laneIns s g regs f = .next u) :
    ∃ t, GangAt s t ∧ ((Below t regs ∧ u = f t (lanesOn t g)) ∨ u = s.laneTrap t cREGRNG (lanesOn t g) (lanesOn t g) 0) := by
  obtain ⟨t, ht, rfl⟩ := onGang_cases h
  refine ⟨t, ht, ?_⟩
  by_cases hb : Below t regs
  · refine .inl ⟨hb, ?_⟩
    have hn : regs.any (fun n => decide (8 * t.r.groups ≤ n)) = false := by
      simp only [List.any_eq_false, decide_eq_true_eq, Nat.not_le]
      exact hb
    simp only [hn, lanesOn, LaneTurn.lanes, Bool.false_eq_true, if_false]
  · refine .inr ?_
    have hn : regs.any (fun n => decide (8 * t.r.groups ≤ n)) = true := by
      refine Decidable.byContradiction fun hx => hb ?_
      simp only [List.any_eq_true, decide_eq_true_eq] at hx
      intro n hn
      refine Nat.lt_of_not_le fun hle => hx ⟨n, hn, hle⟩
    simp only [hn, lanesOn, LaneTurn.lanes, if_true]

theorem onGang_goes {s : State} {c : CrewRef} {i : Nat} {k : Crew} {r : Run} (f : LaneTurn → State) (ht : s.turn = .gang c i)
    (hk : s.crew? c = some k) (hr : k.runNow = some r) (hl : (r.slice i).live = true) : ∃ u, onGang s f = .next u :=
  ⟨f (r.laneTurn c k i), by simp [onGang, ht, hk, hr, hl]⟩

/-! ### Traps -/

/-- A trap raised in a handler is a double fault (R314). -/
theorem takeTrap_handler {s : State} {c : CrewRef} {k : Crew} (tr : TrapRegs) (hk : s.crew? c = some k) (hh : k.h = true) :
    s.takeTrap c tr = s.doubleFault c tr := by
  simp [State.takeTrap, hk, hh]

/-- A crew that is already taking a trap keeps that one. -/
theorem takeTrap_again {s : State} {c : CrewRef} {k : Crew} {x : TrapRegs} (tr : TrapRegs) (hk : s.crew? c = some k)
    (hh : k.h = false) (ht : k.trapping = some x) : s.takeTrap c tr = s := by
  simp [State.takeTrap, hk, hh, ht]

theorem takeTrap_first {s : State} {c : CrewRef} {k : Crew} (tr : TrapRegs) (hk : s.crew? c = some k) (hh : k.h = false)
    (ht : k.trapping = none) :
    s.takeTrap c tr =
      ((s.stopStreams c).modCrew c (fun x => { x with trapping := some tr, blk := k.blocked, unread := false })).enterIfReady c := by
  simp [State.takeTrap, hk, hh, ht]

theorem enterIfReady_ready {s : State} {c : CrewRef} {k : Crew} {tr : TrapRegs} (hk : s.crew? c = some k)
    (ht : k.trapping = some tr) (ho : k.out.all (s.stuck c) = true) : s.enterIfReady c = s.enterHandler c tr := by
  simp only [State.enterIfReady, hk, ht, ho, if_true]

theorem enterIfReady_waits {s : State} {c : CrewRef} {k : Crew} (hk : s.crew? c = some k)
    (ho : k.out.all (s.stuck c) = false) : s.enterIfReady c = s := by
  simp only [State.enterIfReady, hk]
  split
  · rfl
  · simp [ho]

theorem trapAt_eq {s : State} {c : CrewRef} {k : Crew} (cause : Nat) (addr : W64) (hk : s.crew? c = some k) :
    s.trapAt c cause addr = s.takeTrap c (trapRegs cause 0 0 false k.pc k.pc k.pc 0 0 addr 0) := by
  simp [State.trapAt, hk]

/-! ### The return from a handler -/

theorem eret_outside {s : State} {c : CrewRef} {k : Crew} (sw : Bool) (hh : k.h = false) : s.eret c k sw = s.trap c cILLINS := by
  simp [State.eret, hh]

theorem eret_done {s : State} {c : CrewRef} {k : Crew} (sw : Bool) (hh : k.h = true)
    (hs : k.tr.tcause.toNat.testBit 8 = true ∨ k.tr.tpc = k.tr.tspc) (hr : ∀ r, k.hrun = some r → r.state = .ended) :
    s.eret c k sw = s.leaveHandler c sw := by
  have h1 : (!k.tr.tcause.toNat.testBit 8 && k.tr.tpc != k.tr.tspc) = false := by
    rcases hs with hs | hs <;> simp [hs]
  simp only [State.eret, hh, h1]
  cases hx : k.hrun with
  | none => simp
  | some r => simp [hr r hx]

/-! ### Acceptance into the MOS queue -/

/-- A full queue accepts nothing. -/
theorem accept_full {s : State} {c : CrewRef} {k : Crew} {sw : Bool} {rd : Option (BitVec 7)} {e : MosEntry}
    (h : s.mosFull c = true) : s.accept c k sw rd e = s := by simp [State.accept, h]

/-- A queue with room takes the entry at its end. -/
theorem accept_room {s : State} {c : CrewRef} {k : Crew} {sw : Bool} {rd : Option (BitVec 7)} {e : MosEntry}
    (h : s.mosFull c = false) : s.accept c k sw rd e = queued s c k sw rd e := by
  simp only [State.accept, h]; rfl

/-- An instruction that hands an entry to the queue is accepted with it. -/
theorem accepts_intro {i : Instr} {s : State} {c : CrewRef} {k k' : Crew} {sw : Bool} {rd : Option (BitVec 7)} {vals : List W64}
    {P : MosEntry → Prop} {e : MosEntry} (hx : exec i s = .next (s.accept c k' sw rd e)) (he : EntryOf s c k i vals e) (hp : P e) :
    Accepts i s c k k' sw rd vals P :=
  ⟨fun h => by rw [hx, accept_full h], fun h => ⟨e, he, hp, by rw [hx, accept_room h]⟩⟩

/-- FADDR of an access within one page is the access's address (R315). -/
theorem failAddr_one_page (s : State) (c : CrewRef) (kind : AccKind) (va : W64) (n e : Nat)
    (h : va.toNat % 0x10000 + n ≤ 0x10000) : s.failAddr c kind va n e = va := by
  have hp : pageParts va.toNat n = [(va.toNat, n)] := by
    simp only [pageParts]; rw [if_pos (by omega)]
  simp only [State.failAddr, hp, List.find?_cons, List.find?_nil]
  split
  · rfl
  · split
    · rename_i h1; split at h1 <;> simp_all
      subst h1; simp
    · rfl

end Sys2Proof.Machine
end

