-- ==== Sys2Proof/Laws/Lanes.lean ====
section
/-!
SUPPORT. What the shared operations of the lane instructions do in every lane: a register, a pair, a predicate, or a value that is
delivered later.
-/

namespace Sys2Proof.Machine

/-! ### Masks and lanes -/

theorem bitN_eq_testBit (x n : Nat) : bitN x n = x.testBit n := by
  simp only [bitN, Nat.testBit, Nat.one_and_eq_mod_two, bne, Nat.shiftRight_eq_div_pow]
  rcases Nat.mod_two_eq_zero_or_one (x / 2 ^ n) with h | h <;> simp [h]

theorem mem_lanesOf (en : W32) (l : Nat) : l ∈ lanesOf en ↔ l < 32 ∧ en.toNat.testBit l = true := by
  simp [lanesOf, maskList, bitN_eq_testBit]

theorem lanesOf_nodup (en : W32) : (lanesOf en).Nodup := List.Nodup.sublist List.filter_sublist List.nodup_range

theorem testBit_foldl_or (ls : List Nat) (m n : Nat) :
    (ls.foldl (fun m k => m ||| (1 <<< k)) m).testBit n = (m.testBit n || ls.contains n) := by
  induction ls generalizing m with
  | nil => simp
  | cons a t ih =>
    rw [List.foldl_cons, ih, Nat.testBit_or, Nat.testBit_shiftLeft, List.contains_cons, Bool.or_assoc]
    congr 1
    by_cases h : n = a
    · subst h; simp
    · by_cases h' : a ≤ n
      · have hb : Nat.testBit 1 (n - a) = false := by
          obtain ⟨m, hm⟩ : ∃ m, n - a = m + 1 := ⟨n - a - 1, by omega⟩
          rw [hm, Nat.testBit_succ]
          simp
        simp [h, hb]
      · simp [h, h']

theorem testBit_listMask (ls : List Nat) (n : Nat) : (listMask ls).testBit n = ls.contains n := by
  simp [listMask, testBit_foldl_or]

/-! ### One lane -/

theorem vread_vwrite {k : Crew} {l l' n n' : Nat} {v : W32} (hl : l < 32) (hl' : l' < 32) :
    (k.vwrite l n v).vread l' n' = if l' = l ∧ n' = n then v else k.vread l' n' := by
  unfold Crew.vread Crew.vwrite
  split
  · next h => obtain ⟨rfl, rfl⟩ := h; exact sparseGet_set_same ..
  · next h => exact sparseGet_set_other _ _ _ _ _ (by omega)

/-! ### Every enabled lane -/

/-- A change in each lane of a list that writes registers and flags alone: what it leaves of the crew, of every register and of the
flags. -/
theorem foldl_vals (n : Nat) (f : Nat → W32 × Flags) (ls : List Nat) (k : Crew) (hls : ∀ l ∈ ls, l < 32) (hd : ls.Nodup) :
    ∀ k', k' = ls.foldl (fun k l => (k.vwrite l n (f l).1).sticky (f l).2) k →
      k' = { k with v := k'.v, flags := k'.flags } ∧
      (∀ l m, l < 32 → k'.vread l m = if l ∈ ls ∧ m = n then (f l).1 else k.vread l m) ∧
      ∀ b : Nat, k'.flags.toNat.testBit b = (k.flags.toNat.testBit b || ls.any (fun l => (f l).2.toNat.testBit b)) := by
  induction ls generalizing k with
  | nil => rintro _ rfl; simp
  | cons a t ih =>
    rintro k' rfl
    have ha : a < 32 := hls a (by simp)
    have hd := List.nodup_cons.1 hd
    obtain ⟨h1, h2, h3⟩ := ih ((k.vwrite a n (f a).1).sticky (f a).2) (fun l hl => hls l (by simp [hl])) hd.2 _ rfl
    rw [List.foldl_cons]
    refine ⟨h1, fun l m hl => ?_, fun b => ?_⟩
    · rw [h2 l m hl]
      have hv : ((k.vwrite a n (f a).1).sticky (f a).2).vread l m = (k.vwrite a n (f a).1).vread l m := rfl
      rw [hv, vread_vwrite ha hl]
      by_cases hm : m = n
      · by_cases hla : l = a
        · subst hla hm; simp [hd.1]
        · simp [hm, hla]
      · simp [hm]
    · rw [h3 b]
      simp [Crew.sticky, Crew.vwrite, Bool.or_assoc]

/-- What a 32-bit result with flags in every enabled lane does (R186, R187). -/
theorem laneSets_intro {i : Instr} {s : State} {t : LaneTurn} {g : Guard} {sw : Bool} {vd : BitVec 9} {f : Nat → W32 × Flags}
    (h : exec i s = .next (s.putCrew t.c (t.next sw (laneVals t (lanesOn t g) vd f)))) : LaneSets i s t g sw vd f := by
  obtain ⟨h1, h2, h3⟩ := foldl_vals vd.toNat f (lanesOf (lanesOn t g)) t.k (fun l hl => ((mem_lanesOf _ _).1 hl).1)
    (lanesOf_nodup _) _ rfl
  refine ⟨_, h, h1, fun l n hl ho => ?_, fun l n hl ho => ?_, fun b => ?_⟩
  · rw [laneVals, perLane, h2 l n hl]
    simp [mem_lanesOf, hl, show (lanesOn t g).toNat.testBit l = true from ho]
  · rw [laneVals, perLane, h2 l n hl, if_neg]
    exact fun hc => ho ((mem_lanesOf _ _).1 hc.1).2
  · rw [laneVals, perLane, h3 b, lanesOf, maskList, List.any_filter]
    simp only [bitN_eq_testBit]

/-- The same for a pair of registers. -/
theorem foldl_pairs (n : Nat) (f : Nat → W64) (ls : List Nat) (k : Crew) (hls : ∀ l ∈ ls, l < 32) (hd : ls.Nodup) :
    ∀ k', k' = ls.foldl (fun k l => k.vwrite64 l n (f l)) k →
      k' = { k with v := k'.v } ∧
      ∀ l m, l < 32 → k'.vread l m = if l ∈ ls ∧ m = n then (f l).setWidth 32
        else if l ∈ ls ∧ m = n + 1 then (f l >>> 32).setWidth 32 else k.vread l m := by
  induction ls generalizing k with
  | nil => rintro _ rfl; simp
  | cons a t ih =>
    rintro k' rfl
    have ha : a < 32 := hls a (by simp)
    have hd := List.nodup_cons.1 hd
    obtain ⟨h1, h2⟩ := ih (k.vwrite64 a n (f a)) (fun l hl => hls l (by simp [hl])) hd.2 _ rfl
    rw [List.foldl_cons]
    refine ⟨h1, fun l m hl => ?_⟩
    rw [h2 l m hl, Crew.vwrite64, vread_vwrite ha hl, vread_vwrite ha hl]
    by_cases hla : l = a
    · subst hla
      by_cases hm : m = n
      · subst hm; simp [hd.1]
      · simp [hm, hd.1]
    · simp [hla]

/-- What a 64-bit result in every enabled lane does (R43, R186). -/
theorem laneSets64_intro {i : Instr} {s : State} {t : LaneTurn} {g : Guard} {sw : Bool} {vd : BitVec 9} {f : Nat → W64}
    (h : exec i s = .next (s.putCrew t.c (t.next sw (perLane t (lanesOn t g) (fun l k => k.vwrite64 l vd.toNat (f l)))))) :
    LaneSets64 i s t g sw vd f := by
  obtain ⟨h1, h2⟩ := foldl_pairs vd.toNat f (lanesOf (lanesOn t g)) t.k (fun l hl => ((mem_lanesOf _ _).1 hl).1)
    (lanesOf_nodup _) _ rfl
  refine ⟨_, h, h1, fun l n hl ho => ?_, fun l n hl ho => ?_⟩
  · rw [perLane, h2 l n hl]
    simp [mem_lanesOf, hl, show (lanesOn t g).toNat.testBit l = true from ho]
  · have hn : l ∉ lanesOf (lanesOn t g) := fun hc => ho ((mem_lanesOf _ _).1 hc).2
    rw [perLane, h2 l n hl]
    simp [hn]

/-- What a 32-bit register without flags does, as an integer result narrowed at the end (R193). -/
theorem perLane_vput32 (t : LaneTurn) (en : W32) (ty : Ty) (vd : BitVec 9) (f : Nat → Int) (h : ty.is64 = false) :
    perLane t en (fun l k => k.vput ty l vd (f l)) = laneVals t en vd (fun l => (BitVec.ofInt 32 (f l), 0)) := by
  simp only [laneVals, perLane, Crew.vput, h, Bool.false_eq_true, if_false]
  congr 1
  funext k l
  simp [Crew.sticky, Crew.vwrite]

theorem perLane_vput64 (t : LaneTurn) (en : W32) (ty : Ty) (vd : BitVec 9) (f : Nat → Int) (h : ty.is64 = true) :
    perLane t en (fun l k => k.vput ty l vd (f l)) = perLane t en (fun l k => k.vwrite64 l vd.toNat (BitVec.ofInt 64 (f l))) := by
  simp only [Crew.vput, h, if_true]

/-- What an integer result in every enabled lane does, in the width of its type (R186, R193). -/
theorem laneInts_intro {i : Instr} {s : State} {t : LaneTurn} {g : Guard} {sw : Bool} {ty : Ty} {vd : BitVec 9} {f : Nat → Int}
    (h : exec i s = .next (s.putCrew t.c (t.next sw (perLane t (lanesOn t g) (fun l k => k.vput ty l vd (f l)))))) :
    LaneInts i s t g sw ty vd f := by
  unfold LaneInts
  cases ty <;> simp only [reduceCtorEq, or_self, or_true, true_or, if_true, if_false]
  · exact laneSets_intro (by rw [h, perLane_vput32 _ _ _ _ _ rfl])
  · exact laneSets_intro (by rw [h, perLane_vput32 _ _ _ _ _ rfl])
  · exact laneSets64_intro (by rw [h, perLane_vput64 _ _ _ _ _ rfl])
  · exact laneSets64_intro (by rw [h, perLane_vput64 _ _ _ _ _ rfl])

/-- The bits of a predicate in the lanes of a mask, and outside them. -/
theorem pread_pput (k : Crew) (i n l : Nat) (en bits : W32) (hl : l < 32) :
    (k.pput i en bits).pread l n = if n = i ∧ en.toNat.testBit l = true then bits.toNat.testBit l else k.pread l n := by
  unfold Crew.pread Crew.pput Crew.pmask
  by_cases hn : n = i
  · subst hn
    simp only [sparseGet_set_same, true_and]
    by_cases he : en.toNat.testBit l = true
    · have he' : en.getLsbD l = true := he
      simp only [he, if_true, BitVec.testBit_toNat, BitVec.getLsbD_or, BitVec.getLsbD_and, BitVec.getLsbD_not, he', hl]
      simp
    · have he' : en.getLsbD l = false := by simpa [BitVec.testBit_toNat] using he
      simp only [he, Bool.false_eq_true, if_false]
      simp only [BitVec.testBit_toNat, BitVec.getLsbD_or, BitVec.getLsbD_and, BitVec.getLsbD_not, he', hl]
      simp
  · rw [sparseGet_set_other _ _ _ _ _ hn]
    simp [hn]

/-- What a predicate result in every enabled lane does (R186). -/
theorem lanePreds_intro {i : Instr} {s : State} {t : LaneTurn} {g : Guard} {sw : Bool} {pd : Nat} {f : Nat → Bool} {bits : W32}
    (h : exec i s = .next (s.putCrew t.c (t.next sw (t.k.pput pd (lanesOn t g) bits))))
    (hf : ∀ l, l < 32 → OnLane t g l → bits.toNat.testBit l = f l) : LanePreds i s t g sw pd f := by
  refine ⟨_, h, rfl, fun l n hl ho => ?_, fun l n hl ho => ?_⟩
  · rw [pread_pput _ _ _ _ _ _ hl]
    simp [show (lanesOn t g).toNat.testBit l = true from ho, hf l hl ho]
  · rw [pread_pput _ _ _ _ _ _ hl, if_neg]
    exact fun hc => ho hc.2

/-- A value in every enabled lane that is delivered later (R46). -/
theorem foldl_late (n : Nat) (f : Nat → W32 × Flags) (ls : List Nat) (k : Crew) :
    ls.foldl (fun k l => k.pendV l n (f l).1 (f l).2) k =
      { k with out := k.out ++ ls.map (fun l => ⟨.slice (l / 4), k.h, .vreg (32 * n + l), some (f l).1.toNat, (f l).2, 0⟩) } := by
  induction ls generalizing k with
  | nil => simp
  | cons a t ih => rw [List.foldl_cons, ih]; simp [Crew.pendV]

theorem laneLate_intro {i : Instr} {s : State} {t : LaneTurn} {g : Guard} {sw : Bool} {vd : BitVec 9} {f : Nat → W32 × Flags}
    (h : exec i s = .next (s.putCrew t.c (t.next sw (perLane t (lanesOn t g) (fun l k => k.pendV l vd.toNat (f l).1 (f l).2))))) :
    LaneLate i s t g sw vd f :=
  ⟨_, h, foldl_late _ _ _ _⟩

end Sys2Proof.Machine
end

