-- ==== Sys2Proof/Laws/Ordering.lean ====
section
/-!
SUPPORT. An execution in which one access is performed after another is among those that R244 to R247 allow.
-/

namespace Sys2Proof.Machine

theorem Leads.mono {r t : Nat → Nat → Prop} (h : ∀ i j, r i j → t i j) {i j : Nat} (p : Leads r i j) : Leads t i j := by
  induction p with
  | one p => exact .one (h _ _ p)
  | more p _ ih => exact .more (h _ _ p) ih

theorem Leads.trans {r : Nat → Nat → Prop} {i j k : Nat} (p : Leads r i j) (q : Leads r j k) : Leads r i k := by
  induction p with
  | one p => exact .more p q
  | more p _ ih => exact .more p (ih q)

theorem Leads.lt {r : Nat → Nat → Prop} (h : ∀ i j, r i j → i < j) {i j : Nat} (p : Leads r i j) : i < j := by
  induction p with
  | one p => exact h _ _ p
  | more p _ ih => exact Nat.lt_trans (h _ _ p) ih

theorem Execution.crewOrder_hb {x : Execution} {i j : Nat} (h : x.crewOrder i j) : x.hb i j := h.mono (fun _ _ => .inl)

namespace Execution.Interleaved

variable {x : Execution}

theorem src_lt (h : x.Interleaved) {r a w : Nat} (hr : x.reads r a) (hs : x.src r a = some w) : w < r ∧ x.writes w a := by
  have := h.latest r a hr; rw [hs] at this; exact ⟨this.1, this.2.1⟩

theorem chain_lt (h : x.Interleaved) {a r w : Nat} (c : x.Chain a r w) : w < r := by
  induction c with
  | last hr hs => exact (h.src_lt hr hs).1
  | back hr hs _ _ ih => exact Nat.lt_trans ih (h.src_lt hr hs).1

theorem crewOrder_lt (h : x.Interleaved) {i j : Nat} (c : x.crewOrder i j) : i < j := Leads.lt h.first c

theorem syncs_lt (h : x.Interleaved) {i j : Nat} (c : x.syncs i j) : i < j := by
  rcases c with c | ⟨w, r, a, ⟨-, hw⟩, ⟨-, hr⟩, -, hc, -⟩
  · exact h.pairs _ _ c
  · have h1 := h.chain_lt hc
    have h2 : i ≤ w := hw.elim Nat.le_of_eq (fun c => Nat.le_of_lt (h.crewOrder_lt c.2))
    have h3 : r ≤ j := hr.elim (fun e => Nat.le_of_eq e.symm) (fun c => Nat.le_of_lt (h.crewOrder_lt c.2))
    omega

theorem hb_lt (h : x.Interleaved) {i j : Nat} (c : x.hb i j) : i < j :=
  Leads.lt (fun _ _ p => p.elim (h.first _ _) h.syncs_lt) c

/-- A read returns every write before it, or a later one. -/
theorem atLeast (h : x.Interleaved) {r a v : Nat} (hr : x.reads r a) (hv : x.writes v a) (hlt : v < r) :
    x.atLeast a (x.src r a) v := by
  have := h.latest r a hr
  cases hs : x.src r a with
  | none => rw [hs] at this; exact absurd hv (this v hlt)
  | some w =>
    rw [hs] at this
    refine ⟨w, rfl, ?_⟩
    rw [h.coh, h.coh]
    exact Nat.le_of_not_lt (fun hc => this.2.2 v hc hlt hv)

/-- Interleaved executions are allowed. -/
theorem allowed (h : x.Interleaved) : x.Allowed where
  values := h.values
  fromWrite r a w hr hs := (h.src_lt hr hs).2
  order a v w _ _ he := by simpa [h.coh] using he
  acyclic i c := Nat.lt_irrefl _ (h.hb_lt c)
  ww a v w _ _ c _ := by simpa [h.coh] using h.hb_lt c
  wr r a hr _ := ⟨fun w hs c => Nat.lt_asymm (h.hb_lt c) (h.src_lt hr hs).1, fun v hv c _ => h.atLeast hr hv (h.hb_lt c)⟩
  rr a q r w hq hr c _ _ hs _ := h.atLeast hr (h.src_lt hq hs).2 (Nat.lt_trans (h.src_lt hq hs).1 (h.hb_lt c))
  rw a r v w hr _ c _ hs _ _ := by simpa [h.coh] using Nat.lt_trans (h.src_lt hr hs).1 (h.hb_lt c)
  atomic a m hr hw _ w hww _ hlt := by
    rw [h.coh, h.coh] at hlt
    obtain ⟨v, hs, hle⟩ := h.atLeast hr hww hlt
    exact ⟨v, hs, hle, by simpa [h.coh] using (h.src_lt hr hs).1⟩
  atomicSrc a m v hr _ _ hs := by simpa [h.coh] using (h.src_lt hr hs).1
  whole r w a b _ _ hra hrb hwa hwb _ _ _ hsee := by
    obtain ⟨v, hs, hle⟩ := hsee
    rw [h.coh, h.coh] at hle
    exact h.atLeast hrb hwb (by have := (h.src_lt hra hs).1; omega)
  wholeWrites v w a b _ _ _ _ _ _ _ hlt := by simpa [h.coh] using hlt
  sOrder f g _ _ := ⟨fun c => by simpa [h.total] using h.hb_lt c, fun e => by simpa [h.total] using e⟩
  fences f g a i y _ _ ht hi hy _ _ _ _ _ _ _ _ := by
    have hlt : i < y := by
      rw [h.total, h.total] at ht
      have h1 : i ≤ f := hi.elim Nat.le_of_eq (fun c => Nat.le_of_lt (h.crewOrder_lt c))
      have h2 : g ≤ y := hy.elim (fun e => Nat.le_of_eq e.symm) (fun c => Nat.le_of_lt (h.crewOrder_lt c))
      omega
    refine ⟨fun hw => ⟨fun hr => h.atLeast hr hw hlt, fun _ => by simpa [h.coh] using hlt⟩, fun w hr hs => ?_⟩
    have hw := h.src_lt hr hs
    exact ⟨fun hry => h.atLeast hry hw.2 (by omega), fun _ => by rw [h.coh, h.coh]; omega⟩
  noCycle i c := Nat.lt_irrefl _ (Leads.lt (fun i j p => p.elim (h.deps i j) (fun ⟨_, hr, hs⟩ => (h.src_lt hr hs).1)) c)

end Execution.Interleaved

end Sys2Proof.Machine
end

