-- ==== Sys2Proof/Laws/PerInstr.lean ====
section
/-!
SUPPORT. Statements made of every instruction as syntax: the family Shape says how many words an encoding has, and that an
operation or event of the device has none.
-/

namespace Sys2Proof.Laws

/-- An event has no words in an instruction store; an instruction of a stream has one word or three (R37, R41). -/
def Shape.Statement (i : Instr) : Prop :=
  (i.isEvent = true → encode i = []) ∧ ((encode i).length = 0 ∨ (encode i).length = 1 ∨ (encode i).length = 3)

theorem Shape.add (o : OpDAB) : Shape.Statement (.add o) := ⟨Bool.noConfusion, .inr (.inl rfl)⟩
theorem Shape.sub (o : OpDAB) : Shape.Statement (.sub o) := ⟨Bool.noConfusion, .inr (.inl rfl)⟩
theorem Shape.mul (o : OpDAB) : Shape.Statement (.mul o) := ⟨Bool.noConfusion, .inr (.inl rfl)⟩
theorem Shape.mulh (o : OpDAB) : Shape.Statement (.mulh o) := ⟨Bool.noConfusion, .inr (.inl rfl)⟩
theorem Shape.divu (o : OpDAB) : Shape.Statement (.divu o) := ⟨Bool.noConfusion, .inr (.inl rfl)⟩
theorem Shape.divs (o : OpDAB) : Shape.Statement (.divs o) := ⟨Bool.noConfusion, .inr (.inl rfl)⟩
theorem Shape.remu (o : OpDAB) : Shape.Statement (.remu o) := ⟨Bool.noConfusion, .inr (.inl rfl)⟩
theorem Shape.and (o : OpDAB) : Shape.Statement (.and o) := ⟨Bool.noConfusion, .inr (.inl rfl)⟩
theorem Shape.or (o : OpDAB) : Shape.Statement (.or o) := ⟨Bool.noConfusion, .inr (.inl rfl)⟩
theorem Shape.xor (o : OpDAB) : Shape.Statement (.xor o) := ⟨Bool.noConfusion, .inr (.inl rfl)⟩
theorem Shape.shl (o : OpDAB) : Shape.Statement (.shl o) := ⟨Bool.noConfusion, .inr (.inl rfl)⟩
theorem Shape.shr (o : OpDAB) : Shape.Statement (.shr o) := ⟨Bool.noConfusion, .inr (.inl rfl)⟩
theorem Shape.sar (o : OpDAB) : Shape.Statement (.sar o) := ⟨Bool.noConfusion, .inr (.inl rfl)⟩
theorem Shape.min (o : OpDAB) : Shape.Statement (.min o) := ⟨Bool.noConfusion, .inr (.inl rfl)⟩
theorem Shape.max (o : OpDAB) : Shape.Statement (.max o) := ⟨Bool.noConfusion, .inr (.inl rfl)⟩
theorem Shape.minu (o : OpDAB) : Shape.Statement (.minu o) := ⟨Bool.noConfusion, .inr (.inl rfl)⟩
theorem Shape.maxu (o : OpDAB) : Shape.Statement (.maxu o) := ⟨Bool.noConfusion, .inr (.inl rfl)⟩
theorem Shape.cmp (o : OpCmp) : Shape.Statement (.cmp o) := ⟨Bool.noConfusion, .inr (.inl rfl)⟩
theorem Shape.sel (o : OpDABX) : Shape.Statement (.sel o) := ⟨Bool.noConfusion, .inr (.inl rfl)⟩
theorem Shape.addImm (o : OpDAI) : Shape.Statement (.addImm o) := ⟨Bool.noConfusion, .inr (.inl rfl)⟩
theorem Shape.mulImm (o : OpDAI) : Shape.Statement (.mulImm o) := ⟨Bool.noConfusion, .inr (.inl rfl)⟩
theorem Shape.andImm (o : OpDAI) : Shape.Statement (.andImm o) := ⟨Bool.noConfusion, .inr (.inl rfl)⟩
theorem Shape.orImm (o : OpDAI) : Shape.Statement (.orImm o) := ⟨Bool.noConfusion, .inr (.inl rfl)⟩
theorem Shape.xorImm (o : OpDAI) : Shape.Statement (.xorImm o) := ⟨Bool.noConfusion, .inr (.inl rfl)⟩
theorem Shape.shlImm (o : OpShI) : Shape.Statement (.shlImm o) := ⟨Bool.noConfusion, .inr (.inl rfl)⟩
theorem Shape.shrImm (o : OpShI) : Shape.Statement (.shrImm o) := ⟨Bool.noConfusion, .inr (.inl rfl)⟩
theorem Shape.sarImm (o : OpShI) : Shape.Statement (.sarImm o) := ⟨Bool.noConfusion, .inr (.inl rfl)⟩
theorem Shape.cmpImm (o : OpCmpI) : Shape.Statement (.cmpImm o) := ⟨Bool.noConfusion, .inr (.inl rfl)⟩
theorem Shape.li (o : OpDL) : Shape.Statement (.li o) := ⟨Bool.noConfusion, .inr (.inl rfl)⟩
theorem Shape.lih (o : OpDL) : Shape.Statement (.lih o) := ⟨Bool.noConfusion, .inr (.inl rfl)⟩
theorem Shape.ljoin (o : OpD) : Shape.Statement (.ljoin o) := ⟨Bool.noConfusion, .inr (.inl rfl)⟩
theorem Shape.b (o : OpB) : Shape.Statement (.b o) := ⟨Bool.noConfusion, .inr (.inl rfl)⟩
theorem Shape.bq (o : OpBQ) : Shape.Statement (.bq o) := ⟨Bool.noConfusion, .inr (.inl rfl)⟩
theorem Shape.bqN (o : OpBQ) : Shape.Statement (.bqN o) := ⟨Bool.noConfusion, .inr (.inl rfl)⟩
theorem Shape.call (o : OpB) : Shape.Statement (.call o) := ⟨Bool.noConfusion, .inr (.inl rfl)⟩
theorem Shape.callReg (o : OpA) : Shape.Statement (.callReg o) := ⟨Bool.noConfusion, .inr (.inl rfl)⟩
theorem Shape.ret (o : OpZ) : Shape.Statement (.ret o) := ⟨Bool.noConfusion, .inr (.inl rfl)⟩
theorem Shape.jr (o : OpA) : Shape.Statement (.jr o) := ⟨Bool.noConfusion, .inr (.inl rfl)⟩
theorem Shape.loop (o : OpDL) : Shape.Statement (.loop o) := ⟨Bool.noConfusion, .inr (.inl rfl)⟩
theorem Shape.sldU8 (o : OpDAI) : Shape.Statement (.sldU8 o) := ⟨Bool.noConfusion, .inr (.inl rfl)⟩
theorem Shape.sldU16 (o : OpDAI) : Shape.Statement (.sldU16 o) := ⟨Bool.noConfusion, .inr (.inl rfl)⟩
theorem Shape.sldU32 (o : OpDAI) : Shape.Statement (.sldU32 o) := ⟨Bool.noConfusion, .inr (.inl rfl)⟩
theorem Shape.sld64 (o : OpDAI) : Shape.Statement (.sld64 o) := ⟨Bool.noConfusion, .inr (.inl rfl)⟩
theorem Shape.sldI8 (o : OpDAI) : Shape.Statement (.sldI8 o) := ⟨Bool.noConfusion, .inr (.inl rfl)⟩
theorem Shape.sldI16 (o : OpDAI) : Shape.Statement (.sldI16 o) := ⟨Bool.noConfusion, .inr (.inl rfl)⟩
theorem Shape.sldI32 (o : OpDAI) : Shape.Statement (.sldI32 o) := ⟨Bool.noConfusion, .inr (.inl rfl)⟩
theorem Shape.sfence (o : OpS) : Shape.Statement (.sfence o) := ⟨Bool.noConfusion, .inr (.inl rfl)⟩
theorem Shape.sst8 (o : OpDAI) : Shape.Statement (.sst8 o) := ⟨Bool.noConfusion, .inr (.inl rfl)⟩
theorem Shape.sst16 (o : OpDAI) : Shape.Statement (.sst16 o) := ⟨Bool.noConfusion, .inr (.inl rfl)⟩
theorem Shape.sst32 (o : OpDAI) : Shape.Statement (.sst32 o) := ⟨Bool.noConfusion, .inr (.inl rfl)⟩
theorem Shape.sst64 (o : OpDAI) : Shape.Statement (.sst64 o) := ⟨Bool.noConfusion, .inr (.inl rfl)⟩
theorem Shape.lrun (o : OpLR) : Shape.Statement (.lrun o) := ⟨Bool.noConfusion, .inr (.inl rfl)⟩
theorem Shape.lrunReg (o : OpAB) : Shape.Statement (.lrunReg o) := ⟨Bool.noConfusion, .inr (.inl rfl)⟩
theorem Shape.trap (o : OpN) : Shape.Statement (.trap o) := ⟨Bool.noConfusion, .inr (.inl rfl)⟩
theorem Shape.eret (o : OpZ) : Shape.Statement (.eret o) := ⟨Bool.noConfusion, .inr (.inl rfl)⟩
theorem Shape.satomAdd32 (o : OpAt) : Shape.Statement (.satomAdd32 o) := ⟨Bool.noConfusion, .inr (.inl rfl)⟩
theorem Shape.satomAnd32 (o : OpAt) : Shape.Statement (.satomAnd32 o) := ⟨Bool.noConfusion, .inr (.inl rfl)⟩
theorem Shape.satomOr32 (o : OpAt) : Shape.Statement (.satomOr32 o) := ⟨Bool.noConfusion, .inr (.inl rfl)⟩
theorem Shape.satomXor32 (o : OpAt) : Shape.Statement (.satomXor32 o) := ⟨Bool.noConfusion, .inr (.inl rfl)⟩
theorem Shape.satomMin32 (o : OpAt) : Shape.Statement (.satomMin32 o) := ⟨Bool.noConfusion, .inr (.inl rfl)⟩
theorem Shape.satomMax32 (o : OpAt) : Shape.Statement (.satomMax32 o) := ⟨Bool.noConfusion, .inr (.inl rfl)⟩
theorem Shape.satomMinu32 (o : OpAt) : Shape.Statement (.satomMinu32 o) := ⟨Bool.noConfusion, .inr (.inl rfl)⟩
theorem Shape.satomMaxu32 (o : OpAt) : Shape.Statement (.satomMaxu32 o) := ⟨Bool.noConfusion, .inr (.inl rfl)⟩
theorem Shape.satomAdd64 (o : OpAt) : Shape.Statement (.satomAdd64 o) := ⟨Bool.noConfusion, .inr (.inl rfl)⟩
theorem Shape.satomAnd64 (o : OpAt) : Shape.Statement (.satomAnd64 o) := ⟨Bool.noConfusion, .inr (.inl rfl)⟩
theorem Shape.satomOr64 (o : OpAt) : Shape.Statement (.satomOr64 o) := ⟨Bool.noConfusion, .inr (.inl rfl)⟩
theorem Shape.satomXor64 (o : OpAt) : Shape.Statement (.satomXor64 o) := ⟨Bool.noConfusion, .inr (.inl rfl)⟩
theorem Shape.satomMin64 (o : OpAt) : Shape.Statement (.satomMin64 o) := ⟨Bool.noConfusion, .inr (.inl rfl)⟩
theorem Shape.satomMax64 (o : OpAt) : Shape.Statement (.satomMax64 o) := ⟨Bool.noConfusion, .inr (.inl rfl)⟩
theorem Shape.satomMinu64 (o : OpAt) : Shape.Statement (.satomMinu64 o) := ⟨Bool.noConfusion, .inr (.inl rfl)⟩
theorem Shape.satomMaxu64 (o : OpAt) : Shape.Statement (.satomMaxu64 o) := ⟨Bool.noConfusion, .inr (.inl rfl)⟩
theorem Shape.satomXchg32 (o : OpAt) : Shape.Statement (.satomXchg32 o) := ⟨Bool.noConfusion, .inr (.inl rfl)⟩
theorem Shape.satomCas32 (o : OpAt) : Shape.Statement (.satomCas32 o) := ⟨Bool.noConfusion, .inr (.inl rfl)⟩
theorem Shape.satomFadd32 (o : OpAt) : Shape.Statement (.satomFadd32 o) := ⟨Bool.noConfusion, .inr (.inl rfl)⟩
theorem Shape.satomIncw32 (o : OpAt) : Shape.Statement (.satomIncw32 o) := ⟨Bool.noConfusion, .inr (.inl rfl)⟩
theorem Shape.satomBfadd32 (o : OpAt) : Shape.Statement (.satomBfadd32 o) := ⟨Bool.noConfusion, .inr (.inl rfl)⟩
theorem Shape.mfsr (o : OpDN) : Shape.Statement (.mfsr o) := ⟨Bool.noConfusion, .inr (.inl rfl)⟩
theorem Shape.mtsr (o : OpNA) : Shape.Statement (.mtsr o) := ⟨Bool.noConfusion, .inr (.inl rfl)⟩
theorem Shape.brk (o : OpN) : Shape.Statement (.brk o) := ⟨Bool.noConfusion, .inr (.inl rfl)⟩
theorem Shape.satomXchg64 (o : OpAt) : Shape.Statement (.satomXchg64 o) := ⟨Bool.noConfusion, .inr (.inl rfl)⟩
theorem Shape.satomCas64 (o : OpAt) : Shape.Statement (.satomCas64 o) := ⟨Bool.noConfusion, .inr (.inl rfl)⟩
theorem Shape.satomIncw64 (o : OpAt) : Shape.Statement (.satomIncw64 o) := ⟨Bool.noConfusion, .inr (.inl rfl)⟩
theorem Shape.satomBfadd64 (o : OpAt) : Shape.Statement (.satomBfadd64 o) := ⟨Bool.noConfusion, .inr (.inl rfl)⟩
theorem Shape.halt (o : OpZ) : Shape.Statement (.halt o) := ⟨Bool.noConfusion, .inr (.inl rfl)⟩
theorem Shape.nop (o : OpZ) : Shape.Statement (.nop o) := ⟨Bool.noConfusion, .inr (.inl rfl)⟩
theorem Shape.tshape (o : OpDA) : Shape.Statement (.tshape o) := ⟨Bool.noConfusion, .inr (.inl rfl)⟩
theorem Shape.tld (o : OpDAB) : Shape.Statement (.tld o) := ⟨Bool.noConfusion, .inr (.inl rfl)⟩
theorem Shape.tst (o : OpDAB) : Shape.Statement (.tst o) := ⟨Bool.noConfusion, .inr (.inl rfl)⟩
theorem Shape.tgath (o : OpDAB) : Shape.Statement (.tgath o) := ⟨Bool.noConfusion, .inr (.inl rfl)⟩
theorem Shape.tscat (o : OpDAB) : Shape.Statement (.tscat o) := ⟨Bool.noConfusion, .inr (.inl rfl)⟩
theorem Shape.tred (o : OpRed) : Shape.Statement (.tred o) := ⟨Bool.noConfusion, .inr (.inl rfl)⟩
theorem Shape.twait (o : OpAB) : Shape.Statement (.twait o) := ⟨Bool.noConfusion, .inr (.inl rfl)⟩
theorem Shape.tgive (o : OpAB) : Shape.Statement (.tgive o) := ⟨Bool.noConfusion, .inr (.inl rfl)⟩
theorem Shape.ovload (o : OpDAB) : Shape.Statement (.ovload o) := ⟨Bool.noConfusion, .inr (.inl rfl)⟩
theorem Shape.wloadImg (o : OpAB) : Shape.Statement (.wloadImg o) := ⟨Bool.noConfusion, .inr (.inl rfl)⟩
theorem Shape.wloadTile (o : OpAB) : Shape.Statement (.wloadTile o) := ⟨Bool.noConfusion, .inr (.inl rfl)⟩
theorem Shape.gang (o : OpA) : Shape.Statement (.gang o) := ⟨Bool.noConfusion, .inr (.inl rfl)⟩
theorem Shape.mma (o : OpABX) : Shape.Statement (.mma o) := ⟨Bool.noConfusion, .inr (.inl rfl)⟩
theorem Shape.mxpop (o : OpABX) : Shape.Statement (.mxpop o) := ⟨Bool.noConfusion, .inr (.inl rfl)⟩
theorem Shape.mdist (o : OpABX) : Shape.Statement (.mdist o) := ⟨Bool.noConfusion, .inr (.inl rfl)⟩
theorem Shape.msmax (o : OpAB) : Shape.Statement (.msmax o) := ⟨Bool.noConfusion, .inr (.inl rfl)⟩
theorem Shape.mnorm (o : OpAB) : Shape.Statement (.mnorm o) := ⟨Bool.noConfusion, .inr (.inl rfl)⟩
theorem Shape.mmerge (o : OpAB) : Shape.Statement (.mmerge o) := ⟨Bool.noConfusion, .inr (.inl rfl)⟩
theorem Shape.mdrain (o : OpDABX) : Shape.Statement (.mdrain o) := ⟨Bool.noConfusion, .inr (.inl rfl)⟩
theorem Shape.mzeroAcq (o : OpD) : Shape.Statement (.mzeroAcq o) := ⟨Bool.noConfusion, .inr (.inl rfl)⟩
theorem Shape.mzeroClr (o : OpD) : Shape.Statement (.mzeroClr o) := ⟨Bool.noConfusion, .inr (.inl rfl)⟩
theorem Shape.mzeroRel (o : OpD) : Shape.Statement (.mzeroRel o) := ⟨Bool.noConfusion, .inr (.inl rfl)⟩
theorem Shape.barrive (o : OpBar) : Shape.Statement (.barrive o) := ⟨Bool.noConfusion, .inr (.inl rfl)⟩
theorem Shape.bwait (o : OpDA) : Shape.Statement (.bwait o) := ⟨Bool.noConfusion, .inr (.inl rfl)⟩
theorem Shape.btest (o : OpDA) : Shape.Statement (.btest o) := ⟨Bool.noConfusion, .inr (.inl rfl)⟩
theorem Shape.attach (o : OpD) : Shape.Statement (.attach o) := ⟨Bool.noConfusion, .inr (.inl rfl)⟩
theorem Shape.detach (o : OpZ) : Shape.Statement (.detach o) := ⟨Bool.noConfusion, .inr (.inl rfl)⟩
theorem Shape.claim (o : OpDA) : Shape.Statement (.claim o) := ⟨Bool.noConfusion, .inr (.inl rfl)⟩
theorem Shape.release (o : OpDA) : Shape.Statement (.release o) := ⟨Bool.noConfusion, .inr (.inl rfl)⟩
theorem Shape.yield (o : OpZ) : Shape.Statement (.yield o) := ⟨Bool.noConfusion, .inr (.inl rfl)⟩
theorem Shape.wcancel (o : OpLev) : Shape.Statement (.wcancel o) := ⟨Bool.noConfusion, .inr (.inl rfl)⟩
theorem Shape.wdone (o : OpLev) : Shape.Statement (.wdone o) := ⟨Bool.noConfusion, .inr (.inl rfl)⟩
theorem Shape.sqadmit (o : OpDAB) : Shape.Statement (.sqadmit o) := ⟨Bool.noConfusion, .inr (.inl rfl)⟩
theorem Shape.sqnext (o : OpDA) : Shape.Statement (.sqnext o) := ⟨Bool.noConfusion, .inr (.inl rfl)⟩
theorem Shape.sqret (o : OpDAB) : Shape.Statement (.sqret o) := ⟨Bool.noConfusion, .inr (.inl rfl)⟩
theorem Shape.pgalloc (o : OpDA) : Shape.Statement (.pgalloc o) := ⟨Bool.noConfusion, .inr (.inl rfl)⟩
theorem Shape.pgref (o : OpDA) : Shape.Statement (.pgref o) := ⟨Bool.noConfusion, .inr (.inl rfl)⟩
theorem Shape.pgdrop (o : OpDA) : Shape.Statement (.pgdrop o) := ⟨Bool.noConfusion, .inr (.inl rfl)⟩
theorem Shape.pgfork (o : OpDA) : Shape.Statement (.pgfork o) := ⟨Bool.noConfusion, .inr (.inl rfl)⟩
theorem Shape.pgmove (o : OpDAB) : Shape.Statement (.pgmove o) := ⟨Bool.noConfusion, .inr (.inl rfl)⟩
theorem Shape.pgsend (o : OpDAB) : Shape.Statement (.pgsend o) := ⟨Bool.noConfusion, .inr (.inl rfl)⟩
theorem Shape.sieveArm (o : OpDA) : Shape.Statement (.sieveArm o) := ⟨Bool.noConfusion, .inr (.inl rfl)⟩
theorem Shape.sieveRead (o : OpDA) : Shape.Statement (.sieveRead o) := ⟨Bool.noConfusion, .inr (.inl rfl)⟩
theorem Shape.sieveDisarm (o : OpDA) : Shape.Statement (.sieveDisarm o) := ⟨Bool.noConfusion, .inr (.inl rfl)⟩
theorem Shape.sampleDraw (o : OpDAB) : Shape.Statement (.sampleDraw o) := ⟨Bool.noConfusion, .inr (.inl rfl)⟩
theorem Shape.sampleVfy (o : OpDAB) : Shape.Statement (.sampleVfy o) := ⟨Bool.noConfusion, .inr (.inl rfl)⟩
theorem Shape.iadd (o : LInt) : Shape.Statement (.iadd o) := ⟨Bool.noConfusion, .inr (.inr rfl)⟩
theorem Shape.isub (o : LInt) : Shape.Statement (.isub o) := ⟨Bool.noConfusion, .inr (.inr rfl)⟩
theorem Shape.imul (o : LInt) : Shape.Statement (.imul o) := ⟨Bool.noConfusion, .inr (.inr rfl)⟩
theorem Shape.imulh (o : LInt) : Shape.Statement (.imulh o) := ⟨Bool.noConfusion, .inr (.inr rfl)⟩
theorem Shape.imad (o : LMad) : Shape.Statement (.imad o) := ⟨Bool.noConfusion, .inr (.inr rfl)⟩
theorem Shape.imin (o : LInt) : Shape.Statement (.imin o) := ⟨Bool.noConfusion, .inr (.inr rfl)⟩
theorem Shape.imax (o : LInt) : Shape.Statement (.imax o) := ⟨Bool.noConfusion, .inr (.inr rfl)⟩
theorem Shape.iand (o : LInt) : Shape.Statement (.iand o) := ⟨Bool.noConfusion, .inr (.inr rfl)⟩
theorem Shape.ior (o : LInt) : Shape.Statement (.ior o) := ⟨Bool.noConfusion, .inr (.inr rfl)⟩
theorem Shape.ixor (o : LInt) : Shape.Statement (.ixor o) := ⟨Bool.noConfusion, .inr (.inr rfl)⟩
theorem Shape.ishl (o : LInt) : Shape.Statement (.ishl o) := ⟨Bool.noConfusion, .inr (.inr rfl)⟩
theorem Shape.ishr (o : LInt) : Shape.Statement (.ishr o) := ⟨Bool.noConfusion, .inr (.inr rfl)⟩
theorem Shape.isar (o : LInt) : Shape.Statement (.isar o) := ⟨Bool.noConfusion, .inr (.inr rfl)⟩
theorem Shape.ipop (o : LCnt) : Shape.Statement (.ipop o) := ⟨Bool.noConfusion, .inr (.inr rfl)⟩
theorem Shape.iclz (o : LCnt) : Shape.Statement (.iclz o) := ⟨Bool.noConfusion, .inr (.inr rfl)⟩
theorem Shape.ibfe (o : LBfe) : Shape.Statement (.ibfe o) := ⟨Bool.noConfusion, .inr (.inr rfl)⟩
theorem Shape.ibfi (o : LBfi) : Shape.Statement (.ibfi o) := ⟨Bool.noConfusion, .inr (.inr rfl)⟩
theorem Shape.fadd (o : LFlt) : Shape.Statement (.fadd o) := ⟨Bool.noConfusion, .inr (.inr rfl)⟩
theorem Shape.fsub (o : LFlt) : Shape.Statement (.fsub o) := ⟨Bool.noConfusion, .inr (.inr rfl)⟩
theorem Shape.fmul (o : LFlt) : Shape.Statement (.fmul o) := ⟨Bool.noConfusion, .inr (.inr rfl)⟩
theorem Shape.ffma (o : LFma) : Shape.Statement (.ffma o) := ⟨Bool.noConfusion, .inr (.inr rfl)⟩
theorem Shape.fmin (o : LFmm) : Shape.Statement (.fmin o) := ⟨Bool.noConfusion, .inr (.inr rfl)⟩
theorem Shape.fmax (o : LFmm) : Shape.Statement (.fmax o) := ⟨Bool.noConfusion, .inr (.inr rfl)⟩
theorem Shape.frnd (o : LFrnd) : Shape.Statement (.frnd o) := ⟨Bool.noConfusion, .inr (.inr rfl)⟩
theorem Shape.exp2 (o : LUn) : Shape.Statement (.exp2 o) := ⟨Bool.noConfusion, .inr (.inr rfl)⟩
theorem Shape.log2 (o : LUn) : Shape.Statement (.log2 o) := ⟨Bool.noConfusion, .inr (.inr rfl)⟩
theorem Shape.rcp (o : LUn) : Shape.Statement (.rcp o) := ⟨Bool.noConfusion, .inr (.inr rfl)⟩
theorem Shape.rsq (o : LUn) : Shape.Statement (.rsq o) := ⟨Bool.noConfusion, .inr (.inr rfl)⟩
theorem Shape.sqrt (o : LUn) : Shape.Statement (.sqrt o) := ⟨Bool.noConfusion, .inr (.inr rfl)⟩
theorem Shape.tanh (o : LUn) : Shape.Statement (.tanh o) := ⟨Bool.noConfusion, .inr (.inr rfl)⟩
theorem Shape.cvt (o : LCvt) : Shape.Statement (.cvt o) := ⟨Bool.noConfusion, .inr (.inr rfl)⟩
theorem Shape.pack (o : LPack) : Shape.Statement (.pack o) := ⟨Bool.noConfusion, .inr (.inr rfl)⟩
theorem Shape.unpack (o : LPack) : Shape.Statement (.unpack o) := ⟨Bool.noConfusion, .inr (.inr rfl)⟩
theorem Shape.icmp (o : LICmp) : Shape.Statement (.icmp o) := ⟨Bool.noConfusion, .inr (.inr rfl)⟩
theorem Shape.fcmp (o : LFCmp) : Shape.Statement (.fcmp o) := ⟨Bool.noConfusion, .inr (.inr rfl)⟩
theorem Shape.pand (o : LP3) : Shape.Statement (.pand o) := ⟨Bool.noConfusion, .inr (.inr rfl)⟩
theorem Shape.por (o : LP3) : Shape.Statement (.por o) := ⟨Bool.noConfusion, .inr (.inr rfl)⟩
theorem Shape.pxor (o : LP3) : Shape.Statement (.pxor o) := ⟨Bool.noConfusion, .inr (.inr rfl)⟩
theorem Shape.pnot (o : LP2) : Shape.Statement (.pnot o) := ⟨Bool.noConfusion, .inr (.inr rfl)⟩
theorem Shape.pmov (o : LPMov) : Shape.Statement (.pmov o) := ⟨Bool.noConfusion, .inr (.inr rfl)⟩
theorem Shape.mov (o : LUn) : Shape.Statement (.mov o) := ⟨Bool.noConfusion, .inr (.inr rfl)⟩
theorem Shape.movi (o : LMovi) : Shape.Statement (.movi o) := ⟨Bool.noConfusion, .inr (.inr rfl)⟩
theorem Shape.laneSel (o : LSel) : Shape.Statement (.laneSel o) := ⟨Bool.noConfusion, .inr (.inr rfl)⟩
theorem Shape.shfl (o : LShfl) : Shape.Statement (.shfl o) := ⟨Bool.noConfusion, .inr (.inr rfl)⟩
theorem Shape.vote (o : LVote) : Shape.Statement (.vote o) := ⟨Bool.noConfusion, .inr (.inr rfl)⟩
theorem Shape.xput (o : LXput) : Shape.Statement (.xput o) := ⟨Bool.noConfusion, .inr (.inr rfl)⟩
theorem Shape.reord (o : LReord) : Shape.Statement (.reord o) := ⟨Bool.noConfusion, .inr (.inr rfl)⟩
theorem Shape.ld (o : LLd) : Shape.Statement (.ld o) := ⟨Bool.noConfusion, .inr (.inr rfl)⟩
theorem Shape.st (o : LSt) : Shape.Statement (.st o) := ⟨Bool.noConfusion, .inr (.inr rfl)⟩
theorem Shape.pref (o : LPref) : Shape.Statement (.pref o) := ⟨Bool.noConfusion, .inr (.inr rfl)⟩
theorem Shape.atom (o : LAtom) : Shape.Statement (.atom o) := ⟨Bool.noConfusion, .inr (.inr rfl)⟩
theorem Shape.fence (o : LFence) : Shape.Statement (.fence o) := ⟨Bool.noConfusion, .inr (.inr rfl)⟩
theorem Shape.braDivergent (o : LBraD) : Shape.Statement (.braDivergent o) := ⟨Bool.noConfusion, .inr (.inr rfl)⟩
theorem Shape.braLeave (o : LBraL) : Shape.Statement (.braLeave o) := ⟨Bool.noConfusion, .inr (.inr rfl)⟩
theorem Shape.braJump (o : LOff) : Shape.Statement (.braJump o) := ⟨Bool.noConfusion, .inr (.inr rfl)⟩
theorem Shape.join (o : LOff) : Shape.Statement (.join o) := ⟨Bool.noConfusion, .inr (.inr rfl)⟩
theorem Shape.regang (o : OpZ) : Shape.Statement (.regang o) := ⟨Bool.noConfusion, .inr (.inr rfl)⟩
theorem Shape.lend (o : OpZ) : Shape.Statement (.lend o) := ⟨Bool.noConfusion, .inr (.inr rfl)⟩
theorem Shape.ltrap (o : LTrap) : Shape.Statement (.ltrap o) := ⟨Bool.noConfusion, .inr (.inr rfl)⟩
theorem Shape.resultDelivery (c : CrewRef) (k : Nat) : Shape.Statement (.resultDelivery c k) := ⟨fun _ => rfl, .inl rfl⟩
theorem Shape.deferredMemerr (c : CrewRef) (st : StreamId) : Shape.Statement (.deferredMemerr c st) := ⟨fun _ => rfl, .inl rfl⟩
theorem Shape.deferredTileFault (c : CrewRef) : Shape.Statement (.deferredTileFault c) := ⟨fun _ => rfl, .inl rfl⟩
theorem Shape.copyFaultTrap (c : CrewRef) : Shape.Statement (.copyFaultTrap c) := ⟨fun _ => rfl, .inl rfl⟩
theorem Shape.claimGrant (core : Nat) : Shape.Statement (.claimGrant core) := ⟨fun _ => rfl, .inl rfl⟩
theorem Shape.claimDeadlock (core : Nat) : Shape.Statement (.claimDeadlock core) := ⟨fun _ => rfl, .inl rfl⟩
theorem Shape.growCrew (core : Nat) : Shape.Statement (.growCrew core) := ⟨fun _ => rfl, .inl rfl⟩
theorem Shape.shrinkRequest (core : Nat) : Shape.Statement (.shrinkRequest core) := ⟨fun _ => rfl, .inl rfl⟩
theorem Shape.shrinkGraceExpiry (core : Nat) : Shape.Statement (.shrinkGraceExpiry core) := ⟨fun _ => rfl, .inl rfl⟩
theorem Shape.preempt (block : Nat) : Shape.Statement (.preempt block) := ⟨fun _ => rfl, .inl rfl⟩
theorem Shape.blockResume (block : Nat) : Shape.Statement (.blockResume block) := ⟨fun _ => rfl, .inl rfl⟩
theorem Shape.placeBlock : Shape.Statement .placeBlock := ⟨fun _ => rfl, .inl rfl⟩
theorem Shape.issueStarvation (c : CrewRef) (lane : Bool) : Shape.Statement (.issueStarvation c lane) := ⟨fun _ => rfl, .inl rfl⟩
theorem Shape.cancelDone (unit : Nat) : Shape.Statement (.cancelDone unit) := ⟨fun _ => rfl, .inl rfl⟩
theorem Shape.mosStep (core : Nat) (k : Nat) : Shape.Statement (.mosStep core k) := ⟨fun _ => rfl, .inl rfl⟩
theorem Shape.gangTimeout (core : Nat) (k : Nat) : Shape.Statement (.gangTimeout core k) := ⟨fun _ => rfl, .inl rfl⟩
theorem Shape.copyComplete (core : Nat) (k : Nat) : Shape.Statement (.copyComplete core k) := ⟨fun _ => rfl, .inl rfl⟩
theorem Shape.copyAbandon (core : Nat) (k : Nat) (why : CopyFault) : Shape.Statement (.copyAbandon core k why) := ⟨fun _ => rfl, .inl rfl⟩
theorem Shape.slowPath (core : Nat) (k : Nat) (ok : Bool) : Shape.Statement (.slowPath core k ok) := ⟨fun _ => rfl, .inl rfl⟩
theorem Shape.overlayArrived (st : StoreRef) (slot : Nat) : Shape.Statement (.overlayArrived st slot) := ⟨fun _ => rfl, .inl rfl⟩
theorem Shape.migrationComplete (k : Nat) : Shape.Statement (.migrationComplete k) := ⟨fun _ => rfl, .inl rfl⟩
theorem Shape.ackgenUpdate (asid : Nat) : Shape.Statement (.ackgenUpdate asid) := ⟨fun _ => rfl, .inl rfl⟩
theorem Shape.bellPost : Shape.Statement .bellPost := ⟨fun _ => rfl, .inl rfl⟩
theorem Shape.pgsendAck (ctx : Nat) (code : Nat) : Shape.Statement (.pgsendAck ctx code) := ⟨fun _ => rfl, .inl rfl⟩
theorem Shape.ftmapRequest : Shape.Statement .ftmapRequest := ⟨fun _ => rfl, .inl rfl⟩
theorem Shape.lfailWrite (c : CrewRef) (v : W64) : Shape.Statement (.lfailWrite c v) := ⟨fun _ => rfl, .inl rfl⟩
theorem Shape.nopPacket (q : Nat) (len : Nat) : Shape.Statement (.nopPacket q len) := ⟨fun _ => rfl, .inl rfl⟩
theorem Shape.jobPacket (q : Nat) (o : UnitPkt) : Shape.Statement (.jobPacket q o) := ⟨fun _ => rfl, .inl rfl⟩
theorem Shape.phasePacket (q : Nat) (o : UnitPkt) : Shape.Statement (.phasePacket q o) := ⟨fun _ => rfl, .inl rfl⟩
theorem Shape.graphPacket (q : Nat) (o : UnitPkt) : Shape.Statement (.graphPacket q o) := ⟨fun _ => rfl, .inl rfl⟩
theorem Shape.launchPacket (q : Nat) (addr : W64) : Shape.Statement (.launchPacket q addr) := ⟨fun _ => rfl, .inl rfl⟩
theorem Shape.predSkip (q : Nat) (o : PredPkt) : Shape.Statement (.predSkip q o) := ⟨fun _ => rfl, .inl rfl⟩
theorem Shape.predWait (q : Nat) (o : PredPkt) : Shape.Statement (.predWait q o) := ⟨fun _ => rfl, .inl rfl⟩
theorem Shape.predTimeout (q : Nat) : Shape.Statement (.predTimeout q) := ⟨fun _ => rfl, .inl rfl⟩
theorem Shape.loopPacket (q : Nat) (count : W32) (body : W32) : Shape.Statement (.loopPacket q count body) := ⟨fun _ => rfl, .inl rfl⟩
theorem Shape.indPacket (q : Nat) (len : W32) (addr : W64) : Shape.Statement (.indPacket q len addr) := ⟨fun _ => rfl, .inl rfl⟩
theorem Shape.ffence (q : Nat) : Shape.Statement (.ffence q) := ⟨fun _ => rfl, .inl rfl⟩
theorem Shape.sread (q : Nat) (o : SreadPkt) : Shape.Statement (.sread q o) := ⟨fun _ => rfl, .inl rfl⟩
theorem Shape.illFormedPacket (q : Nat) : Shape.Statement (.illFormedPacket q) := ⟨fun _ => rfl, .inl rfl⟩
theorem Shape.sreadCompletion (drive : Nat) (cid : Nat) (status : BitVec 16) : Shape.Statement (.sreadCompletion drive cid status) := ⟨fun _ => rfl, .inl rfl⟩
theorem Shape.sreadTimeout (drive : Nat) (cid : Nat) : Shape.Statement (.sreadTimeout drive cid) := ⟨fun _ => rfl, .inl rfl⟩
theorem Shape.qtailWrite (q : Nat) (w : W32) : Shape.Statement (.qtailWrite q w) := ⟨fun _ => rfl, .inl rfl⟩
theorem Shape.qcfgWrite (q : Nat) (v : W32) : Shape.Statement (.qcfgWrite q v) := ⟨fun _ => rfl, .inl rfl⟩
theorem Shape.qstatResume (q : Nat) : Shape.Statement (.qstatResume q) := ⟨fun _ => rfl, .inl rfl⟩
theorem Shape.qstatFlagClear (q : Nat) (tailerr : Bool) (ovf : Bool) : Shape.Statement (.qstatFlagClear q tailerr ovf) := ⟨fun _ => rfl, .inl rfl⟩
theorem Shape.qrootWrite (q : Nat) (part : RegPart) (v : W64) : Shape.Statement (.qrootWrite q part v) := ⟨fun _ => rfl, .inl rfl⟩
theorem Shape.qgenWrite (q : Nat) : Shape.Statement (.qgenWrite q) := ⟨fun _ => rfl, .inl rfl⟩
theorem Shape.ntheadWrite (w : W32) : Shape.Statement (.ntheadWrite w) := ⟨fun _ => rfl, .inl rfl⟩
theorem Shape.ntcfgWrite (v : W32) : Shape.Statement (.ntcfgWrite v) := ⟨fun _ => rfl, .inl rfl⟩
theorem Shape.registerWrite (off : Nat) (width : Nat) (v : W64) : Shape.Statement (.registerWrite off width v) := ⟨fun _ => rfl, .inl rfl⟩
theorem Shape.hostdrv : Shape.Statement .hostdrv := ⟨fun _ => rfl, .inl rfl⟩
theorem Shape.step : Shape.Statement .step := ⟨fun _ => rfl, .inl rfl⟩
theorem Shape.restart (images : RestartImages) : Shape.Statement (.restart images) := ⟨fun _ => rfl, .inl rfl⟩
theorem Shape.loadimg (img : ImageCheck) : Shape.Statement (.loadimg img) := ⟨fun _ => rfl, .inl rfl⟩
theorem Shape.resume : Shape.Statement .resume := ⟨fun _ => rfl, .inl rfl⟩
theorem Shape.teston : Shape.Statement .teston := ⟨fun _ => rfl, .inl rfl⟩
theorem Shape.testoff : Shape.Statement .testoff := ⟨fun _ => rfl, .inl rfl⟩
theorem Shape.watchdog : Shape.Statement .watchdog := ⟨fun _ => rfl, .inl rfl⟩
theorem Shape.powerUp (copy0 : ImageCheck) (copy1 : ImageCheck) : Shape.Statement (.powerUp copy0 copy1) := ⟨fun _ => rfl, .inl rfl⟩
theorem Shape.attestChiplet (chiplet : Nat) (r : Attest) : Shape.Statement (.attestChiplet chiplet r) := ⟨fun _ => rfl, .inl rfl⟩
theorem Shape.spdmTimeout (chiplet : Nat) : Shape.Statement (.spdmTimeout chiplet) := ⟨fun _ => rfl, .inl rfl⟩
theorem Shape.declareService : Shape.Statement .declareService := ⟨fun _ => rfl, .inl rfl⟩
theorem Shape.tenantRequest (viaSession : Bool) (r : TenantReq) : Shape.Statement (.tenantRequest viaSession r) := ⟨fun _ => rfl, .inl rfl⟩
theorem Shape.worldChange (g : Nat) (secure : Bool) : Shape.Statement (.worldChange g secure) := ⟨fun _ => rfl, .inl rfl⟩
theorem Shape.shutterFlitTimeout (link : Nat) : Shape.Statement (.shutterFlitTimeout link) := ⟨fun _ => rfl, .inl rfl⟩
theorem Shape.keySwitch (link : Nat) (k : KeyStep) : Shape.Statement (.keySwitch link k) := ⟨fun _ => rfl, .inl rfl⟩
theorem Shape.flitCrcFailure (link : Nat) (seq : Nat) : Shape.Statement (.flitCrcFailure link seq) := ⟨fun _ => rfl, .inl rfl⟩
theorem Shape.tamperEvent (link : Nat) : Shape.Statement (.tamperEvent link) := ⟨fun _ => rfl, .inl rfl⟩
theorem Shape.singleDieReset (chiplet : Nat) (r : Attest) : Shape.Statement (.singleDieReset chiplet r) := ⟨fun _ => rfl, .inl rfl⟩
theorem Shape.peerSession (port : Nat) (endpoint : Nat) (sameWorld : Bool) (policyOk : Bool) (map : SessionTerms) : Shape.Statement (.peerSession port endpoint sameWorld policyOk map) := ⟨fun _ => rfl, .inl rfl⟩
theorem Shape.peerAccess (port : Nat) (endpoint : Nat) (a : ExtAccess) : Shape.Statement (.peerAccess port endpoint a) := ⟨fun _ => rfl, .inl rfl⟩
theorem Shape.endpointClose (port : Nat) (endpoint : Nat) : Shape.Statement (.endpointClose port endpoint) := ⟨fun _ => rfl, .inl rfl⟩
theorem Shape.peerAccessTimeout (k : Nat) : Shape.Statement (.peerAccessTimeout k) := ⟨fun _ => rfl, .inl rfl⟩
theorem Shape.hostMemoryAccess (a : ExtAccess) : Shape.Statement (.hostMemoryAccess a) := ⟨fun _ => rfl, .inl rfl⟩
theorem Shape.softErrorCorrected (chiplet : Nat) : Shape.Statement (.softErrorCorrected chiplet) := ⟨fun _ => rfl, .inl rfl⟩
theorem Shape.sramUncorrectable (loc : SramLoc) : Shape.Statement (.sramUncorrectable loc) := ⟨fun _ => rfl, .inl rfl⟩
theorem Shape.coreRetire (core : Nat) : Shape.Statement (.coreRetire core) := ⟨fun _ => rfl, .inl rfl⟩
theorem Shape.thermalThrottle (chiplet : Nat) (raise : Bool) (voltage : Bool) : Shape.Statement (.thermalThrottle chiplet raise voltage) := ⟨fun _ => rfl, .inl rfl⟩
theorem Shape.criticalTemperature (chiplet : Nat) : Shape.Statement (.criticalTemperature chiplet) := ⟨fun _ => rfl, .inl rfl⟩
theorem Shape.illegalInstruction : Shape.Statement .illegalInstruction := ⟨fun _ => rfl, .inl rfl⟩
theorem Shape.instructionFetchFault : Shape.Statement .instructionFetchFault := ⟨fun _ => rfl, .inl rfl⟩
theorem Shape.unlistedMailboxCommand (cmd : BitVec 4) : Shape.Statement (.unlistedMailboxCommand cmd) := ⟨fun _ => rfl, .inl rfl⟩
theorem Shape.powerOff : Shape.Statement .powerOff := ⟨fun _ => rfl, .inl rfl⟩
theorem Shape.packageReset : Shape.Statement .packageReset := ⟨fun _ => rfl, .inl rfl⟩
theorem Shape.inboundHandoff (h : Handoff) : Shape.Statement (.inboundHandoff h) := ⟨fun _ => rfl, .inl rfl⟩
theorem Shape.packetAuthenticationFailure (port : Nat) (endpoint : Nat) : Shape.Statement (.packetAuthenticationFailure port endpoint) := ⟨fun _ => rfl, .inl rfl⟩
theorem Shape.flitGroupAccepted (link : Nat) (seq : Nat) (tagOk : Bool) : Shape.Statement (.flitGroupAccepted link seq tagOk) := ⟨fun _ => rfl, .inl rfl⟩
theorem Shape.pageMigrationEngineMove (ctx : Nat) (page : Nat) (tier : Nat) : Shape.Statement (.pageMigrationEngineMove ctx page tier) := ⟨fun _ => rfl, .inl rfl⟩
theorem Shape.controlCrewStart (o : CtlStart) : Shape.Statement (.controlCrewStart o) := ⟨fun _ => rfl, .inl rfl⟩

end Sys2Proof.Laws
end

