-- ==== Sys2Proof/Tests/Slice0.lean ====
section
/-!
SUPPORT. Tests. Every expected word and value is the spec's own (an encoding example, a worked example or a table), named in
the comment before it, or follows by hand from the rule named there. The last part shows, for every statement that has hypotheses,
concrete states and operands that meet them.
-/

namespace Sys2Proof.Tests

open Sys2Proof Sys2Proof.Machine

/-! ### Ill-formed terms: one for each check -/

/-- No guard. -/
def g0 : Guard := ⟨false, false, 0⟩

-- R38: rd above 96, a source above 123, and the register runs.
theorem test_wf_dest : (Instr.add ⟨false, 97, 1, 2⟩).wf = false ∧ (Instr.li ⟨false, 127, 0⟩).wf = false ∧
    (Instr.add ⟨false, 96, 1, 2⟩).wf = true := by decide
theorem test_wf_src : (Instr.add ⟨false, 1, 124, 2⟩).wf = false ∧ (Instr.cmp ⟨false, .eq, 0, 1, 127⟩).wf = false ∧
    (Instr.add ⟨false, 1, 123, 2⟩).wf = true := by decide
theorem test_wf_runs : (Instr.ljoin ⟨false, 93⟩).wf = false ∧ (Instr.ljoin ⟨false, 92⟩).wf = true ∧
    (Instr.loop ⟨false, 96, 0⟩).wf = false ∧ (Instr.satomCas32 ⟨false, 1, 2, 95, .cw⟩).wf = false ∧
    (Instr.tld ⟨false, 96, 2, 3⟩).wf = false ∧ (Instr.tld ⟨false, 1, 2, 94⟩).wf = false ∧
    (Instr.tred ⟨false, 1, 2, 94, .add⟩).wf = false := by decide
-- R42: N and P without G.
theorem test_wf_guard : (Instr.mov ⟨false, ⟨false, true, 0⟩, 1, .reg 2⟩).wf = false ∧
    (Instr.mov ⟨false, ⟨false, false, 3⟩, 1, .reg 2⟩).wf = false ∧ (Instr.mov ⟨false, ⟨true, true, 3⟩, 1, .reg 2⟩).wf = true := by decide
-- R43: the pairs of 64-bit operands are even; R193: .sat where the entry does not allow it.
theorem test_wf_pairs : (Instr.iadd ⟨false, g0, .u64, false, 3, .reg 2, .reg 4⟩).wf = false ∧
    (Instr.iadd ⟨false, g0, .u64, false, 2, .reg 3, .reg 4⟩).wf = false ∧
    (Instr.iadd ⟨false, g0, .u64, false, 2, .reg 4, .reg 5⟩).wf = false ∧
    (Instr.imad ⟨false, g0, .i64, false, 2, .reg 4, .reg 6, 7⟩).wf = false ∧
    (Instr.ipop ⟨false, g0, .u64, 1, .reg 3⟩).wf = false ∧ (Instr.icmp ⟨false, g0, .lt, .i64, 0, .reg 3, .reg 4⟩).wf = false ∧
    (Instr.ior ⟨false, g0, .u32, true, 3, .reg 2, .reg 4⟩).wf = false := by decide
-- R195: len is at least 1 and pos + len at most w.
theorem test_wf_fields : (Instr.ibfe ⟨false, g0, .u32, 1, .reg 2, 5, 0⟩).wf = false ∧
    (Instr.ibfe ⟨false, g0, .u32, 1, .reg 2, 25, 8⟩).wf = false ∧ (Instr.ibfi ⟨false, g0, .u64, 2, .reg 4, 5, 0, 8⟩).wf = false ∧
    (Instr.ibfe ⟨false, g0, .u32, 1, .reg 2, 24, 8⟩).wf = true := by decide
-- R202 to R204: FS without a slot, and the packed side of PACK and UNPACK.
theorem test_wf_conversions : (Instr.cvt ⟨false, g0, false, .rn, 1, .reg 2, .f16, .f32, 1⟩).wf = false ∧
    (Instr.pack ⟨false, g0, false, .rn, 1, .reg 2, 3, .f32, .f16, 0⟩).wf = false ∧
    (Instr.unpack ⟨false, g0, false, .rn, 1, .reg 2, 3, .f16, .i32, 0⟩).wf = false := by decide
-- R206: an odd predicate for two elements; R210: a predicate above 15.
theorem test_wf_predicates : (Instr.fcmp ⟨false, g0, .eq, .h2, 3, .reg 1, .reg 2⟩).wf = false ∧
    (Instr.vote ⟨false, g0, .any, 16, 0⟩).wf = false ∧ (Instr.vote ⟨false, g0, .ballot, 16, 0⟩).wf = true := by decide
-- R45, R257, R258, R261: orders, scopes and widths of lane memory instructions.
theorem test_wf_memory : (Instr.ld ⟨false, g0, .b32, false, .plain, .dv, 1, .reg 2, 0⟩).wf = false ∧
    (Instr.ld ⟨false, g0, .b32, false, .rel, .dv, 1, .reg 2, 0⟩).wf = false ∧
    (Instr.ld ⟨false, g0, .b32, true, .plain, .cw, 1, .reg 2, 0⟩).wf = false ∧
    (Instr.ld ⟨false, g0, .b64, false, .plain, .cw, 1, .reg 2, 0⟩).wf = false ∧
    (Instr.ld ⟨false, g0, .b32, false, .plain, .cw, 1, .reg 3, 0⟩).wf = false ∧
    (Instr.st ⟨false, g0, .b32, .acq, .dv, .reg 2, 1, 0⟩).wf = false ∧ (Instr.pref ⟨false, g0, .reg 3, 0⟩).wf = false ∧
    (Instr.atom ⟨false, g0, .add, false, .plain, .cw, 1, .reg 2, 3, 4⟩).wf = false ∧
    (Instr.atom ⟨false, g0, .fadd, true, .plain, .cw, 2, .reg 2, 4, 0⟩).wf = false ∧
    (Instr.atom ⟨false, g0, .add, true, .plain, .cw, 3, .reg 2, 4, 0⟩).wf = false ∧ (Instr.fence ⟨false, .plain, .cw⟩).wf = false := by
  decide
-- R76: join 0xFFFF, and join equal to the target.
theorem test_wf_branches : (Instr.braDivergent ⟨false, g0, 0x20, 0xFFFF⟩).wf = false ∧
    (Instr.braDivergent ⟨false, g0, 0x20, 0x20⟩).wf = false ∧ (Instr.braLeave ⟨false, g0, 0xFFFF⟩).wf = false := by decide

/-! ### Words that the spec writes out -/

/-- A scalar word stands for an instruction, in both directions. -/
def IsWord (w : W32) (i : Instr) : Prop := decodeScalar w = some i ∧ encodeScalar i = some w

/-- The same for the three words of a lane instruction. -/
def AreWords (a b d : W32) (i : Instr) : Prop := decodeLane a b d = some i ∧ encodeLane i = some (a, b, d)

set_option maxRecDepth 100000

-- R188, R190, R191, R192: `SHR s2, s2, 5`, `CMP.ltu q3, s4, s5`, `SEL s7, s1, s2, q3`, `LI s1, 0x4000`, `LIH s1, 0`.
theorem test_words_scalar_alu : IsWord 0x1A040805 (.shrImm ⟨false, 2, 2, 5⟩) ∧ IsWord 0x12461028 (.cmp ⟨false, .ltu, 3, 4, 5⟩) ∧
    IsWord 0x130E0413 (.sel ⟨false, 7, 1, 2, 3⟩) ∧ IsWord 0x1D024000 (.li ⟨false, 1, 0x4000⟩) ∧
    IsWord 0x1E020000 (.lih ⟨false, 1, 0⟩) := by refine ⟨?_, ?_, ?_, ?_, ?_⟩ <;> exact ⟨by decide, by decide⟩
-- R68: `LOOP s5, top`, three words back; 15: `LRUN body, 0xFF` at 0x0180; 14: `LRUN body, 0x01` at 0x0070.
theorem test_words_control : IsWord 0x270BFFFD (.loop ⟨false, 5, 0x1FFFD⟩) ∧ IsWord 0x34FF0180 (.lrun ⟨false, 0xFF, 0x0180⟩) ∧
    IsWord 0x34010070 (.lrun ⟨false, 1, 0x0070⟩) := by refine ⟨?_, ?_, ?_⟩ <;> exact ⟨by decide, by decide⟩
-- R259, R260, 14: `SST.32 [s3 + 8], s2`, `SLD.i32 s5, [s8 - 12]`, `SLD.u32.sw s5, [s0 + 76]`, `SFENCE.dv`; 15: `SATOM.add.32.bk.sw
-- s9, [s12], s30`.
theorem test_words_scalar_memory : IsWord 0x32040C02 (.sst32 ⟨false, 2, 3, 2⟩) ∧ IsWord 0x2E0A23FD (.sldI32 ⟨false, 5, 8, 0x3FD⟩) ∧
    IsWord 0xAA0A0013 (.sldU32 ⟨true, 5, 0, 19⟩) ∧ IsWord 0x2F000003 (.sfence ⟨false, .dv⟩) ∧
    IsWord 0xB81230F1 (.satomAdd32 ⟨true, 9, 12, 30, .bk⟩) := by refine ⟨?_, ?_, ?_, ?_, ?_⟩ <;> exact ⟨by decide, by decide⟩
-- R318 to R320: `TRAP 5`, `BRK 0`, `ERET`, `MFSR s3, 2`, `MTSR 6, s4`.
theorem test_words_traps : IsWord 0x36000005 (.trap ⟨false, 5⟩) ∧ IsWord 0x4F000000 (.brk ⟨false, 0⟩) ∧ IsWord 0x37000000 (.eret ⟨false⟩) ∧
    IsWord 0x4D060002 (.mfsr ⟨false, 3, 2⟩) ∧ IsWord 0x4E001006 (.mtsr ⟨false, 6, 4⟩) := by
  refine ⟨?_, ?_, ?_, ?_, ?_⟩ <;> exact ⟨by decide, by decide⟩
-- 15: the words of the dynamic-groups program, and R110's `WDONE.gph.sw s10, s4`.
theorem test_words_groups : IsWord 0x70101C00 (.claim ⟨false, 8, 7⟩) ∧ IsWord 0x71101C00 (.release ⟨false, 8, 7⟩) ∧
    IsWord 0x6EC00000 (.attach ⟨false, 96⟩) ∧ IsWord 0x6F000000 (.detach ⟨false⟩) ∧ IsWord 0xEB2878CB (.barrive ⟨true, 20, 30, 25, .sum⟩) ∧
    IsWord 0xED2B8000 (.btest ⟨true, 21, 96⟩) ∧ IsWord 0xF4141001 (.wdone ⟨true, 10, 4, .gph⟩) := by
  refine ⟨?_, ?_, ?_, ?_, ?_, ?_, ?_⟩ <;> exact ⟨by decide, by decide⟩
-- R270, R272, R274, R278: `TWAIT sr.zero, s11`, `TWAIT s2, s3`, `TLD s10, s4, s12`, `TGATH s11, s10, s12`, `OVLOAD.sw s6, s2, s3`.
theorem test_words_copies : IsWord 0x5E018058 (.twait ⟨false, 96, 11⟩) ∧ IsWord 0x5E000818 (.twait ⟨false, 2, 3⟩) ∧
    IsWord 0x59141060 (.tld ⟨false, 10, 4, 12⟩) ∧ IsWord 0x5B162860 (.tgath ⟨false, 11, 10, 12⟩) ∧
    IsWord 0xE00C0818 (.ovload ⟨true, 6, 2, 3⟩) := by refine ⟨?_, ?_, ?_, ?_, ?_⟩ <;> exact ⟨by decide, by decide⟩
-- 09 and 15: the matrix instructions.
theorem test_words_matrix : IsWord 0xD8060800 (.tshape ⟨true, 3, 2⟩) ∧ IsWord 0x62002400 (.gang ⟨false, 9⟩) ∧
    IsWord 0x61004701 (.wloadTile ⟨false, 17, 96⟩) ∧ IsWord 0x63001490 (.mma ⟨false, 5, 18, 0⟩) ∧ IsWord 0x6300102A (.mma ⟨false, 4, 5, 2⟩) ∧
    IsWord 0x66004CA0 (.msmax ⟨false, 19, 20⟩) ∧ IsWord 0xE92E54B0 (.mdrain ⟨true, 23, 21, 22, 0⟩) := by
  refine ⟨?_, ?_, ?_, ?_, ?_, ?_, ?_⟩ <;> exact ⟨by decide, by decide⟩
theorem test_words_matrix_2 : IsWord 0xE9122859 (.mdrain ⟨true, 9, 10, 11, 1⟩) ∧ IsWord 0x68004CA0 (.mmerge ⟨false, 19, 20⟩) ∧
    IsWord 0x67006F00 (.mnorm ⟨false, 27, 96⟩) ∧ IsWord 0x64018090 (.mxpop ⟨false, 96, 18, 0⟩) ∧ IsWord 0x65005CC1 (.mdist ⟨false, 23, 24, 1⟩) ∧
    IsWord 0xEA0E0000 (.mzeroAcq ⟨true, 7⟩) := by refine ⟨?_, ?_, ?_, ?_, ?_, ?_⟩ <;> exact ⟨by decide, by decide⟩
-- 06 and 14: the serving instructions.
theorem test_words_serving : IsWord 0xF5045408 (.sqadmit ⟨true, 2, 21, 1⟩) ∧ IsWord 0xF6065400 (.sqnext ⟨true, 3, 21⟩) ∧
    IsWord 0xF7242B00 (.sqret ⟨true, 18, 10, 96⟩) ∧ IsWord 0xFE244400 (.sieveArm ⟨true, 18, 17⟩) ∧ IsWord 0xFE244401 (.sieveRead ⟨true, 18, 17⟩) ∧
    IsWord 0xFF104C50 (.sampleDraw ⟨true, 8, 19, 10⟩) ∧ IsWord 0xFF141028 (.sampleDraw ⟨true, 10, 4, 5⟩) := by
  refine ⟨?_, ?_, ?_, ?_, ?_, ?_, ?_⟩ <;> exact ⟨by decide, by decide⟩
-- R193, R196, R202: `IADD.sat.u32 v4, v2, v3`, `(p3) FADD.rz v10, v2, v5`, `FFMA.h2 v6, v2, v3, v4`, `CVT.sat v5, v1, i8, f32`.
theorem test_words_lane_alu : AreWords 0x0020010C 0x602 0 (.iadd ⟨false, g0, .u32, true, 4, .reg 2, .reg 3⟩) ∧
    AreWords 0x08118281 0xA02 0 (.fadd ⟨false, ⟨true, false, 3⟩, .f32, .rz, 10, .reg 2, .reg 5⟩) ∧
    AreWords 0x08600188 0x00100602 0 (.ffma ⟨false, g0, .h2, .rn, 6, .reg 2, .reg 3, 4⟩) ∧
    AreWords 0x18000160 1 4 (.cvt ⟨false, g0, true, .rn, 5, .reg 1, .i8, .f32, 0⟩) := by
  refine ⟨?_, ?_, ?_, ?_⟩ <;> exact ⟨by decide, by decide⟩
-- R257, R265, 14: `LD.32.acq.bk.sw v8, [v2 + 64]`, `ATOM.incw.32.dv v5, [v2], v9`, `(p1) ATOM.bfadd.32.dv.sw v3, [s1], v1, v5`,
-- `(p2) ATOM.maxu.32.rel.dv v12, [s2], v11`; 15: `REORD.sw v7, v6, 0`.
theorem test_words_lane_memory : AreWords 0xB8000221 0x08000002 0x40 (.ld ⟨true, g0, .b32, false, .acq, .bk, 8, .reg 2, 64⟩) ∧
    AreWords 0xB85080E3 0x80140201 0xC (.atom ⟨true, ⟨true, false, 1⟩, .bfadd, false, .plain, .dv, 3, .const 1, 1, 5⟩) ∧
    AreWords 0x38510323 0x90001602 7 (.atom ⟨false, ⟨true, false, 2⟩, .maxu, false, .rel, .dv, 12, .const 2, 11, 0⟩) ∧
    AreWords 0xB06001C0 6 0 (.reord ⟨true, 7, .reg 6, 0⟩) := by refine ⟨?_, ?_, ?_, ?_⟩ <;> exact ⟨by decide, by decide⟩
-- R52 check 4: a reserved bit that is 1 refuses the word (R190; R68's NOP with a body; R42's P without G).
theorem test_words_refused : decodeScalar 0x12C61028 = none ∧ decodeScalar 0x12461029 = none ∧ decodeScalar 0x37000001 = none ∧
    decodeLane 0x0020810C 0x602 0 = none := by decide

/-! ### A small package -/

/-- The crew that the tests run. -/
def tC : CrewRef := .blk 1 0

/-- Its registers: s1 = 6, s2 = 3, s3 = the start of its scratchpad, s4 = -1, s5 = 7, s6 = 8, s9 = -2^63. -/
def tK : Crew := { Crew.start 5 0x100 4 false 0 with
  s := [(1, 6), (2, 3), (3, 0xFFFFFFFFF0000000), (4, 0xFFFFFFFFFFFFFFFF), (5, 7), (6, 8), (9, 0x8000000000000000)] }

/-- Its block: one member, sixteen block barriers, a scratchpad of eight chunks. -/
def tB : Block := { (default : Block) with unit := 5, members := 1, bars := List.replicate 16 (Barrier.start 1) }

def tRec : LaunchRec := { (default : LaunchRec) with nbb := 2, minc := 1, maxc := 2, groups := 4, csize := 1, scrch := 8 }

def tL : Launch := { (default : Launch) with uid := 5, lr := tRec }

/-- A package with one crew, whose scalar thread has the turn. -/
def tS : State := { State.reset with turn := .scalar tC, crews := [(tC, tK)], blocks := [(1, tB)], launches := [tL] }

/-- The same with other registers of the crew. -/
def tSwith (f : Crew → Crew) : State := { tS with crews := [(tC, f tK)] }

def nx : Out → State | .next t => t | _ => State.reset
def crewOf (o : Out) : Crew := ((nx o).crew? tC).getD default
def regOf (o : Out) (n : Nat) : W64 := (crewOf o).sreg n
/-- The first outstanding destination: where its value goes, the value, and its flags. -/
def lateOf (o : Out) : Option (Dest × Option Nat × Flags) := (crewOf o).out.head?.map (fun e => (e.dest, e.val, e.flags))
/-- The cause of the trap that has been taken, and its address. -/
def trapOf (o : Out) : Bool × W64 × W64 := ((crewOf o).h, (crewOf o).tr.tcause, (crewOf o).tr.faddr)

/-! ### Scalar instructions -/

-- R188 by hand: 6 - 3; 3 - 6 wraps; the high half of -1 times -1 is 0; -1 shifted right arithmetically by 7 stays -1.
theorem test_sub : regOf (exec (.sub ⟨false, 7, 1, 2⟩) tS) 7 = 3 ∧ regOf (exec (.sub ⟨false, 7, 2, 1⟩) tS) 7 = 0xFFFFFFFFFFFFFFFD := by
  decide
theorem test_mulh : regOf (exec (.mulh ⟨false, 7, 4, 4⟩) tS) 7 = 0 ∧ regOf (exec (.mulh ⟨false, 7, 4, 2⟩) tS) 7 = 0xFFFFFFFFFFFFFFFF := by
  decide
theorem test_shifts : regOf (exec (.sar ⟨false, 7, 9, 2⟩) tS) 7 = 0xF000000000000000 ∧
    regOf (exec (.shr ⟨false, 7, 9, 2⟩) tS) 7 = 0x1000000000000000 ∧ regOf (exec (.shl ⟨false, 7, 9, 2⟩) tS) 7 = 0 := by decide
-- R188: min and max as i64, minu and maxu as u64: -1 against 6.
theorem test_minmax : regOf (exec (.min ⟨false, 7, 4, 1⟩) tS) 7 = 0xFFFFFFFFFFFFFFFF ∧ regOf (exec (.minu ⟨false, 7, 4, 1⟩) tS) 7 = 6 ∧
    regOf (exec (.max ⟨false, 7, 4, 1⟩) tS) 7 = 6 ∧ regOf (exec (.maxu ⟨false, 7, 4, 1⟩) tS) 7 = 0xFFFFFFFFFFFFFFFF := by decide
-- R40: imm10 is sign-extended: 6 + (-1), 6 AND -16 (R188's example clears the low four bits).
theorem test_imm : regOf (exec (.addImm ⟨false, 7, 1, 0x3FF⟩) tS) 7 = 5 ∧ regOf (exec (.andImm ⟨false, 7, 4, 0x3F0⟩) tS) 7 = 0xFFFFFFFFFFFFFFF0 := by
  decide
-- R192: 0x4000 << 17 is 0x8000_0000; LI sign-extends.
theorem test_li_lih : regOf (exec (.lih ⟨false, 1, 0⟩) (tSwith (fun k => { k with s := [(1, 0x4000)] }))) 1 = 0x80000000 ∧
    regOf (exec (.li ⟨false, 1, 0x1FFFF⟩) tS) 1 = 0xFFFFFFFFFFFFFFFF := by decide
-- R189: the table.
theorem test_div_by_zero : lateOf (exec (.divu ⟨false, 7, 1, 96⟩) tS) = some (.sreg 7, some 0xFFFFFFFFFFFFFFFF, flagDZ) ∧
    lateOf (exec (.remu ⟨false, 7, 1, 96⟩) tS) = some (.sreg 7, some 6, flagDZ) := by decide
theorem test_divs : lateOf (exec (.divs ⟨false, 7, 9, 4⟩) tS) = some (.sreg 7, some 0x8000000000000000, 0) ∧
    lateOf (exec (.divs ⟨false, 7, 4, 2⟩) tS) = some (.sreg 7, some 0, 0) := by decide
-- R190: 3 AND 6 is not 0; -1 is below 6 as i64 and not as u64. R191: qx = 0 selects rb.
theorem test_cmp : (crewOf (exec (.cmp ⟨false, .any, 3, 1, 2⟩) tS)).q = 8 ∧ (crewOf (exec (.cmp ⟨false, .lt, 0, 4, 1⟩) tS)).q = 1 ∧
    (crewOf (exec (.cmp ⟨false, .ltu, 0, 4, 1⟩) tS)).q = 0 := by decide
theorem test_sel : regOf (exec (.sel ⟨false, 7, 1, 2, 3⟩) tS) 7 = 3 := by decide
-- R38, R39: code 96 reads 0 and discards; the code address goes on by 4.
theorem test_zero : regOf (exec (.add ⟨false, 7, 96, 1⟩) tS) 7 = 6 ∧ (crewOf (exec (.add ⟨false, 96, 1, 1⟩) tS)).s = tK.s ∧
    (crewOf (exec (.add ⟨false, 96, 1, 1⟩) tS)).pc = 0x104 := by decide
-- R68: B three words on, CALL's link in s95, LOOP at 1 and at 6.
theorem test_branch : (crewOf (exec (.b ⟨false, 3⟩) tS)).pc = 0x10C ∧ (crewOf (exec (.call ⟨false, 0x1FFFFF⟩) tS)).pc = 0xFC ∧
    regOf (exec (.call ⟨false, 3⟩) tS) 95 = 0x104 := by decide
theorem test_loop : (crewOf (exec (.loop ⟨false, 1, 0x1FFFD⟩) tS)).pc = 0xF4 ∧ regOf (exec (.loop ⟨false, 1, 0x1FFFD⟩) tS) 1 = 5 ∧
    (crewOf (exec (.loop ⟨false, 8, 0x1FFFD⟩) (tSwith (fun k => { k with s := [(8, 1)] })))).pc = 0x104 := by decide
-- R54: a target that is not a multiple of 4 takes BADTGT (0x03) with no register written.
theorem test_badtgt : (trapOf (exec (.jr ⟨false, 1⟩) tS)).2.1 = 0x03 := by decide
-- R259: `SST.32 [s3 + 8], s5` and `SLD.u32` of the same bytes; little-endian.
theorem test_store_load : lateOf (exec (.sldU32 ⟨false, 7, 3, 2⟩) { nx (exec (.sst32 ⟨false, 4, 3, 2⟩) tS) with turn := .scalar tC }) =
    some (.sreg 7, some 0xFFFFFFFF, 0) ∧ ((nx (exec (.sst16 ⟨false, 9, 3, 0⟩) tS)).block? 1).map (fun b => sparseGet 0 b.spad 0) = some 0 := by
  decide
-- R255, R287: a load past the block's 8 × 512 bytes takes SPBOUND with its address.
theorem test_load_traps : (trapOf (exec (.sldU8 ⟨false, 7, 8, 0⟩) (tSwith (fun k => { k with s := [(8, 0xFFFFFFFFF0001000)] })))).2 =
      (0x31, 0xFFFFFFFFF0001000) := by decide
-- R261: bfadd of 7 bounded by 8 on a word that holds 0, and cas that matches.
theorem test_satom : lateOf (exec (.satomBfadd32 ⟨false, 7, 3, 5, .cw⟩) tS) = some (.sreg 7, some 0, 0) ∧
    ((nx (exec (.satomBfadd32 ⟨false, 7, 3, 5, .cw⟩) tS)).block? 1).map (fun b => sparseGet 0 b.spad 0) = some 7 ∧
    ((nx (exec (.satomMinu32 ⟨false, 7, 3, 5, .cw⟩) tS)).block? 1).map (fun b => sparseGet 0 b.spad 0) = some 0 := by decide
-- R318: `TRAP 5` enters the handler at TVEC with cause 0x60, the number in [41:32] and TSPC at the next word.
theorem test_trap : trapOf (exec (.trap ⟨false, 5⟩) tS) = (true, 0x0000000500000060, 0) ∧
    (crewOf (exec (.trap ⟨false, 5⟩) tS)).tr.tspc = 0x104 ∧ (crewOf (exec (.brk ⟨false, 0⟩) tS)).tr.finfo = 0x100 := by decide
-- R314, R319: ERET outside a handler takes ILLINS; in one it resumes at TSPC.
theorem test_eret : (trapOf (exec (.eret ⟨false⟩) tS)).2.1 = 0x01 ∧
    (crewOf (exec (.eret ⟨false⟩) (tSwith (fun k => { k with h := true, tr := { k.tr with tpc := 0x40, tspc := 0x40 } })))).pc = 0x40 := by
  decide
-- R320: MFSR of FMASK (2) outside a handler takes PRIVINS; FLAGS (8) is not privileged.
theorem test_mfsr : (trapOf (exec (.mfsr ⟨false, 3, 2⟩) tS)).2.1 = 0x06 ∧
    regOf (exec (.mfsr ⟨false, 7, 8⟩) (tSwith (fun k => { k with flags := flagNV }))) 7 = 0x10 := by decide
-- R69: a slice mask of 0 takes ILLINS; a third run takes RUNOVF; LJOIN without a run takes NORUN.
theorem test_lrun : (trapOf (exec (.lrun ⟨false, 0, 0x180⟩) tS)).2.1 = 0x01 ∧
    ((crewOf (exec (.lrun ⟨false, 3, 0x180⟩) tS)).runs.map (fun r => (r.mask, r.start, r.groups))) = [(3, 0x180, 4)] ∧
    (trapOf (exec (.ljoin ⟨false, 7⟩) tS)).2.1 = 0x11 := by decide
-- R84 to R86: barrier 0 of one member completes at its arrival: the token is 0 and the phase 1, so that BTEST of the token gives 1.
theorem test_barrier : regOf (exec (.barrive ⟨false, 7, 96, 5, .sum⟩) tS) 7 = 0 ∧
    ((nx (exec (.barrive ⟨false, 7, 96, 5, .sum⟩) tS)).block? 1).map (fun b => (listGet (Barrier.start 0) b.bars 0).result) = some 7 ∧
    regOf (exec (.btest ⟨false, 7, 96⟩) tS) 7 = 0 := by decide
-- R82: a claim to 4 + 3 groups; 62 more than 4 held take REGLIM; R94 for RELEASE.
theorem test_claim : regOf (exec (.claim ⟨false, 8, 2⟩) tS) 8 = 7 ∧ regOf (exec (.release ⟨false, 8, 2⟩) tS) 8 = 1 ∧
    (trapOf (exec (.claim ⟨false, 8, 7⟩) (tSwith (fun k => { k with s := [(7, 62)] })))).2.1 = 0x14 := by decide
-- R91, R92: ATTACH of a crew that did not grow takes ATTSEQ; DETACH below the minimum takes DETMIN, resuming after it.
theorem test_attach : (trapOf (exec (.attach ⟨false, 96⟩) tS)).2.1 = 0x19 ∧
    (trapOf (exec (.detach ⟨false⟩) tS)).2.1 = 0x1A := by decide
-- R109: an identifier above 32 bits takes WIDRNG; no unit delivers 0.
theorem test_wdone : (trapOf (exec (.wdone ⟨false, 10, 4, .gph⟩) tS)).2.1 = 0x1D ∧
    lateOf (exec (.wdone ⟨false, 10, 1, .gph⟩) tS) = some (.sreg 10, some 0, 0) := by decide
-- R269, R270: TWAIT of an idle chunk takes CHKIDLE, of a failed one CHKFAIL; a mask of 0 returns at once.
theorem test_twait : (trapOf (exec (.twait ⟨false, 96, 1⟩) tS)).2.1 = 0x49 ∧
    (trapOf (exec (.twait ⟨false, 96, 1⟩) { tS with blocks := [(1, { tB with chunks := [(1, .failed 0x40 0 0x1000)] })] })).2.1 = 0x4A ∧
    (crewOf (exec (.twait ⟨false, 96, 96⟩) tS)).pc = 0x104 := by decide
-- 09, R216: the request 0x0000_0028_0040_0003 is granted 0x0102_3F0F.
theorem test_tshape : lateOf (exec (.tshape ⟨false, 3, 2⟩) (tSwith (fun k => { k with s := [(2, 0x0000002800400003)] }))) =
    some (.sreg 3, some 0x01023F0F, 0) := by decide
-- R215: a matrix instruction without a grant takes NOGRANT; R230: without a context, NOCTX. R233: MZERO.acq joins the queue.
theorem test_matrix_traps : (trapOf (exec (.mma ⟨false, 1, 2, 0⟩) tS)).2.1 = 0x20 ∧
    (trapOf (exec (.mnorm ⟨false, 1, 2⟩) tS)).2.1 = 0x21 ∧
    ((nx (exec (.mzeroAcq ⟨false, 7⟩) tS)).core 0).mos.length = 1 := by decide

/-! ### Lane instructions -/

/-- A run of eight slices in one gang at 0x120, with run constant s7 = 0x1234. -/
def tR : Run := { (default : Run) with
  consts := [(3, 0xFFFFFFFFF0000000), (7, 0x1234)], mask := 0xFF, groups := 4, start := 0x120, x := [0, 0, 0, 0], ops := [none, none, none, none], state := .executing,
  slices := List.replicate 8 { (default : Slice) with live := true, pc := 0x120, cur := 0xF, parts := [none, none, none, none] } }

/-- Registers of lane 0 (and lane 1 where a pair is given): v1 = 1.5, v2 = 0xFFFF_FFF0, v3 = 0x20, v4 = NaN, v5 = 2.0 in binary32. -/
def tV : Sparse W32 := [(32, 0x3FC00000), (64, 0xFFFFFFF0), (65, 7), (96, 0x20), (128, 0x7FC00000), (160, 0x40000000)]

/-- The crew with that run, and its gang's turn. -/
def tGK : Crew := { tK with runs := [tR], v := tV, p := [(1, 0xFFFFFFFD), (2, 0xF)] }
def tG : State := { tS with turn := .gang tC 0, crews := [(tC, tGK)] }
def tT : LaneTurn := tR.laneTurn tC tGK 0
def tGwith (f : Crew → Crew) : State := { tG with crews := [(tC, f tGK)] }

/-- The same with a byte at the start of the scratchpad. -/
def tPad (x : Byte) (f : Crew → Crew) : State := { tGwith f with blocks := [(1, { tB with spad := [(0, x)] })] }

/-- Register n of lane l. -/
def laneOf (o : Out) (l n : Nat) : W32 := (crewOf o).vread l n
def slicesOf (o : Out) : List Slice := ((crewOf o).runNow.map (·.slices)).getD []
/-- The outstanding values of lanes, in order. -/
def latesOf (o : Out) : List (Option Nat) := (crewOf o).out.map (·.val)

-- R193's example: with .sat the sum is 0xFFFF_FFFF, without it 0x10, and as i32 with .sat 16.
theorem test_iadd : laneOf (exec (.iadd ⟨false, g0, .u32, true, 4, .reg 2, .reg 3⟩) tG) 0 4 = 0xFFFFFFFF ∧
    laneOf (exec (.iadd ⟨false, g0, .u32, false, 4, .reg 2, .reg 3⟩) tG) 0 4 = 0x10 ∧
    laneOf (exec (.iadd ⟨false, g0, .i32, true, 4, .reg 2, .reg 3⟩) tG) 0 4 = 16 := by decide
-- R42: lane 1 fails the guard p1 (bit 1 is 0) and keeps its register; R74: the gang goes on by 12.
theorem test_guard : laneOf (exec (.isub ⟨false, ⟨true, false, 1⟩, .u32, false, 2, .reg 2, .imm 7⟩) tG) 1 2 = 7 ∧
    laneOf (exec (.isub ⟨false, ⟨true, true, 1⟩, .u32, false, 2, .reg 2, .imm 7⟩) tG) 1 2 = 0 ∧
    (slicesOf (exec (.isub ⟨false, g0, .u32, false, 2, .reg 2, .imm 7⟩) tG)).map (·.pc) = List.replicate 8 0x12C := by decide
-- R193: shifts take b mod 32; .isar of a negative number; IMULH of two large unsigned numbers.
theorem test_lane_shift : laneOf (exec (.isar ⟨false, g0, .i32, false, 6, .reg 2, .imm 4⟩) tG) 0 6 = 0xFFFFFFFF ∧
    laneOf (exec (.ishr ⟨false, g0, .u32, false, 6, .reg 2, .imm 36⟩) tG) 0 6 = 0x0FFFFFFF ∧
    laneOf (exec (.imulh ⟨false, g0, .u32, false, 6, .reg 2, .reg 2⟩) tG) 0 6 = 0xFFFFFFE0 := by decide
-- R194, R195: 28 bits of 0xFFFF_FFF0, no leading zero; the field [7:4] of it signed and unsigned.
theorem test_bits : laneOf (exec (.ipop ⟨false, g0, .u32, 6, .reg 2⟩) tG) 0 6 = 28 ∧ laneOf (exec (.iclz ⟨false, g0, .u32, 6, .reg 3⟩) tG) 0 6 = 26 ∧
    laneOf (exec (.ibfe ⟨false, g0, .i32, 6, .reg 2, 4, 4⟩) tG) 0 6 = 0xFFFFFFFF ∧
    laneOf (exec (.ibfi ⟨false, g0, .u32, 6, .reg 2, 3, 4, 8⟩) tG) 0 6 = 0xFFFFF200 := by decide
-- R196: 1.5 + 2.0, 1.5 × 2.0 + 1.5, a NaN operand gives the canonical NaN.
theorem test_float : laneOf (exec (.fadd ⟨false, g0, .f32, .rn, 6, .reg 1, .reg 5⟩) tG) 0 6 = 0x40600000 ∧
    laneOf (exec (.ffma ⟨false, g0, .f32, .rn, 6, .reg 1, .reg 5, 1⟩) tG) 0 6 = 0x40900000 ∧
    laneOf (exec (.fmul ⟨false, g0, .f32, .rn, 6, .reg 4, .reg 5⟩) tG) 0 6 = 0x7FC00000 := by decide
-- R198: FRND.rn of 1.5 is 2.0, with NX; .rz gives 1.0.
theorem test_frnd : laneOf (exec (.frnd ⟨false, g0, .f32, .rn, 6, .reg 1⟩) tG) 0 6 = 0x40000000 ∧
    (crewOf (exec (.frnd ⟨false, g0, .f32, .rn, 6, .reg 1⟩) tG)).flags = flagNX ∧
    laneOf (exec (.frnd ⟨false, g0, .f32, .rz, 6, .reg 1⟩) tG) 0 6 = 0x3F800000 := by decide
-- R203's worked example, steps 1, 2 and 4: the word after each, and the flags.
theorem test_pack : laneOf (exec (.pack ⟨false, g0, true, .rn, 6, .reg 1, 9, .i8, .f32, 0⟩) tG) 0 6 = 0x02000000 ∧
    laneOf (exec (.pack ⟨false, g0, true, .rn, 6, .reg 1, 7, .i8, .f32, 0⟩)
      (tGwith (fun k => { k with v := [(32, 0xC3480000), (224, 0x02000000)] }))) 0 6 = 0x80020000 ∧
    (crewOf (exec (.pack ⟨false, g0, true, .rn, 6, .reg 4, 9, .i8, .f32, 0⟩) (tGwith (fun k => { k with v := [(128, 0x7FC00000)] })))).flags =
      flagNV := by decide
-- R205 to R207: 0xFFFF_FFF0 is below 0x20 as i32 and not as u32; NaN is unordered; PNOT of p1 in lane 1.
theorem test_predicates : (crewOf (exec (.icmp ⟨false, g0, .lt, .i32, 3, .reg 2, .reg 3⟩) tG)).pread 0 3 = true ∧
    (crewOf (exec (.icmp ⟨false, g0, .lt, .u32, 3, .reg 2, .reg 3⟩) tG)).pread 0 3 = false ∧
    (crewOf (exec (.fcmp ⟨false, g0, .un, .f32, 3, .reg 4, .reg 5⟩) tG)).pread 0 3 = true ∧
    (crewOf (exec (.pnot ⟨false, g0, 3, 1⟩) tG)).pread 1 3 = true := by decide
-- R208: `MOV v6, s7` broadcasts the run constant.
theorem test_mov : laneOf (exec (.mov ⟨false, g0, 6, .const 7⟩) tG) 31 6 = 0x1234 := by decide
-- R209, R210: SHFL.xor 1 exchanges lanes 0 and 1; BALLOT of p1 has bit 1 clear.
theorem test_shfl_vote : (latesOf (exec (.shfl ⟨false, g0, 6, .reg 2, .xor 1⟩) tG)).take 2 = [some 7, some 0xFFFFFFF0] ∧
    (latesOf (exec (.vote ⟨false, g0, .ballot, 6, 1⟩) tG)).head? = some (some 0xFFFFFFFD) := by decide
-- R200: 1 ÷ 2.0 is 0.5, and the square root of a negative number is NaN with NV.
theorem test_transcendental : (crewOf (exec (.rcp ⟨false, ⟨true, false, 2⟩, 6, .reg 5⟩) tG)).out.head?.map (·.val) = some (some 0x3F000000) := by
  decide
-- R70: with four groups v32 is past the limit, REGRNG (0x07) with TCAUSE bit 8 for a gang and its slices in [23:16] (R315).
theorem test_regrng : trapOf (exec (.mov ⟨false, g0, 32, .const 7⟩) tG) = (true, 0x00FF0107, 0) := by decide
-- R76, R77: lanes 0 to 3 (p2) branch to 0x144: slice 0 whole jumps, the others go on; each pushes an entry. JOIN without an entry
-- takes JOINMIS (0x12).
theorem test_bra : (slicesOf (exec (.braDivergent ⟨false, ⟨true, false, 2⟩, 0x144, 0x180⟩) tG)).map (fun x => (x.pc, x.cur, x.stack.length)) =
      (0x144, 0xF, 1) :: List.replicate 7 (0x12C, 0xF, 1) ∧
    (trapOf (exec (.join ⟨false, 0x180⟩) tG)).2.1 = 0x00FF0112 := by decide
-- R79: the last gang's LEND ends the run.
theorem test_lend : ((crewOf (exec (.lend ⟨false⟩) tG)).runs.map (·.state)) = [.ended] := by decide
-- R262's worked example: bfadd of 2 bounded by 8 in lanes 0, 2 and 3 on a word that holds 5: they receive 5, 7 and 8, and the word ends
-- at 8; incw bounded by 3 on 2: 2, 3, 0 and 1, and the word ends at 2.
def tBfadd : Out := exec (.atom ⟨false, ⟨true, false, 1⟩, .bfadd, false, .plain, .cw, 6, .const 3, 7, 8⟩)
  (tPad 5 (fun k => { k with p := [(1, 0xD)], v := [(224, 2), (226, 2), (227, 2), (256, 8), (258, 8), (259, 8)] }))
def tIncw : Out := exec (.atom ⟨false, ⟨true, false, 2⟩, .incw, false, .plain, .cw, 6, .const 3, 7, 0⟩)
  (tPad 2 (fun k => { k with v := [(224, 3), (225, 3), (226, 3), (227, 3)] }))
theorem test_atom_bfadd : latesOf tBfadd = [some 5, some 7, some 8] ∧ ((nx tBfadd).block? 1).map (·.spad) = some [(0, 8)] := by decide
theorem test_atom_incw : latesOf tIncw = [some 2, some 3, some 0, some 1] ∧ ((nx tIncw).block? 1).map (·.spad) = some [(0, 2)] := by decide
-- R257: ST.16 of lane 0's v2 at the scratchpad's start, and LD.s8 of the byte 0xF0.
theorem test_lane_memory : ((nx (exec (.st ⟨false, ⟨true, false, 3⟩, .b16, .plain, .cw, .const 3, 2, 0⟩)
      (tGwith (fun k => { k with p := [(3, 1)] })))).block? 1).map (·.spad) = some [(0, 0xF0), (1, 0xFF)] ∧
    latesOf (exec (.ld ⟨false, ⟨true, false, 3⟩, .b8, true, .plain, .cw, 6, .const 3, 0⟩)
      (tPad 0xF0 (fun k => { k with p := [(3, 1)] }))) = [some 0xFFFFFFF0] := by decide
-- R211: XPUT.sum of v2 in slice 0: 0xFFFF_FFF0 + 7.
theorem test_xput : ((slicesOf (exec (.xput ⟨false, g0, .sum, 0, .reg 2⟩) tG)).head?.map (·.parts)) = some [some 0xFFFFFFF7, none, none, none] := by
  decide

/-! ### Steps -/

/-- The machine at reset with the word of `SEL s7, s1, s2, q3` (R191), and with the words of R193's `IADD.sat.u32`, placed. -/
def tF : State := State.reset.withFetchWord 32 0x130E0413
def tFL : State := State.reset.withFetchWord 96 0x00000000000006020020010C

theorem test_step_scalar : ∃ t, step tF = .next t ∧ (t.crew? (.blk 2 0)).map (·.pc) = some 0x24 := ⟨_, rfl, by decide⟩
theorem test_decode_table : decodeTableWord 32 0x130E0413 = some (.sel ⟨false, 7, 1, 2, 3⟩) ∧
    decodeTableWord 96 0x00000000000006020020010C = some (.iadd ⟨false, g0, .u32, true, 4, .reg 2, .reg 3⟩) := by decide
-- R34, R295: power-up starts the firmware; R17's chiplets stay shuttered but for the H-die.
theorem test_power_up : (nx (exec (.powerUp ⟨true, 0⟩ ⟨true, 0⟩) State.reset)).ident.shut = 0x1FFFE ∧
    (nx (exec (.powerUp ⟨false, 0⟩ ⟨true, 0⟩) State.reset)).ident.repl = true ∧ (nx (exec (.powerUp ⟨false, 9⟩ ⟨false, 0⟩) State.reset)).mbox.state = 4 := by decide

/-! ### Hypotheses that are met: one theorem for each statement -/

theorem at_tS : ScalarAt tS tC tK := ⟨rfl, rfl, .inl rfl⟩
theorem block_tS : BlockAt tS 1 0 tK := at_tS
theorem gang_tG : GangAt tG tT := ⟨0, tGK, tR, rfl, rfl, rfl, rfl, rfl⟩

/-- The scalar thread with other registers of the crew has the turn. -/
theorem at_with (f : Crew → Crew) (h : (f tK).growth = false) : ScalarAt (tSwith f) tC (f tK) := ⟨rfl, rfl, .inl h⟩

/-- The package with every die attested, and a cached translation in the crew's core that maps the addresses below 2^42 as they are
(R283: V, LEAF, R, W, X, A and NS). -/
def tM (f : Crew → Crew) : State := { tSwith f with
  ident := { State.reset.ident with shut := 0 }, cores := { Core.reset with tlb := [⟨0, 0, 0, 2, 0xBF⟩] } :: List.replicate 63 .reset
  mem := [(0x1000, 5)] }
/-- An address in memory in s8. -/
def atMem (k : Crew) : Crew := { k with s := [(5, 7), (6, 8), (8, 0x1000)] }
def locMem (a n : Nat) : Loc := .phys ⟨a, n, false⟩

theorem test_meets_DecodeEncode : ((Instr.shrImm ⟨false, 2, 2, 5⟩).wf = true ∧ encodeScalar (.shrImm ⟨false, 2, 2, 5⟩) = some 0x1A040805) ∧
    (Instr.fadd ⟨false, ⟨true, false, 3⟩, .f32, .rz, 10, .reg 2, .reg 5⟩).wf = true ∧
    encodeLane (.fadd ⟨false, ⟨true, false, 3⟩, .f32, .rz, 10, .reg 2, .reg 5⟩) = some (0x08118281, 0xA02, 0) := by decide
theorem test_meets_EncodeDecode : decodeScalar 0x12461028 = some (.cmp ⟨false, .ltu, 3, 4, 5⟩) ∧
    decodeLane 0x0020010C 0x602 0 = some (.iadd ⟨false, g0, .u32, true, 4, .reg 2, .reg 3⟩) := by decide
theorem test_meets_StepRunsDecodedInstruction :
    (∃ k m, tF.agenda = .scalar (.blk 2 0) :: [] ∧ ((tF.pick.2).begin (.scalar (.blk 2 0))).crew? (.blk 2 0) = some k ∧
      ((tF.pick.2).begin (.scalar (.blk 2 0))).scalarReady (.blk 2 0) k = true ∧ k.pc = 0x20 ∧
      ((tF.pick.2).begin (.scalar (.blk 2 0))).image? (.blk 2 0) k 0 = some m ∧ inSection (imageSc m) 4 0x20 = true ∧
      sparseRead 0 m 0x20 4 = bytesOf 4 0x130E0413) ∧
    (∃ k r m, tFL.agenda = .gang (.blk 2 0) 0 :: [] ∧ ((tFL.pick.2).begin (.gang (.blk 2 0) 0)).crew? (.blk 2 0) = some k ∧
      k.runNow = some r ∧ ((tFL.pick.2).begin (.gang (.blk 2 0) 0)).gangReady (.blk 2 0) k 0 = true ∧ (r.slice 0).pc = 0x20 ∧
      ((tFL.pick.2).begin (.gang (.blk 2 0) 0)).image? (.blk 2 0) k 0 = some m ∧ inSection (imageLn m) 12 0x20 = true ∧
      sparseRead 0 m 0x20 12 = bytesOf 4 0x0020010C ++ bytesOf 4 0x602 ++ bytesOf 4 0) :=
  ⟨⟨_, _, rfl, rfl, by decide, rfl, rfl, by decide, by decide⟩, ⟨_, _, _, rfl, rfl, rfl, by decide, rfl, rfl, by decide, by decide⟩⟩
theorem test_meets_StepOverheadKeepsRegisters : (∀ p ∈ tS.blocks, p.2.gather = none) ∧ tS.crew? tC = some tK := by decide
theorem test_meets_StepRunsEvents :
    (∃ s : State, s.agenda = [.event .powerOff] ∧ s.powered = true ∧ (Instr.powerOff).isEvent = true) ∧
    (∃ s : State, s.powered = false ∧ ∀ x y, s.pick.1 ≠ .event (.powerUp x y)) :=
  ⟨⟨{ State.reset with agenda := [.event .powerOff] }, rfl, rfl, rfl⟩,
   ⟨{ State.reset with powered := false, agenda := [.idle] }, rfl, by intro x y; simp [State.pick]⟩⟩
theorem test_meets_StepRunsEvents_fetch :
    (∃ k, ((tF.pick.2).begin (.scalar (.blk 2 0))).crew? (.blk 2 0) = some k ∧
      ((tF.pick.2).begin (.scalar (.blk 2 0))).fetchScalar (.blk 2 0) k = .ok 0x130E0413) ∧
    tS.fetchScalar tC tK = .error 4 ∧ decodeScalar 0x12461029 = none := ⟨⟨_, rfl, rfl⟩, rfl, by decide⟩
theorem test_meets_StepKeepsMemoryCanonical : MemOk tF ∧ ∃ t, step tF = .next t := ⟨rfl, _, rfl⟩
theorem test_meets_ScalarAluResults : ScalarAt tS tC tK ∧ tS.sread tC tK 1 = 6 ∧ tS.sread tC tK 4 = 0xFFFFFFFFFFFFFFFF :=
  ⟨at_tS, by decide, by decide⟩
theorem test_meets_DivisionResults : ScalarAt tS tC tK ∧ tS.sread tC tK 96 = 0 ∧ tS.sread tC tK 2 ≠ 0 ∧
    (tS.sread tC tK 9).toInt = -2 ^ 63 ∧ (tS.sread tC tK 4).toInt = -1 := ⟨at_tS, by decide⟩
theorem test_meets_CompareAndSelect : ScalarAt (tSwith (fun k => { k with q := 8 })) tC { tK with q := 8 } ∧
    (8 : BitVec 8).toNat.testBit 3 = true ∧ (8 : BitVec 8).toNat.testBit 2 = false ∧
    (0x12C61028 : W32).extractLsb' 24 7 = 0x12 ∧ (0x12C61028 : W32).getLsbD 23 = true ∧ (0x12461029 : W32).extractLsb' 0 3 ≠ 0 :=
  ⟨at_with _ rfl, by decide⟩
theorem test_meets_ScalarRegisterFrame : ScalarAt tS tC tK ∧ aluDest (.add ⟨false, 7, 1, 2⟩) = some 7 ∧
    (∃ t, exec (.add ⟨false, 7, 1, 2⟩) tS = .next t) ∧ (∃ t, exec (.cmp ⟨false, .eq, 7, 1, 2⟩) tS = .next t) ∧
    loadForm (.sldU8 ⟨false, 7, 3, 1⟩) = some (⟨false, 7, 3, 1⟩, 1) ∧ (∃ s1, tS.access tC .read 0xFFFFFFFFF0000001 1 = (.ok [.spad 1 1 1], s1)) ∧
    tS.stalledLocs (tS.seat tC) [.spad 1 1 1] = false ∧ (∃ t, exec (.sldU8 ⟨false, 7, 3, 1⟩) tS = .next t) ∧
    ∃ t, exec (.divu ⟨false, 7, 1, 2⟩) tS = .next t :=
  ⟨at_tS, rfl, ⟨_, rfl⟩, ⟨_, rfl⟩, rfl, ⟨_, rfl⟩, by decide, ⟨_, rfl⟩, ⟨_, rfl⟩⟩
theorem test_meets_ControlTransfers : ScalarAt (tSwith (fun k => { k with q := 8 })) tC { tK with q := 8 } ∧
    tS.scalarTarget tC tK (branchTarget tK 3) = true ∧ tS.scalarTarget tC tK 6 = false ∧ tS.sread tC tK 1 ≠ 1 ∧
    tS.scalarTarget tC tK 0x1000000 = false ∧ (tSwith (fun k => { k with s := [(8, 1)] })).sread tC { tK with s := [(8, 1)] } 8 = 1 :=
  ⟨at_with _ rfl, by decide⟩
theorem test_meets_ScalarLoadsAndStores : ScalarAt (tM atMem) tC (atMem tK) ∧
    (∃ s1, (tM atMem).access tC .read 0x1000 4 = (.ok [locMem 0x1000 4], s1)) ∧ (∃ s1, (tM atMem).access tC .write 0x1000 8 = (.ok [locMem 0x1000 8], s1)) ∧
    (tM atMem).stalledLocs ((tM atMem).seat tC) [locMem 0x1000 4] = false ∧ (tM atMem).poisonedLocs [locMem 0x1000 4] = false ∧
    ({ tM atMem with poison := [0x200] } : State).poisonedLocs [locMem 0x1000 4] = true ∧
    ∃ s1, tS.access tC .write 0xFFFFFFFFF0001000 1 = (.error 0x31, s1) :=
  ⟨⟨rfl, rfl, .inl rfl⟩, ⟨_, rfl⟩, ⟨_, rfl⟩, by decide, by decide, by decide, ⟨_, rfl⟩⟩
theorem test_meets_StoredBytesReadBack : tS.block? 1 = some tB ∧ isDev 0x1000 = false ∧ (tM atMem).poisonedRange 0x1000 4 = false ∧
    isDev 0x1004 = false ∧ (0x1000 : Nat) + 4 ≤ 0x1004 := by decide
theorem test_meets_ScalarAtomics : ScalarAt (tM atMem) tC (atMem tK) ∧
    (∃ s1, (tM atMem).access tC .atomic 0x1000 8 = (.ok [locMem 0x1000 8], s1)) ∧ (tM atMem).stalledLocs ((tM atMem).seat tC) [locMem 0x1000 8] = false ∧
    (tM atMem).poisonedLocs [locMem 0x1000 8] = false ∧ (tM atMem).bellStall [locMem 0x1000 8] = false ∧
    ({ tM atMem with poison := [0x200] } : State).poisonedLocs [locMem 0x1000 8] = true ∧
    ∃ s1, tS.access tC .atomic 0xFFFFFFFFF0000002 4 = (.error 0x33, s1) :=
  ⟨⟨rfl, rfl, .inl rfl⟩, ⟨_, rfl⟩, by decide, by decide, by decide, by decide, ⟨_, rfl⟩⟩
theorem test_meets_ScalarStoreFrame : storeForm (.sst64 ⟨false, 5, 8, 0⟩) = some (⟨false, 5, 8, 0⟩, 8) ∧
    (∃ t, exec (.sst64 ⟨false, 5, 8, 0⟩) (tM atMem) = .next t) ∧ atomicForm (.satomAdd32 ⟨false, 7, 8, 5, .sy⟩) = some (⟨false, 7, 8, 5, .sy⟩, 4) ∧
    ∃ t, exec (.satomAdd32 ⟨false, 7, 8, 5, .sy⟩) (tM atMem) = .next t := ⟨rfl, ⟨_, rfl⟩, rfl, ⟨_, rfl⟩⟩

/-- The crew with runs, in and out of a handler. -/
def twoRuns (k : Crew) : Crew := { k with runs := [tR, { tR with state := .queued }] }
def endedRun (k : Crew) : Crew := { k with runs := [{ tR with state := .ended }] }
def inHandler (k : Crew) : Crew := { k with h := true }
def pend7 : Pending := ⟨.scalar, false, .sreg 7, some 1, 0, 0⟩

theorem test_meets_LaneRunsStartAndJoin : BlockAt tS 1 0 tK ∧ tS.laneTarget tC tK 0x180 = true ∧ tS.laneTarget tC tK 6 = false ∧
    (0x180 : BitVec 16).toNat = 0x180 ∧ 256 ≤ (tS.sread tC tK 3).toNat ∧ (twoRuns tK).runs.length = 2 ∧
    ((inHandler tK).h = true ∧ (inHandler tK).hrun = none) ∧ tK.scalarErr = [] ∧ tK.slots = [] ∧
    (∃ r rest, (twoRuns tK).slots = r :: rest ∧ r.state ≠ .ended) ∧ ∃ r rest, (endedRun tK).slots = r :: rest ∧ r.state = .ended :=
  ⟨block_tS, by decide, by decide, by decide, by decide, by decide, by decide, by decide, by decide, ⟨_, _, rfl, by decide⟩, ⟨_, _, rfl, rfl⟩⟩
theorem test_meets_TrapEntry : ScalarAt tS tC tK ∧ tK.h = false ∧ tK.trapping = none ∧ tK.out = [] ∧
    ScalarAt (tSwith (fun k => { k with out := [pend7] })) tC { tK with out := [pend7] } ∧ (∀ e ∈ [pend7], e.val ≠ none) ∧
    ScalarAt (tSwith inHandler) tC (inHandler tK) ∧ ScalarAt { tS with turn := .scalar (.ctl 0), crews := [(.ctl 0, inHandler tK)] } (.ctl 0) (inHandler tK) :=
  ⟨at_tS, rfl, rfl, rfl, at_with _ rfl, by decide, at_with _ rfl, ⟨rfl, rfl, .inl rfl⟩⟩
/-- A handler of a scalar trap whose TPC differs from TSPC, and a handler of a trapped gang. -/
def scalarHandler (k : Crew) : Crew := { k with h := true, tr := { k.tr with tpc := 0x40 } }
def gangHandler (k : Crew) : Crew := { k with h := true, tr := { k.tr with tcause := 0x10107, tpc := 0x120 }, runs := [tR], hrun := some { tR with state := .ended } }
theorem test_meets_ExceptionReturn : ScalarAt tS tC tK ∧ tK.h = false ∧ ScalarAt (tSwith scalarHandler) tC (scalarHandler tK) ∧
    (scalarHandler tK).tr.tcause.toNat.testBit 8 = false ∧ (scalarHandler tK).tr.tpc ≠ (scalarHandler tK).tr.tspc ∧
    ScalarAt (tSwith gangHandler) tC (gangHandler tK) ∧ (gangHandler tK).tr.tcause.toNat.testBit 8 = true ∧
    (∀ r, (gangHandler tK).hrun = some r → r.state = .ended) ∧ (gangHandler tK).runs = [tR] ∧ tR.state = .executing ∧
    (crewOf (exec (.eret ⟨false⟩) (tSwith gangHandler))).runs.length = 1 :=
  ⟨at_tS, rfl, at_with _ rfl, by decide, by decide, at_with _ rfl, by decide, by intro r h; cases h; rfl, rfl, rfl, by decide⟩
theorem test_meets_CrewAndLaunchEnds : BlockAt tS 1 0 tK ∧ tK.scalarErr = [] ∧ tK.h = false ∧ (∀ r ∈ tK.runs, r.state = .ended) ∧
    tK.scalarOut = [] ∧ (∀ m ∈ tS.mosOf tC, m.crew ≠ tC) ∧ BlockAt (tSwith twoRuns) 1 0 (twoRuns tK) ∧ (∃ r ∈ (twoRuns tK).runs, r.state ≠ .ended) ∧
    ScalarAt { tS with turn := .scalar (.ctl 0), crews := [(.ctl 0, tK)] } (.ctl 0) tK ∧ 0x31 ∈ listedCauses ∧ 0x70 ∉ listedCauses ∧
    (0xC0 : Nat) ≤ 0xC0 :=
  ⟨block_tS, by decide, rfl, by decide, by decide, by decide, at_with _ rfl, ⟨tR, by simp [twoRuns], by decide⟩, ⟨rfl, rfl, .inl rfl⟩,
   by decide, by decide, by decide⟩
theorem test_meets_SystemRegisters : ScalarAt (tSwith inHandler) tC (inHandler tK) ∧ tC.isCtl = false ∧ tK.h = false ∧
    14 ≤ (14 : BitVec 10).toNat ∧ (tSwith inHandler).sread tC (inHandler tK) 6 = 8 ∧ 8 ∉ listedCauses ∧ 0x06 ∈ listedCauses ∧
    (inHandler tK).scalarErr = [] ∧ (inHandler tK).ftReq = none := ⟨at_with _ rfl, by decide⟩
/-- A barrier at which two crews meet, one of which has arrived. -/
def tBar : Barrier := { Barrier.start 2 with arrivals := 1, arrived := [1], op := .sum, acc := 4 }
def tBS : State := { tS with blocks := [(1, { tB with bars := tBar :: List.replicate 15 (Barrier.start 1) })] }
theorem test_meets_BarrierInstructions : BlockAt tBS 1 0 tK ∧ (tBS.recOf tC).nbb = 2 ∧ (tBS.sread tC tK 96).toNat = 0 ∧
    0 ∉ tBar.arrived ∧ 1 ∈ tBar.arrived ∧ tBar.op = .sum ∧ tBar.arrivals + 1 = tBar.members ∧ (Barrier.start 2).arrivals + 1 ≠ (Barrier.start 2).members ∧
    (BarOp.and ≠ .none ∧ tBar.op ≠ .none ∧ tBar.op ≠ .and) ∧ selector? (tBS.recOf tC) 5 = none ∧ selector? (tBS.recOf tC) 1 = some (0, 1) ∧
    (tBS.barOf tC 0 0).phase.toNat = 0 ∧ 2 ^ 22 ≤ (tBS.sread tC tK 4).toNat := ⟨⟨rfl, rfl, .inl rfl⟩, by decide⟩
def grown (k : Crew) : Crew := { k with growth := true }
def twoMembers : State := { tS with blocks := [(1, { tB with members := 2 })] }
theorem test_meets_AttachAndDetach : (tS.turn = .scalar tC ∧ tS.crew? tC = some tK ∧ tK.growth = false) ∧
    ((tSwith grown).crew? tC = some (grown tK) ∧ (grown tK).growth = true ∧ tB.gather = none) ∧
    (BlockAt tS 1 0 tK ∧ tB.members < tB.departing + 1 + (tS.recOf tC).minc) ∧
    (BlockAt twoMembers 1 0 tK ∧ twoMembers.block? 1 = some { tB with members := 2 } ∧ 0 + 1 + (twoMembers.recOf tC).minc ≤ 2 ∧
      tK.scalarOut = [] ∧ (∀ m ∈ twoMembers.mosOf tC, m.crew ≠ tC) ∧ tK.leave ≠ .detach) :=
  ⟨⟨rfl, rfl, rfl⟩, ⟨rfl, rfl, rfl⟩, ⟨block_tS, by decide⟩, ⟨⟨rfl, rfl, .inl rfl⟩, rfl, by decide⟩⟩
def tUnit : CUnit := { (default : CUnit) with uid := 5, level := .lch, id := 6, state := .running, parent := some 4 }
def tUS : State := { tS with units := [{ (default : CUnit) with uid := 4, level := .job }, tUnit] }
theorem test_meets_GroupsAndCounters : BlockAt tS 1 0 tK ∧ 64 < tK.groups + (tS.sread tC tK 3).toNat ∧ tK.groups + (tS.sread tC tK 2).toNat ≤ 64 ∧
    (tS.core (tS.coreOf tC)).claims = [] ∧ (tS.sread tC tK 2).toNat ≤ tS.freeGroups (tS.coreOf tC) ∧
    (tS.sread tC tK 2).toNat ≤ tK.groups ∧ tK.groups < (tS.sread tC tK 1).toNat ∧ tR.groups > tK.groups - (tS.sread tC tK 2).toNat ∧
    2 ^ 32 ≤ (tS.sread tC tK 4).toNat ∧ tS.visibleUnit tC tK .lch 6 = none ∧ ScalarAt tUS tC tK ∧ tUS.visibleUnit tC tK .lch 6 = some tUnit :=
  ⟨block_tS, by decide, by decide, by decide, by decide, by decide, by decide, by decide, by decide, by decide, ⟨rfl, rfl, .inl rfl⟩, by decide⟩
/-- The core's pool of 1,024 groups is held, so that a claim of 3 waits. -/
def fullPool : State := { tS with blocks := [(1, tB), (2, { tB with slot := 1 })], crews := (tC, tK) :: (List.range 16).map (fun j => (.blk 2 j, { tK with groups := 64 })) }
theorem test_meets_GroupsAndCounters_waits : fullPool.freeGroups (fullPool.coreOf tC) < (fullPool.sread tC tK 2).toNat ∧
    0 < (fullPool.sread tC tK 2).toNat ∧ (∀ x ∈ (fullPool.core 0).claims, x.crew ≠ tC) := by decide

theorem below_tT : Below tT [2, 3, 4, 5, 6, 7, 8, 31] := by show ∀ n ∈ _, _; decide
theorem test_meets_LaneIntegerResults : GangAt tG tT ∧ Below tT [4, 2, 3] ∧ numA tT .u32 (.reg 2) 0 = 0xFFFFFFF0 ∧ numB tT .i32 (.imm 0xFFFFFFFF) 0 = -1 :=
  ⟨gang_tG, by show ∀ n ∈ _, _; decide, by decide, by decide⟩
theorem test_meets_LaneBitResults : GangAt tG tT ∧ Below tT [6, 2, 3] ∧ (Instr.ibfe ⟨false, g0, .u32, 6, .reg 2, 0, 32⟩).wf = true ∧
    (Instr.ibfi ⟨false, g0, .i64, 6, .reg 2, 4, 63, 1⟩).wf = true := ⟨gang_tG, by show ∀ n ∈ _, _; decide, by decide⟩
theorem test_meets_LaneFloatResults : GangAt tG tT ∧ Below tT (regs32 6 (.reg 1) (.reg 5)) ∧ Below tT [31] :=
  ⟨gang_tG, by show ∀ n ∈ _, _; decide, by show ∀ n ∈ _, _; decide⟩
theorem test_meets_TranscendentalResults : GangAt tG tT ∧ Below tT (31 :: (SrcA.const 31).named false) :=
  ⟨gang_tG, by show ∀ n ∈ _, _; decide⟩
theorem test_meets_LaneConversions : GangAt tG tT ∧ Below tT (regs32 6 (.reg 1) (.reg 9)) ∧ tG.cvtSlotBad tC .slot .f32 0 = true ∧
    tG.cvtSlotBad tC .i8 .f32 0 = false := ⟨gang_tG, by show ∀ n ∈ _, _; decide, by decide, by decide⟩
theorem test_meets_LanePredicatesAndMoves : GangAt tG tT ∧ Below tT ((SrcA.reg 1).named false ++ (SrcB.reg 5).named false) ∧ Below tT (regs32 6 (.const 7) (.reg 2)) :=
  ⟨gang_tG, by show ∀ n ∈ _, _; decide, by show ∀ n ∈ _, _; decide⟩
theorem test_meets_LaneTraps : GangAt tG tT ∧ 8 * tT.r.groups ≤ (32 : BitVec 9).toNat ∧ Below tT (vNamed false 6 ++ (SrcA.const 3).named true) ∧
    (∃ va rest, (tG.checkLanes tT (lanesOn tT g0) .read 4 (offAddr tT (.const 3) 0x1000)).bad = (0, 0x31, va) :: rest) ∧
    (∃ va rest, (tG.checkLanes tT (lanesOn tT g0) .atomic 4 (srcA64 tT.k tT.r (.const 7))).bad = (0, 0x38, va) :: rest) :=
  ⟨gang_tG, by decide, by show ∀ n ∈ _, _; decide, ⟨_, _, rfl⟩, ⟨_, _, rfl⟩⟩
/-- A run whose first result slot has an operator, and one with slices outside the gang. -/
def mixedRun : Run := { tR with ops := [some .and, none, none, none] }
def mixed : State := { tG with crews := [(tC, { tGK with runs := [mixedRun] })] }
def splitRun : Run := { tR with slices := tR.slices.take 4 ++ (tR.slices.take 4).map (fun x => { x with gang := 4, pc := 0x12C }) }
def split : State := { tG with crews := [(tC, { tGK with runs := [splitRun] })] }
theorem test_meets_CrossLaneResults : GangAt tG tT ∧ listGet none tT.r.ops 0 = none ∧ tT.r.ops.length = 4 ∧ (tT.r.slice 0).parts.length = 4 ∧
    GangAt mixed (mixedRun.laneTurn tC { tGK with runs := [mixedRun] } 0) ∧ listGet none mixedRun.ops 0 = some .and :=
  ⟨gang_tG, rfl, rfl, rfl, ⟨0, _, _, rfl, rfl, rfl, rfl, rfl⟩, rfl⟩
/-- A mask-stack entry, and a run inside one region or eight. -/
def entry1 : MaskEntry := ⟨0x180, 0xF, 0x144, 0, false⟩
def nested (n : Nat) : Run := { tR with slices := tR.slices.map (fun x => { x with stack := List.replicate n entry1 }) }
def nestedS (n : Nat) : State := { tG with crews := [(tC, { tGK with runs := [nested n] })] }
def nestedT (n : Nat) : LaneTurn := (nested n).laneTurn tC { tGK with runs := [nested n] } 0
theorem test_meets_LaneBranchesAndEnds : GangAt tG tT ∧ tG.laneOff tT 0x144 = true ∧ tG.laneOff tT 6 = false ∧
    (∀ j ∈ tT.gang, (tT.r.slice j).stack.length < 8) ∧ GangAt (nestedS 8) (nestedT 8) ∧ (∃ j ∈ (nestedT 8).gang, 8 ≤ ((nested 8).slice j).stack.length) ∧
    GangAt (nestedS 1) (nestedT 1) ∧ (∀ j ∈ (nestedT 1).gang, ((nestedT 1).r.slice j).topIs 0x180 = true) ∧
    (∃ j ∈ tT.gang, (tT.r.slice j).topIs 0x180 = false) ∧ (∃ j ∈ (nestedT 1).gang, ((nestedT 1).r.slice j).stack ≠ []) ∧
    (∀ j ∈ tT.gang, (tT.r.slice j).stack = []) ∧ (∀ j ∈ tT.gang, tT.k.sliceOut j = false ∧ (tT.r.slice j).memerr = []) :=
  ⟨gang_tG, by decide, by decide, by decide, ⟨0, _, _, rfl, rfl, rfl, rfl, rfl⟩, ⟨0, by decide, by decide⟩, ⟨0, _, _, rfl, rfl, rfl, rfl, rfl⟩,
   by decide, ⟨0, by decide, by decide⟩, ⟨0, by decide, by decide⟩, by decide, by decide⟩
theorem test_meets_LaneBranchesAndEnds_2 : (tT.k.h = false ∧ tT.k.runs = [tT.r] ∧ tT.r.slices.length = 8 ∧ ∀ j < 8, j ∉ tT.gang → (tT.r.slice j).live = false) ∧
    GangAt split (splitRun.laneTurn tC { tGK with runs := [splitRun] } 0) ∧
    (∃ j < 8, j ∉ splitRun.gangOf 0 ∧ (splitRun.slice j).live = true ∧ (splitRun.slice j).atRegang = false) ∧
    (∃ j ∈ tT.gang, ({ tGK with out := [⟨.slice 0, false, .vreg 192, some 1, 0, 0⟩] } : Crew).sliceOut j = true) ∧
    lanesOn tT ⟨true, false, 3⟩ = 0 ∧ lanesOn tT ⟨true, false, 1⟩ ≠ 0 :=
  ⟨by decide, ⟨0, _, _, rfl, rfl, rfl, rfl, rfl⟩, ⟨4, by decide⟩, ⟨0, by decide, by decide⟩, by decide, by decide⟩
def twoCrews : State := { tG with crews := [(tC, tGK), (.blk 1 1, tGK)] }
theorem test_meets_ReorderLanes : GangAt tG tT ∧ tG.block? 1 = some tB ∧ tB.gather = none ∧ tG.crewsOf 1 = [0] ∧ tT.k.growth = false ∧
    Below tT (regs32 7 (.reg 6) (.imm 0) ++ (maskList 32 0xF).map (fun g => 8 * g)) ∧ tT.gang = List.range 8 ∧ (∀ n < 8, (tT.r.slice n).stack = []) ∧
    GangAt twoCrews tT ∧ (∃ i k, i ∈ twoCrews.crewsOf 1 ∧ twoCrews.crew? (.blk 1 i) = some k ∧ k.growth = false ∧ i ≠ 0) ∧
    (∃ n < 8, ((nestedT 1).r.slice n).stack ≠ []) ∧ (nestedT 1).k.h = false ∧ (nestedT 1).k.out = [] ∧ (nestedT 1).k.trapping = none :=
  ⟨gang_tG, rfl, rfl, by decide, rfl, by show ∀ n ∈ _, _; decide, by decide, by decide, ⟨0, _, _, rfl, rfl, rfl, rfl, rfl⟩,
   ⟨1, tGK, by decide, rfl, rfl, by decide⟩, ⟨0, by decide, by decide⟩, rfl, rfl, rfl⟩
/-- The gang with the map of tM, and lanes 0 and 1 (p3) alone. -/
def tGM (f : Crew → Crew) : State := { tM (fun _ => f tGK) with turn := .gang tC 0 }
def lanes01 (k : Crew) : Crew := { k with p := [(3, 3)], v := [(64, 0x1000), (65, 0x1004), (160, 9)] }
def tTM : LaneTurn := tR.laneTurn tC (lanes01 tGK) 0
def g3 : Guard := ⟨true, false, 3⟩
theorem gang_tGM : GangAt (tGM lanes01) tTM := ⟨0, _, _, rfl, rfl, rfl, rfl, rfl⟩
def accs (kind : AccKind) (v : SrcA) : List LaneAcc := ((tGM lanes01).checkLanes tTM (lanesOn tTM g3) kind 4 (fun l => srcA64 tTM.k tTM.r v l)).ok
theorem test_meets_LaneLoads : GangAt (tGM lanes01) tTM ∧ Below tTM (vNamed false 6 ++ (SrcA.reg 2).named true) ∧
    (∃ s1, (tGM lanes01).checkLanes tTM (lanesOn tTM g3) .read 4 (fun l => BitVec.ofInt 64 ((srcA64 tTM.k tTM.r (.reg 2) l).toInt + (0 : W32).toInt)) =
      ⟨accs .read (.reg 2), [], s1⟩) ∧ (accs .read (.reg 2)).length = 2 ∧ (∀ a ∈ accs .read (.reg 2), (tGM lanes01).stalledLocs ((tGM lanes01).seat tC) a.locs = false) ∧
    (∀ a ∈ accs .read (.reg 2), (tGM lanes01).poisonedLocs a.locs = false) :=
  ⟨gang_tGM, by show ∀ n ∈ _, _; decide, ⟨_, rfl⟩, by decide, by decide, by decide⟩
theorem test_meets_LaneStores : (∃ s1, (tGM lanes01).checkLanes tTM (lanesOn tTM g3) .write 4 (fun l => BitVec.ofInt 64 ((srcA64 tTM.k tTM.r (.reg 2) l).toInt + (0 : W32).toInt)) =
      ⟨accs .write (.reg 2), [], s1⟩) ∧ anyMeet (accs .write (.reg 2)) = false ∧ anyMeet (accs .write (.const 3)) = true ∧
    (∀ a ∈ accs .write (.reg 2), bellsOf a.locs = []) ∧ bellsOf [locMem (devBase + 0x100008) 8] = [1] ∧ (tGM lanes01).notify.waiting.length + 2 ≤ 256 :=
  ⟨⟨_, rfl⟩, by and_intros <;> decide⟩
theorem test_meets_LaneAtomics : (∃ s1, (tGM lanes01).checkLanes tTM (lanesOn tTM g3) .atomic 4 (srcA64 tTM.k tTM.r (.reg 2)) = ⟨accs .atomic (.reg 2), [], s1⟩) ∧
    accs .atomic (.reg 2) ≠ [] ∧ (∀ a ∈ accs .atomic (.reg 2), (tGM lanes01).poisonedLocs a.locs = false) ∧
    (∀ a ∈ accs .atomic (.reg 2), ({ tGM lanes01 with poison := [0x200] } : State).poisonedLocs a.locs = true) := ⟨⟨_, rfl⟩, by decide, by decide, by decide⟩
theorem test_meets_LaneGoesFrame : GangAt tG tT ∧ LaneGoes (.mov ⟨false, g0, 6, .const 7⟩) tG tT false
      (laneVals tT (lanesOn tT g0) 6 (fun l => (srcA32 tT.k tT.r (.const 7) l, 0))) ∧
    ∃ u, exec (.mov ⟨false, g0, 6, .const 7⟩) tG = .next u := ⟨gang_tG, rfl, ⟨_, rfl⟩⟩

/-! A block whose scratchpad holds a tensor record of rank 1: VER 1, BASE 0x2000, DIM0 64 (R267); s10 is a copy word: offset 0x200,
one row of 64 elements (R271). -/

def tRecF : LaunchRec := { tRec with fmts := List.replicate 8 1 }
def tBT : Block := { tB with spad := [(0, 1), (1, 4), (9, 0x20), (16, 0x40)] }
def copyRegs (w : W64) (k : Crew) : Crew := { k with s := k.s ++ [(10, w)] }
def cw : W64 := 0x3F00000200
def tCp (w : W64) (b : Block) (mos : List MosEntry) : State := { tS with
  crews := [(tC, copyRegs w tK)], blocks := [(1, b)], launches := [{ tL with lr := tRecF }]
  cores := { Core.reset with mos := mos } :: List.replicate 63 .reset }
def tldI : Instr := .tld ⟨false, 10, 3, 11⟩
def recLoc : List Loc := [.spad 1 0 64]
def tTsr (b : Block) : Tsr := Tsr.ofBytes ((tCp cw b []).readLocs tC recLoc)
def tGeo (w : W64) : Geo := Geo.of [w, 0xFFFFFFFFF0000000, 0, 0, 0] (tTsr tBT) 32
theorem test_meets_CopyIssue : BlockAt (tCp cw tBT []) 1 0 (copyRegs cw tK) ∧ copyForm tldI = some (false, 10, 3, 11) ∧
    copyVals (tCp cw tBT []) tC (copyRegs cw tK) 10 3 11 = [cw, 0xFFFFFFFFF0000000, 0, 0, 0] ∧
    (∃ s1, (tCp cw tBT []).access tC .read 0xFFFFFFFFF0000000 64 = (.ok recLoc, s1)) ∧
    (∃ s1, (tCp cw tBT []).access tC .read 0xFFFFFFFFF0001000 64 = (.error 0x31, s1)) ∧
    (tCp cw tBT []).stalledLocs ((tCp cw tBT []).seat tC) recLoc = false ∧ (tCp cw tBT []).poisonedLocs recLoc = false ∧
    (tCp cw tBT []).tsrOk tC (tTsr tBT) = true ∧ (tCp cw tBT []).tsrOk tC (tTsr tB) = false ∧
    (tCp cw tBT []).pairingBad tC tldI (tGeo cw) = false ∧ (tCp cw tBT []).pairingBad tC (.tgath ⟨false, 10, 3, 11⟩) (tGeo cw) = true ∧
    copyRanges (tGeo cw) = [(0x200, 0x300)] ∧ copyRanges (tGeo 0x3F00000FC0) = [(0xFC0, 0x10C0)] ∧ (tCp cw tBT []).scrchOf 1 = 8 ∧
    (tGeo (cw ||| 0x0004000000000000)).rmask = 4 ∧ ((tCp cw tBT []).recOf tC).csize = 1 ∧
    (tCp cw tBT []).ownTarget tC (tGeo cw) = true ∧ (tCp cw tBT []).ownTarget tC (tGeo (cw ||| 0x0002000000000000)) = false ∧
    (tCp cw tBT []).chunkBusy 1 (tGeo cw).chunks = false ∧ (tCp cw { tBT with chunks := [(1, .held)] } []).chunkBusy 1 (tGeo cw).chunks = true ∧
    (tCp cw tBT []).mosFull tC = false ∧ (tCp cw tBT (List.replicate 64 default)).mosFull tC = true :=
  ⟨⟨rfl, rfl, .inl rfl⟩, rfl, by decide, ⟨_, rfl⟩, ⟨_, rfl⟩, by and_intros <;> decide⟩
theorem test_meets_CopyIssue_first : ¬ CopyWordBad tldI [cw, 0, 0, 0, 0] ∧ CopyWordBad tldI [cw ||| 1, 0, 0, 0, 0] ∧
    CopyWordBad tldI [cw, 0, 0, 0, 0x100000000] ∧ CopyWordBad (.tst ⟨false, 10, 3, 11⟩) [cw ||| 0x0001000000000000, 0, 0, 0, 0] ∧
    ¬ CopyWordBad tldI [cw ||| 0xFFFF000000000000, 0, 0, 0, 0] := by
  refine ⟨?_, .inr (.inl (by decide)), .inr (.inr (.inl (by decide))), .inr (.inr (.inr ⟨by decide, by intro o h; cases h⟩)), ?_⟩
  · rintro (h | h | h | ⟨h, -⟩) <;> revert h <;> decide
  · rintro (h | h | h | ⟨-, h⟩)
    · revert h; decide
    · revert h; decide
    · revert h; decide
    · exact h _ rfl
-- R269, R274: an accepted copy engages chunk 1 and goes on; R271 check 6: one outside its cluster takes CLRANK (0x40).
theorem test_copy_issue : (nx (exec tldI (tCp cw tBT []))).chunkAt tC 1 = .engaged 1 ∧ (nx (exec tldI (tCp cw tBT []))).chunkAt tC 2 = .idle ∧
    ((nx (exec tldI (tCp cw tBT []))).core 0).mos.length = 1 := by decide

/-! An overlay table of two entries at 0x1000: entry 0 names the header at 0x1040, entry 1 is null (R55, R97); the header has SIZE 64,
a scalar section of 4 bytes at 32 and a lane section of 12 at 48. -/

def tOvMem : List Host.Cell := [(0x1000, 0x40), (0x1001, 0x10), (0x1040, 0x56), (0x1041, 0x4F), (0x1042, 0xC0), (0x1043, 0xC7),
  (0x1045, 1), (0x1048, 32), (0x104A, 4), (0x104C, 48), (0x104E, 12), (0x1050, 64)]
def tOv (m : List Host.Cell) : State := { tM (fun k => k) with mem := m, launches := [{ tL with lr := { tRec with ovtab := 0x1000, ovn := 1 } }] }
def tHead : List Byte := bytesOf 4 0xC7C04F56 ++ [0, 1, 0, 0, 32, 0, 4, 0, 48, 0, 12, 0, 64, 0, 0, 0] ++ List.replicate 12 0
/-- A read at issue gives these bytes. -/
def readIs (r : Issued) (bs : List Byte) : Bool := match r with | .got b _ => b == bs | _ => false
def failsWith (r : Issued) (e : Nat) : Bool := match r with | .bad x _ => x == e | _ => false
def ovS1 : State := ((tOv tOvMem).access tC .read 0x1000 8).2
def ovS2 : State := (ovS1.access tC .execute 0x1040 32).2
theorem test_meets_OverlayLoads : ScalarAt (tOv tOvMem) tC tK ∧ (tOv tOvMem).ovTable tC = (0x1000, 2) ∧ (tOv tOvMem).resident tC 0 = false ∧
    readIs ((tOv tOvMem).issueRead tC .read 0x1000 8) (bytesOf 8 0x1040) = true ∧ readIs (ovS1.issueRead tC .execute 0x1040 32) tHead = true ∧
    ovS2.mosFull tC = false ∧ readIs ((tOv tOvMem).issueRead tC .read 0x1008 8) (bytesOf 8 0) = true ∧
    failsWith (tS.issueRead tC .read 0 8) 0x38 = true ∧
    ovHeadOk tHead 0 = true ∧ ovHeadOk tHead 1 = false ∧ (tOv tOvMem).mosFull tC = false :=
  ⟨⟨rfl, rfl, .inl rfl⟩, by decide⟩
/-- An OVLOAD of overlay 0 to slot 2 whose bytes have all been read; its CHECK is c. -/
def ovEntry (c : Nat) : MosEntry := { tS.newTile tC tK (.ovload ⟨false, 7, 96, 2⟩) [0, 2] with
  tsr := (tHead.take 20 ++ bytesOf 4 c ++ List.replicate 8 0) ++ bytesOf 8 0x1040, started := true, fin := true }
def tOvEnd (c : Nat) : State := { tOv tOvMem with
  cores := { Core.reset with mos := [ovEntry c], slots := [.empty, .empty, ⟨none, false, [(32, 1)], some 1⟩, .empty] } :: List.replicate 63 .reset }
theorem test_meets_OverlayLoads_arrival : ((tOvEnd 0).core 0).mos.find?
      (fun x => (match x.instr with | .ovload _ => true | _ => false) && x.ovSlot == 2 && x.fin) = some (ovEntry 0) ∧
    (tOvEnd 0).stopped (ovEntry 0) = false ∧ (listGet OvSlot.empty ((tOvEnd 0).slotsOf (ovEntry 0).crew) 2).loading = some (ovEntry 0).uid ∧
    crc32 (sparseRead 0 [(32, 1)] 32 32) ≠ ovCheck (ovEntry 0).tsr := by decide

def withChunks (l : Sparse Chunk) : State := { tS with blocks := [(1, { tB with chunks := l })] }
theorem not_named : ¬ Named 6 2 6 := by
  rintro ⟨i, -, h1, h2⟩
  have h : (6 : W64).toNat = 6 := rfl
  obtain rfl : i = 0 := by omega
  revert h1; decide
theorem test_meets_ChunksShapesAndGangs : BlockAt (withChunks [(0, .held), (2, .failed 0x40 0 0x1000), (7, .engaged 9)]) 1 0 tK ∧
    (withChunks []).scrchOf 1 = 8 ∧ Named 7 1 7 ∧ Named 6 3 7 ∧ ¬ Named 6 2 6 ∧ Named 8 1 8 ∧ tK.scalarErr = [] ∧
    (withChunks [(2, .failed 0x40 0 0x1000)]).chunkAt tC 2 = .failed 0x40 0 0x1000 ∧ (withChunks [(2, .failed 0x40 0 0x1000)]).chunkAt tC 7 = .idle ∧
    (withChunks [(7, .engaged 9)]).chunkAt tC 7 = .engaged 9 ∧ (withChunks [(0, .held)]).chunkAt tC 0 = .held ∧
    (17 + 128 * 2 ^ 16 + 4096 * 2 ^ 32 : Nat) < 2 ^ 48 ∧ 2 ^ 48 ≤ (tS.sread tC tK 4).toNat ∧
    (0x7F005 : W64).toNat = 5 + 0 * 2 ^ 8 + 0 * 2 ^ 11 + 127 * 2 ^ 12 ∧ (0x7FE05 : W64).toNat = 5 + 6 * 2 ^ 8 + 1 * 2 ^ 11 + 127 * 2 ^ 12 :=
  ⟨⟨rfl, rfl, .inl rfl⟩, by decide, ⟨0, by decide⟩, ⟨1, by decide⟩, not_named,
   ⟨0, by decide⟩, by and_intros <;> decide⟩

/-! A crew with a grant of 16 by 16 by 16 and context 0; slot 0 is binary32, slot 1 binary16, slot 2 bits (R168 to R171). -/

def tRecX : LaunchRec := { tRec with fmts := [1, 2, 7, 0x10000000, 1, 1, 1, 1], scrch := 8 }
def matrixCrew (k : Crew) : Crew := { k with grant := 0x01000F0F, ctx := some 0, s := (5, 0x200000) :: (6, 0x200) :: k.s.filter (fun p => p.1 < 5) }
def tX (f : Crew → Crew) (m : CtxMode) (h1 : Option CrewRef) (mos : List MosEntry) : State := { tS with
  crews := [(tC, f tK)], launches := [{ tL with lr := tRecX }]
  cores := { Core.reset with mos := mos, ctxs := [{ Ctx.clear (some tC) with mode := m }, .clear h1] } :: List.replicate 63 .reset }
def tX0 : State := tX matrixCrew .f none []
theorem test_meets_ProductAndWeightIssue : BlockAt tX0 1 0 (matrixCrew tK) ∧ (matrixCrew tK).grant ≠ 0 ∧ tK.grant = 0 ∧ tK.ctx = none ∧
    gangCnt (matrixCrew tK).gangw = 0 ∧ tX0.modeAhead tC 0 = (.f, 0) ∧ (tX matrixCrew .d none []).modeAhead tC 0 = (.d, 0) ∧
    tX0.slotOk tC 1 = true ∧ tX0.slotOk tC 2 = true ∧ tX0.slotOk tC 3 = false ∧ (tX0.slotAt tC 1).kind = 2 ∧ (tX0.slotAt tC 2).kind = 7 ∧
    (tX0.tileAt tC 0x200 (gM 0x01000F0F) (gK 0x01000F0F) 1).extent = (0x200, 0x600) ∧ tX0.scrchOf 1 = 8 ∧
    ¬ PastPad tX0 1 (tX0.tileAt tC 0x200 (gM 0x01000F0F) (gK 0x01000F0F) 1).extent ∧
    PastPad tX0 1 (tX0.tileAt tC 0xE00 (gM 0x01000F0F) (gK 0x01000F0F) 1).extent ∧
    imageSize ⟨16, 16, false, 16⟩ (tX0.slotAt tC 1) (tX0.slotAt tC 1) 1024 + 2096128 ≤ 2097152 ∧ tX0.mosFull tC = false := by
  refine ⟨⟨rfl, rfl, .inl rfl⟩, ?_⟩
  unfold PastPad
  decide
theorem test_meets_ContextIssue : BlockAt tX0 1 0 (matrixCrew tK) ∧ ColsOk (Cols.ofNat (16 * 2 ^ 8)) ∧ ScaleOk 0x3F800000 ∧ ¬ ScaleOk 0x7F800000 ∧
    ScaleOk 0x00800000 ∧ (Region.ofNat 0x0F0F0000).nr ≤ 128 ∧ (tX0.core (tX0.coreOf tC)).ctxs[1]? = some (.clear none) ∧ tK.ctx = none ∧
    ((tX (fun k => k) .none (some (.blk 2 0)) []).core 0).ctxs.map (·.holder) = [some tC, some (.blk 2 0)] ∧ tX0.mosFull tC = false :=
  ⟨⟨rfl, rfl, .inl rfl⟩, by unfold ColsOk; decide, by unfold ScaleOk; decide, by unfold ScaleOk; decide, by unfold ScaleOk; decide,
   by and_intros <;> decide⟩

/-! Entries of the MOS queue. -/

def zeroAcq : MosEntry := { tX0.newTile tC (matrixCrew tK) (.mzeroAcq ⟨false, 7⟩) [] with ctx := some 0 }
def normE : MosEntry := { tX0.newTile tC (matrixCrew tK) (.mnorm ⟨false, 1, 2⟩) [0x10000000, 0x0F00] with ctx := some 0 }
def jointE : MosEntry := { tX0.newTile tC (matrixCrew tK) (.mma ⟨false, 1, 2, 0⟩) [0, 0] with gang := 0x205 }
def waitingE : MosEntry := { jointE with arrived := some (3, 0) }
def mosX (e : MosEntry) : State := { tX matrixCrew .f none [e] with clk := ⟨0, 65539, 0, 0, 0⟩ }
theorem test_meets_SequencerSteps : (mosX zeroAcq).tileAtQ 0 0 = some zeroAcq ∧ (mosX zeroAcq).hasStep zeroAcq = true ∧
    (mosX zeroAcq).arrayTurn zeroAcq = true ∧ zeroAcq.isJoint = false ∧ (mosX zeroAcq).crew? tC = some (matrixCrew tK) ∧
    0 < ((mosX zeroAcq).core ((mosX zeroAcq).coreOf tC)).ctxs.length ∧ (mosX zeroAcq).tileAtQ 0 1 = none ∧
    (mosX normE).hasStep normE = true ∧ (Cols.ofNat (0x10000000 : W64).toNat).o0 + (Cols.ofNat (0x10000000 : W64).toNat).no ≤ 128 ∧
    jointE.isJoint = true ∧ jointE.arrived = none ∧ (mosX jointE).tileMoves jointE = true ∧
    (mosX waitingE).tagMembers waitingE = [waitingE] ∧ waitingE.since + 65536 ≤ (mosX waitingE).cclk ((mosX waitingE).dieOf tC) ∧
    (mosX waitingE).hasStep waitingE = false := by decide
def copyE : MosEntry := { (tCp cw tBT []).newTile tC (copyRegs cw tK) tldI [cw, 0xFFFFFFFFF0000000, 0, 0, 0] with
  tsr := (tCp cw tBT []).readLocs tC recLoc, started := true, sp := [(0x200, 0x300)], chunks := [(1, 1)] }
def tCpE (e : MosEntry) : State := { tCp cw { tBT with chunks := [(1, .engaged e.uid), (3, .held)] } [e] with mbox := { Mailbox.reset with state := 0 } }
def imgE : MosEntry := { copyE with instr := .wloadImg ⟨false, 1, 2⟩, tsr := [], chunks := [] }
/-- The core's cached translation maps the low addresses to host memory. -/
def tCpH (e : MosEntry) : State := { tCpE e with
  links := List.replicate 10 (.keyedWith 1)
  ident := { State.reset.ident with shut := 0 }, cores := { Core.reset with mos := [e], tte := [⟨0, 0, 0, 2, 0x80000000000BF⟩] } :: List.replicate 63 .reset }
theorem test_meets_CopyEnds : (tCpE { copyE with fin := true }).tileAtQ 0 0 = some { copyE with fin := true } ∧
    (tCpE copyE).stopped copyE = false ∧ (tCpE copyE).block? 1 = some { tBT with chunks := [(1, .engaged copyE.uid), (3, .held)] } ∧
    copyE.fin = false ∧ copyE.moves = true ∧ imgE.moves = true ∧ copyE.held = false ∧ copyE.met = none ∧ copyE.started = true ∧
    (tCpE { copyE with slow := true }).firmwareRuns = true ∧ ({ copyE with met := some (0x36, 0x2000) } : MosEntry).met ≠ some (cMEMERR, 0x2000) ∧
    ({ copyE with met := some (cMEMERR, 0x2000), replay := 3 } : MosEntry).met = some (cMEMERR, 0x2000) ∧
    (tCpH copyE).tileAtQ 0 0 = some copyE ∧ (tCpH copyE).stepOutside copyE = true := by decide

/-! ### Late faults -/

def withOut (l : List Pending) (k : Crew) : Crew := { k with out := l }
def memE : MemErr := ⟨false, 0x100, 1, 0x1000⟩
def lateErr (k : Crew) : Crew := { k with memerr := [memE], wait := true }
def tileF : TileFault := ⟨0x36, 0x2000, 0x100, 0, 1, false⟩
def faulted (e : MosEntry) : State := { tCpE { e with held := true } with crews := [(tC, { copyRegs cw tK with deferred := [tileF] })] }
theorem test_meets_DeferredAndFetchFaults : (tSwith (withOut [pend7, { pend7 with val := none }, { pend7 with dest := .vreg 33 },
      { pend7 with dest := .pred 3 31 }])).crew? tC = some (withOut [pend7, { pend7 with val := none }, { pend7 with dest := .vreg 33 },
      { pend7 with dest := .pred 3 31 }] tK) ∧ tK.trapping = none ∧ tK.stopping = false ∧ tK.h = false ∧
    (tSwith lateErr).crew? tC = some (lateErr tK) ∧ (lateErr tK).wait = true ∧ tS.savingCrew tC = false ∧
    ((faulted copyE).mosOf tC).find? (fun x => x.uid == 1) = some { copyE with held := true } ∧ copyE.instr.isCopy = true ∧
    ((faulted { zeroAcq with uid := 1 }).mosOf tC).find? (fun x => x.uid == 1) = some { zeroAcq with uid := 1, held := true } ∧
    zeroAcq.instr.isCopy = false := by decide
theorem test_meets_DeferredAndFetchFaults_fetch : (tS.turn = .scalar tC ∧ tS.crew? tC = some tK ∧ tS.fetchScalar tC tK = .error 4) ∧
    (∃ k, ((tF.pick.2).begin (.scalar (.blk 2 0))).fetchScalar (.blk 2 0) k = .ok 0x130E0413) ∧ decodeScalar 0xFFFFFFFF = none ∧
    GangAt tG tT ∧ tG.turn = .gang tC 0 ∧ tG.fetchLane tC tGK (tR.slice 0).pc = .error 4 ∧ decodeLane 0xFFFFFFFF 0 0 = none :=
  ⟨⟨rfl, rfl, rfl⟩, ⟨((((tF.pick.2).begin (.scalar (.blk 2 0))).crew? (.blk 2 0)).getD default), rfl⟩, by decide, gang_tG, rfl, rfl, by decide⟩

/-! ### Serving: a control crew; context 0 is bound to a record with four pages, two frames in T0 and four in T1 -/

def cells (a n v : Nat) : List Host.Cell := ((bytesOf n v).zipIdx.filter (fun p => p.1 != 0)).map (fun p => (a + p.2, p.1))
def tCk : Crew := { Crew.start 0 0x100 0 false 0 with
  s := [(1, 1), (2, 3), (3, 0x1000), (4, 0xFFFFFFFFFFFFFFFF), (5, 0x2000), (6, 0x3000), (8, 2), (9, 0x3040)] }
def servWords : List W64 := [0x400100C01, 0x4000, 4, 0x10000, 0x200000000, 0x010000000000, 0x400000000, 0x100000000000, 0, 0x5000,
  0x6000, 0, 0x7000, 0x8000, 0x9000, 0x0010001000000000]
/-- Page 0 has REF 1 and lies in frame 0 of T1; page 1 has REF 65535; page 2 is migrating; page 3 is the free list. -/
def servMem : List Host.Cell :=
  cells 0x1000 8 0x400100C01 ++
  cells 0x2000 8 0x010000001000 ++ cells 0x2008 8 0x400000003 ++ cells 0x2010 8 0x3000 ++
  cells 0x4000 8 (2 ^ 48 + 2 ^ 29 + 2 ^ 27) ++ cells 0x4020 8 (65535 * 2 ^ 48 + 2 ^ 29 + 2 ^ 27) ++ cells 0x4028 8 (2 ^ 32) ++
  cells 0x4040 8 (2 ^ 48 + 2 * 2 ^ 29 + 2 ^ 27) ++ cells 0x4048 8 (2 * 2 ^ 32) ++ cells 0x4078 8 0xFFFFFFFF ++
  cells 0x5008 1 7 ++ cells 0x7000 8 1 ++ cells 0x7008 8 0x100
def tServ (bound : Option Nat) (st : Nat) : State := { State.reset with
  turn := .scalar (.ctl 0), crews := [(.ctl 0, tCk)], ident := { Ident.reset with shut := 0 }, mem := servMem
  links := List.replicate 10 (.keyedWith 1)
  fore := { State.reset.fore with ctxs := [{ SCtx.reset with bound := bound, words := servWords, freeHd := 3 }, .reset], owner := [(3, 1)] }
  reqs := [(48, BitVec.ofNat 64 (st * 2 ^ 61 + 9))], units := [{ (default : CUnit) with uid := 4, level := .job, id := 4, state := .running }] }
def tSv : State := tServ (some 0x1000) 3
theorem at_serv (b : Option Nat) (st : Nat) : ScalarAt (tServ b st) (.ctl 0) tCk := ⟨rfl, rfl, .inl rfl⟩
theorem test_meets_PageInstructions : ScalarAt tSv (.ctl 0) tCk ∧ (tSv.sctx 0).frozen = false ∧ (tSv.sctx 0).bound ≠ none ∧
    (tSv.sctx 0).freeHd = 3 ∧ tSv.freeFrame 0 1 = some 3 ∧ tSv.freeFrame 0 2 = none ∧ tSv.freeFrame 0 0 = some 0 ∧
    tSv.pageOk 0 0 = true ∧ tSv.pageOk 0 4 = false ∧ (tSv.desc 0 1).ref = 65535 ∧ (tSv.desc 0 0).ref = 1 ∧ tSv.pinPage 0 0 ≠ none ∧
    tSv.pinPage 0 2 = none ∧ (tSv.desc 0 0).tier = 1 ∧ (tSv.desc 0 0).state = 1 ∧ (tSv.desc 0 0).pin = 0 ∧ (tSv.desc 0 2).state = 2 ∧
    (tSv.startMigration 0 0 0 1).isSome = true ∧ tSv.startMigration 0 0 2 1 = none ∧ (tSv.allocPage 0 1).isSome = true ∧
    (tSv.sread (.ctl 0) tCk 4).toNat > 2 := ⟨at_serv _ _, by decide⟩
theorem test_meets_RequestInstructions : ScalarAt (tServ none 3) (.ctl 0) tCk ∧ ((tServ none 3).sctx 0).bound = none ∧
    (tServ none 3).bind 0 0x1001 = none ∧ (tSv.sread (.ctl 0) tCk 3).toNat = 0x1000 ∧ tSv.mayUnbind 0 = false ∧
    tSv.phaseOpen 0 = false ∧ (tSv.liveUnit .job (tSv.sctx 0).job).map (fun j => (j.live, j.closed, j.world)) = some (true, false, false) ∧
    (tSv.word64 (tSv.sctx 0).tmpl).toNat = 1 ∧ (tSv.word64 ((tSv.sctx 0).tmpl + 8)).toNat % 256 = 0 ∧ tSv.freeUnits .phs ≠ 0 ∧
    tSv.freeUnits .gph ≠ 0 ∧ 1 ≤ tSv.freeUnits .lch ∧ tSv.owns 0 3 = true ∧ tSv.owns 0 1 = false ∧ tSv.rState 3 = 3 ∧
    (tServ (some 0x1000) 5).rState 3 = 5 ∧ tSv.inPhase 0 3 = false ∧ (tSv.sread (.ctl 0) tCk 2).toNat = 3 ∧
    (tSv.sread (.ctl 0) tCk 8).toNat = 2 ∧ tSv.reaches (tSv.ctxWorld 0) 0x3000 32 = true ∧ (tSv.word64 0x3018) = 0 := ⟨at_serv _ _, by decide⟩
def tSq : State := { tSv with reqs := [(48, BitVec.ofNat 64 (3 * 2 ^ 61 + 9)), (49, 1), (50, 0x2000000001), (51, 0xA000), (52, 0x300000000)] }
def gotOf (r : Passed) : Option (State × List Batch × Nat) := match r with | .got s b n => some (s, b, n) | .wait _ _ => none | .refused => none
/-- The passes of SQNEXT over the one record: how many entries and tokens the batch has. -/
def passes (s : State) : Option (Nat × Nat) :=
  (gotOf (((s.retireStopping 0).restoreEvicted 0 [3]).decodePass 0 [3] [3] [] 0)).bind (fun r =>
    (gotOf (r.1.prefillPass 0 [3] [3] r.2.1 r.2.2)).map (fun q => (q.2.1.length, q.2.2)))
theorem test_meets_RequestInstructions_phase : (tSq.retireStopping 0).serviceOrder 0 = [3] ∧ passes tSq = some (1, 1) ∧ passes tSv = some (0, 0) := by
  decide
/-- Ranges that an instruction reaches: all of them may be reached, and none stalls. -/
def okSpans (s : State) (l : List (Nat × Nat)) : Bool := l.all (fun r => s.reaches (s.ctxWorld 0) r.1 r.2 && !s.stalledPa 0 r.1 r.2)
/-- The same with the low memory in the secure world, and with page 0 on its way. -/
def secured (s : State) : State := { s with worlds := { s.worlds with secure := [0] } }
def moving (s : State) : State := { s with fore := { s.fore with migs := [⟨0, 0, 0, 0, 0x3000, 0x10000, 4096, 1, .quiet⟩] } }
theorem test_meets_served : okSpans tSv [tSv.descSpan 0 3, tSv.mapSpan 0 1] = true ∧ okSpans tSv (tSv.dropSpans 0 0) = true ∧
    okSpans tSv ((tSv.pageAt 0 0, (tSv.sctx 0).pb) :: tSv.allocSpans 0 1) = true ∧ okSpans tSv [((tSv.sctx 0).tmpl, 16)] = true ∧
    okSpans tSv (tSv.nextSpans 0 [] [256]) = true ∧ okSpans tSv (tSv.retireSpans 0 [3]) = true ∧
    okSpans tSv (((tSv.latchTail 0).admitSpans 0 1)) = true ∧ okSpans tSv ((0x3000, 32) :: (tSv.allPages 3).map (tSv.descSpan 0)) = true ∧
    (secured tSv).reaches false 0x4000 32 = false ∧ (moving tSv).stalledPa 0 0x3000 32 = true ∧ tSv.migrating 0 0 = false ∧
    (moving tSv).migrating 0 0 = true := by decide
def bindMem : List Host.Cell := cells 0x1000 8 0x400100C01 ++ cells 0x1008 8 0x4000 ++ cells 0x1010 8 4 ++ cells 0x1018 8 0x10000 ++
  cells 0x1020 8 0x200000000 ++ cells 0x1028 8 0x010000000000 ++ cells 0x1030 8 0x400000000 ++ cells 0x1038 8 0x100000000000 ++
  cells 0x1048 8 0x5000 ++ cells 0x1050 8 0x6000 ++ cells 0x1060 8 0x7000 ++ cells 0x1068 8 0x8000 ++ cells 0x1070 8 0x9000 ++
  cells 0x1078 8 0x0010001000000000
theorem test_meets_RequestInstructions_binds : (({ tServ none 3 with mem := bindMem } : State).bind 0 0x1000).map (fun s => (s.sctx 0).freeHd) = some 0 ∧
    (0x2000 : Nat) ≠ 0x1000 ∧ tSv.sending 3 = false ∧
    ({ tSv with fore := { tSv.fore with sends := [⟨0, 3, 9, 2, 7, none⟩] } } : State).sending 3 = true := by decide
theorem test_meets_SamplingInstructions : ScalarAt tSv (.ctl 0) tCk ∧ tSv.window? 0 0x2000 = some ⟨0x010000001000, 4, 3, 0x3000⟩ ∧
    tSv.window? 0 0x2020 = none ∧ (∀ r ∈ tSv.fore.rows, r.row ≠ 0x010000001000) ∧ tSv.owns 0 3 = true ∧ tSv.rState 3 = 3 ∧
    tSv.reaches (tSv.ctxWorld 0) 0x3000 528 = true ∧ (tSv.readShort 0x3000).ok = true ∧ tSv.rNdraft 3 = 0 ∧
    ({ tSv with mem := cells 0x3008 4 0x800 } : State).readShort 0x3000 = ⟨0, 0, 0, true, 0, [], true⟩ := ⟨at_serv _ _, by decide⟩

/-! ### The front end: queue 0 has a ring of 4,096 bytes at 0x10000 with one packet; n bytes are there -/

def tQueue (n : Nat) : Queue := { Queue.reset with base := 0x10000, en := true, log2sz := 12, tail := BitVec.ofNat 32 n }
def tFE (q : Queue) (m : List Host.Cell) : State := { State.reset with
  queues := q :: List.replicate 31 .reset, mem := m, ident := { Ident.reset with shut := 0 }, mbox := { Mailbox.reset with state := 0, mode := 0 }
  clk := ⟨0x480000400, 0, 0, 0, 0⟩, links := List.replicate 10 (.keyedWith 1)
  units := [{ (default : CUnit) with uid := 4, level := .job, id := 4, state := .running },
    { (default : CUnit) with uid := 5, level := .phs, id := 5, state := .running, left := 1, out := 1, parent := some 4 }] }
def predMem : List Host.Cell := cells 0x10000 8 (0x20 + 9 * 2 ^ 8 + 4 * 2 ^ 16 + 1 * 2 ^ 32) ++ cells 0x10008 8 0x20000
def predW (c : BitVec 2) : PredPkt := ⟨c, 1, 0x20000, 0, 0⟩
def tFQ : State := tFE (tQueue 32) predMem
theorem test_meets_PacketsAndStorage : tFQ.firmwareRuns = true ∧ tFQ.laneReady 0 = true ∧ tFQ.nextPacket 0 = some (.wait (predW 1)) ∧
    tFQ.predOk 0 (predW 1) = true ∧ tFQ.predHolds 0 (predW 1) = false ∧ tFQ.predHolds 0 (predW 0) = true ∧
    tFQ.predOk 0 ⟨0, 1, 0x20004, 0, 0⟩ = false ∧
    (tFE { tQueue 32 with predAt := some 0x480000000 } predMem).predLate 0 1 = true ∧ tFQ.predLate 0 1 = false ∧
    (tFE (tQueue 8) (cells 0x10000 8 0xFF)).nextPacket 0 = some (.bad cBADPKT) ∧
    (tFQ.liveUnit .job 4).map (·.live) = some true ∧ tFQ.liveUnit .job 6 = none ∧ tFQ.freeUnits .job ≠ 0 ∧ tFQ.liveUnit .phs 6 = none ∧
    (tFQ.liveUnit .phs 5).map (fun u => (u.live, u.left)) = some (true, 1) ∧ tFQ.liveUnit .gph 6 = none ∧
    tFQ.frontOk 0 0x20000 256 = true ∧ tFQ.frontOk 0 0x0C0000000000 8 = false ∧ (tQueue 32).avail = 32 ∧ (tQueue 32).depth = 0 := by decide
def tDrive (n : Nat) : Drive := { Drive.reset with en := true, qsize := 1, cmds := List.replicate n ⟨7, 0, 0x80000400, some 0, []⟩ }
def tDr (n : Nat) : State := { tFQ with drives := tDrive n :: List.replicate 7 .reset }
theorem test_meets_PacketsAndStorage_drive : ((tDr 0).queue 0).sread = none ∧ ((tDr 0).drive 0).en = true ∧ ((tDr 0).queue 0).world = false ∧
    (tDr 0).frontOk 0 0x20000 512 = true ∧ (0 : Nat) < 1 ∧ ((tDr 1).drive 0).qsize.toNat ≤ ((tDr 1).drive 0).cmds.length ∧
    ((tDr 1).drive 0).cmds.find? (fun y => y.cid == 7) = some ⟨7, 0, 0x80000400, some 0, []⟩ ∧ (tDr 1).postFull = false ∧
    0x80000400 + 2 ^ 34 ≤ (tDr 1).hclk ∧ (2047 + 1) * 2 ^ (0 + 9) = 0x100000 := by decide

/-! ### Claims, growth, placement and saving -/

def tClaim : Claim := ⟨tC, 3, 0, 7, false⟩
def claimCore (f : Core → Core) (s : State) : State := { s with cores := f Core.reset :: List.replicate 63 .reset, clk := ⟨0, 5000, 0, 0, 0⟩ }
def waitingClaim (c : Core) : Core := { c with claims := [tClaim], deadSince := some 3000 }
def growRec : LaunchRec := { tRec with grow := true, prio := 1, attach := 0x200 }
def tGrow (n : Nat) (b : Block) : State := { tS with
  ident := { Ident.reset with shut := 0 }, mbox := { Mailbox.reset with state := 0, mode := 0 }, clk := ⟨0, 5000, 0, 0, 0⟩
  launches := [{ tL with lr := { growRec with maxc := n } }], blocks := [(1, b)]
  units := [{ (default : CUnit) with uid := 5, level := .lch, state := .running }] }
theorem test_meets_CoreAndBlockEvents : ((claimCore waitingClaim tS).core 0).claims = [tClaim] ∧ (claimCore waitingClaim tS).crew? tC = some tK ∧
    tClaim.n ≤ (claimCore waitingClaim tS).freeGroups 0 ∧ (claimCore waitingClaim fullPool).freeGroups 0 < tClaim.n ∧
    ((claimCore waitingClaim fullPool).core 0).deadSince = some 3000 ∧ 3000 + 1024 ≤ (claimCore waitingClaim fullPool).cclk 0 ∧
    (claimCore waitingClaim fullPool).claimDead 0 = false ∧
    (claimCore waitingClaim { fullPool with crews := [(tC, { tK with groups := 1024 })] }).claimDead 0 = true ∧
    (tGrow 2 tB).frozen = false ∧ (tGrow 2 tB).coreUp 0 = true ∧ ((tGrow 2 tB).core 0).claims = [] ∧
    ((tGrow 2 tB).crewsOn 0).length < 32 ∧ ((tGrow 2 tB).core 0).lastGrow + 16 ≤ (tGrow 2 tB).cclk ((tGrow 2 tB).dieOfCore 0) ∧
    (∀ l ∈ (tGrow 2 tB).launches, l.lr.maxc ≤ 16) ∧ (1, tB) ∈ (tGrow 2 tB).blocksOn 0 ∧ (tGrow 2 tB).mayGrow 0 (1, tB) = true ∧
    (∀ p ∈ (tGrow 1 tB).blocksOn 0, (tGrow 1 tB).mayGrow 0 p = false) ∧ (tGrow 2 tB).shrinkTarget 0 = none := by decide
/-- Two crews above the minimum of one, and a claim that has waited since 0. -/
def tShrink : State := { tGrow 2 tB with
  crews := [(tC, tK), (.blk 1 1, tK)], cores := { Core.reset with claims := [tClaim] } :: List.replicate 63 .reset
  blocks := [(1, { tB with members := 2 })] }
def tShr : State := { tGrow 2 tB with cores := { Core.reset with shrink := some ⟨1, 5000⟩ } :: List.replicate 63 .reset, clk := ⟨0, 70536, 0, 0, 0⟩ }
def savingB : Block := { tB with saving := true }
def tSavedS : State := { tGrow 2 savingB with launches := [{ tL with saved := [⟨1, 0, 0x30000, [], tB, [], []⟩] }] }
theorem test_meets_CoreAndBlockEvents_2 : tShrink.shrinkTarget 0 = some 1 ∧ tShrink.coreIn 0 = true ∧ (tShrink.core 0).shrink = none ∧
    (tShr.core 0).shrink = some ⟨1, 5000⟩ ∧ tShr.block? 1 = some tB ∧ 5000 + 64 * 1024 ≤ tShr.cclk (tShr.dieOfCore 0) ∧
    tS.scalarReady tC tK = false ∧ (tGrow 2 tB).scalarReady tC tK = true ∧ tK.sinceS + 4096 ≤ (tGrow 2 tB).cclk 0 ∧
    ({ tG with ident := { Ident.reset with shut := 0 }, mbox := { Mailbox.reset with state := 0 } } : State).gangReady tC tGK 0 = true ∧
    (tGrow 2 tB).launches.filter (fun l => l.lr.prio == 1) ≠ [] ∧ ((tGrow 2 tB).serveClass []).2 = false ∧
    (tGrow 2 savingB).resuming 1 = false ∧ (tGrow 2 savingB).saveGroup 1 = [1] ∧ (tGrow 2 savingB).crewsOf 1 = [0] ∧
    (tGrow 2 savingB).crewSaveable tC tK = true ∧ tSavedS.resuming 1 = true ∧
    ({ tL with saved := [⟨1, 0, 0x30000, [], tB, [], []⟩] } : Launch).saved.find? (fun w => w.bid == 1) = some ⟨1, 0, 0x30000, [], tB, [], []⟩ ∧
    tSavedS.areaOk tL ⟨1, 0, 0x30000, [], tB, [], []⟩ = false ∧
    ({ tSavedS with mem := cells 0x30000 8 0xC7C05356 } : State).areaOk tL ⟨1, 0, 0x30000, [], tB, [], []⟩ = true := by decide
def tCancel (st : UState) (stop : Option Nat) : State := { tGrow 2 tB with
  units := [{ (default : CUnit) with uid := 4, level := .gph, state := st }, { (default : CUnit) with uid := 5, level := .lch, state := st }]
  launches := [{ tL with stop := stop }] }
theorem test_meets_CoreAndBlockEvents_cancel : ((tCancel .cancelling none).unit? 5).map (fun x => (x.level, x.state)) = some (.lch, .cancelling) ∧
    ((tCancel .running (some 3)).launch? 5).map (·.stop) = some (some 3) ∧ ((tCancel .running none).launch? 5).map (·.stop) = some none ∧
    ((tCancel .running (some 3)).unit? 5).map (·.live) = some true ∧
    ((tCancel .cancelling none).unit? 4).map (fun x => (x.level, x.state)) = some (.gph, .cancelling) ∧
    (∀ y ∈ (tCancel .cancelling none).units, y.parent = some 4 → y.unfinished = false) := by decide

/-! ### Pages, generations, bells and handoffs -/

def tMig : Migration := ⟨0, 0, 0, 0, 0x010000000000, 0x10000, 4096, 1, .quiet⟩
def tNotes (l : List (Nat × W64)) (h : W32) : State := { tSv with notify := ⟨0x40000, true, 4, h, 16, l, []⟩ }
def tSend (w : BitVec 8) : State := { tSv with
  fore := { tSv.fore with sends := [⟨0, 3, 9, 2, 7, none⟩], migs := [tMig] }, worlds := { tSv.worlds with port := w }
  peers := ⟨[⟨2, 7, 0, 15, .reset, .reset⟩], 0, [], [], none, none⟩ }
def tTouch : State := { tSwith (fun k => { k with ftReq := some (0x10000, false) }) with fore := { State.reset.fore with ftq := [tC] } }
def tHand : List W64 := [5, 0x100000001, 0x100000000, 0xA000, 0x200000000, 0, 0, 0, 0, 0, 0, 0, 0, 0, 0, 0]
theorem test_meets_PageAndRingEvents : (tSend 0).fore.migs[0]? = some tMig ∧ (tSend 0).fore.migs[1]? = none ∧
    ((tSv.sctx 0).bound ≠ none ∧ (tSv.sctx 0).frozen = false ∧ 0 < (tSv.sctx 0).npg ∧ (tSv.desc 0 0).tier ≠ 0 ∧ (tSv.desc 0 0).state = 1 ∧
      (tSv.desc 0 0).pin = 0 ∧ (tSv.desc 0 0).ref ≠ 0) ∧ (tSv.startMigration 0 0 0 0).isSome = true ∧
    tSv.spaces.length = 34 ∧ (tSv.space 0).ack = (tSv.space 0).gen ∧
    (({ tSv with spaces := { Space.reset with gen := 0, ack := 0xFFFF } :: List.replicate 33 .reset } : State).space 0).ack + 1 = 0 ∧
    (tNotes [(1, 2)] 1).notify.waiting = [(1, 2)] ∧ ((tNotes [] 1).notify.tail - (tNotes [] 1).notify.head).toNat ≠ 2 ^ 4 ∧
    ((tNotes [] 0).notify.tail - (tNotes [] 0).notify.head).toNat = 2 ^ 4 ∧
    (tSend 0).fore.sends.find? (fun y => y.ctx == 0) = some ⟨0, 3, 9, 2, 7, none⟩ ∧ (tSend 0).epOpen 0 2 7 = true ∧
    (tSend 4).epOpen 0 2 7 = false ∧ tTouch.fore.ftq = [tC] ∧
    tTouch.crew? tC = some { tK with ftReq := some (0x10000, false) } := by decide
def tInS : State := { tSv with mem := servMem ++ cells 0xA000 8 0xFFFFFFFFFFFFFFFF }
theorem test_meets_PageAndRingEvents_inbound : tHand.length = 16 ∧ tInS.entryOk 0 (tHand.map (·.toNat)) = true ∧
    ceilDiv (bitsN (listGet 0 (tHand.map (·.toNat)) 1) 63 32) (tInS.sctx 0).tpp = 1 ∧ tInS.freeRec = some 0 ∧
    (tInS.fillInbound 0 0xA000 [[1]] 0).isSome = true ∧ (tInS.fillInbound 0 0xA000 [[1], [2]] 0) = none := by decide

/-! ### Registers, the mailbox, the Porter, links, peers and errors -/

/-- A queue near the wrap of its byte counts, a ring of 4,096 bytes. -/
def wrapQ : Queue := { tQueue 0 with head := 0xFFFFFF00, tail := 0xFFFFFFF8 }
theorem test_meets_RegistersAndMailbox : ((tFE wrapQ []).queue 0 = wrapQ ∧ ((0 : W32) - wrapQ.tail).toNat ≠ 0 ∧ ((0 : W32) - wrapQ.tail).toNat < 2 ^ 31 ∧
      (0 : W32).toNat % 8 = 0 ∧ ((0 : W32) - wrapQ.head).toNat ≤ 2 ^ wrapQ.log2sz.toNat ∧ 2 ^ wrapQ.log2sz.toNat < ((0xF08 : W32) - wrapQ.head).toNat ∧
      ((0xF00 : W32) - wrapQ.head).toNat ≤ 2 ^ wrapQ.log2sz.toNat ∧ 2 ^ 31 ≤ ((0xFFFFFFF0 : W32) - wrapQ.tail).toNat) ∧
    (wrapQ.en = true ∧ Queue.reset.en = false ∧ Queue.reset.head = Queue.reset.tail ∧ (0x10C : W32).toNat.testBit 8 = true ∧
      ((0x10C : W32).setWidth 5 : BitVec 5).toNat = 12 ∧ ((0x11F : W32).setWidth 5 : BitVec 5).toNat = 31) ∧
    ((tFE wrapQ []).queue 0).world = false ∧ ((tNotes [] 1).notify.log2n.toNat = 4) ∧
    (((2 : W32) - (tNotes [] 1).notify.head).toNat ≠ 0 ∧
      ((2 : W32) - ((tNotes [] 1).notify.tail - BitVec.ofNat 32 (2 ^ 4))).toNat ≤ 2 ^ 4 ∧
      2 ^ 4 < ((17 : W32) - ((tNotes [] 1).notify.tail - BitVec.ofNat 32 (2 ^ 4))).toNat) ∧
    (0x1002 < 0x100000 ∧ ¬ ((8 : Nat) = 8 ∧ 0x1004 % 8 = 0) ∧ ¬ ((2 : Nat) = 4 ∧ 0x1004 % 4 = 0)) := by decide
def tMb (st : BitVec 3) (mode : BitVec 2) (held : Bool) : State := { tFQ with
  mbox := { Mailbox.reset with state := st, mode := mode, held := held, wdStart := 0x400000400, times := [1, 2, 3] } }
theorem test_meets_RegistersAndMailbox_2 : (tMb 0 0 false).mbox.busy = false ∧ (tMb 2 3 false).mbox.state.toNat = 2 ∧
    ((tMb 2 3 false).queue (tMb 2 3 false).mbox.queue.toNat).world = false ∧
    (((tMb 2 3 false).fetchHeader 0).fetchPacket 0).laneReady 0 = true ∧
    (((tMb 2 3 false).fetchHeader 0).fetchPacket 0).nextPacket 0 = some (.wait (predW 1)) ∧ (tMb 4 1 true).mbox.held = true ∧
    3 ≤ (recentRestarts (tMb 4 1 true).hclk (tMb 4 1 true).mbox.times).length ∧ (tMb 0 0 false).launchLive = false ∧
    (tGrow 2 tB).launchLive = true ∧ (tMb 0 2 false).mbox.mode = 2 ∧ 7 < (8 : BitVec 4).toNat ∧ (tMb 0 0 false).powered = true ∧
    (tMb 0 0 false).mbox.wdStart.toNat + 2 ^ 31 ≤ (tMb 0 0 false).hclk := by decide
/-- Chiplet i is the next to be attested: the ones before it have been. -/
def tPort (shut : BitVec 17) (mode : BitVec 2) : State := { State.reset with
  porter := { (default : Porter) with booted := true, session := true, log := [(0, [1])], misses := [(1, 2)], askedAt := 5 }, ident := { Ident.reset with shut := shut }, clk := ⟨0x10000005, 0, 0, 0, 0⟩
  mbox := { Mailbox.reset with state := 0, mode := mode }, worlds := ⟨[7], [3, 7], 0, 0, 0, 0⟩
  queues := { Queue.reset with world := true } :: List.replicate 31 .reset }
/-- Chiplet 1 is attested again: its recorded measurements are m. -/
def knownPort (m : List Nat) : State := { tPort 2 1 with porter := { (tPort 2 1).porter with recorded := [(1, m)] } }
theorem test_meets_PorterRequests : State.reset.powered = true ∧ State.reset.porter.log = [] ∧ (tPort 2 1).porter.log ≠ [] ∧
    (tPort 2 1).attestNow 1 = true ∧ (tPort 2 1).attestNow 0 = false ∧ (tPort 6 1).attestNow 2 = false ∧
    assocGet (tPort 2 1).porter.recorded 1 = none ∧
    assocGet (knownPort [1, 2, 3]).porter.recorded 1 = some [1, 2, 3] ∧ (knownPort [1, 2, 3]).attestNow 1 = true ∧
    assocGet (knownPort [0, 0, 9]).porter.recorded 1 =
      some [(listGet default (knownPort []).fuses.chips 1).serial, (knownPort []).fuses.step.toNat, 9] ∧ (tPort 2 1).porter.askedAt + 2 ^ 28 ≤ (tPort 2 1).hclk ∧
    (assocGet (tPort 2 1).porter.misses 1).getD 0 + 1 = 3 ∧ (tPort 0 1).firmwareRuns = true ∧ (tPort 0 1).mbox.mode = 1 ∧
    (∀ i < 17, (tPort 0 1).shuttered i = true → i ∉ (tPort 0 1).ident.failed → (tPort 0 1).routeOpen i = false) ∧
    (1 < 17 ∧ (tPort 2 1).shuttered 1 = true ∧ 1 ∉ (tPort 2 1).ident.failed ∧ (tPort 2 1).routeOpen 1 = true) ∧
    (tPort 0 1).ctls.length = 2 := by decide
theorem test_meets_PorterRequests_2 : (tPort 0 1).spaces.length = 34 ∧ (tPort 0 1).shuttered 2 = false ∧ ((tPort 0 1).ctl 1).started = false ∧
    (tPort 0 1).porter.session = true ∧ (tPort 0 1).porter.booted = true ∧ granuleOk 1 = true ∧ granuleOk 255 = true ∧ granuleOk 256 = false ∧
    7 ∈ (tPort 0 1).worlds.secure ∧ 7 ∈ (tPort 0 1).worlds.closed ∧ 3 ∉ (tPort 0 1).worlds.secure ∧ 3 ∈ (tPort 0 1).worlds.closed ∧
    1 ∉ (tPort 0 1).worlds.closed ∧ ((tPort 0 1).queue 0).world = true := by decide
/-- A keyed direction: four flits of the open group sent, a key in the idle slot when b. -/
def tLink (b : Bool) : Link := { Link.reset with
  txKeys := [some 1, if b then some 2 else none], rxKeys := [some 1, if b then some 2 else none], sent := 4, buffer := [(0, 1), (1, 1), (2, 1), (3, 1)] }
def tLk (x : Link) : State := { State.reset with links := x :: List.replicate 9 .reset, clk := ⟨0, 0x100000, 0, 0, 0⟩ }
theorem test_meets_LinksAndOutside : (tLk (tLink false)).powered = true ∧ (tLk (tLink false)).dir 0 = tLink false ∧ (tLink false).isKeyed = true ∧
    (0 : Nat) % 4 = 0 ∧ (tLink false).acked = 0 ∧ ((tLink false).sendMany (0 + 4 - (tLink false).sent)).sent = 4 ∧
    ((Link.reset).sendMany 0).sent < 0 + 4 ∧ (tLink false).switch = none ∧ slotKey (tLink false).txKeys (1 - (tLink false).slot) = none ∧
    slotKey (tLink true).txKeys (1 - (tLink true).slot) ≠ none ∧ (tLink true).sent ≤ 8 ∧ 8 % 4 = 0 ∧
    ({ tLink false with switch := some 0 } : Link).switch = some 0 ∧ (0 : Nat) ≤ (tLink false).acked ∧ (tLk (tLink false)).links.length = 10 ∧
    ((tLk { tLink false with held := [(.tile 5, 0)] }).dir 0).held = [(.tile 5, 0)] ∧ (linkEnds 0).1 = 1 ∧ 0 + 2 ^ 20 ≤ (tLk (tLink false)).clockOf 1 ∧
    (tPort 0 1).endpoint? 2 7 = none ∧ (tSend 0).endpoint? 2 7 = some ⟨2, 7, 0, 15, .reset, .reset⟩ := by decide
/-- An open endpoint whose address space 0 maps the low addresses by a leaf at the root's entry 0 (R283). -/
def tIn (f : Nat) : State := { tSv with
  mem := cells 0x1000 1 9 ++ cells 0x10000 8 0xBF, spaces := { Space.reset with root := 1, en := true } :: List.replicate 33 .reset
  peers := ⟨[⟨2, 7, 0, f, .reset, .reset⟩], 0, [⟨2, 7, 5, 0⟩], [⟨0x9000000000000, 0x9000000010000, 2, 7⟩], none, none⟩, clk := ⟨0x40000000, 0, 0, 0, 0⟩ }
def partsIs (r : Except Nat (List Loc)) (l : List Loc) : Bool := match r with | .ok x => x == l | _ => false
def partsFail (r : Except Nat (List Loc)) (e : Nat) : Bool := match r with | .error x => x == e | _ => false
theorem test_meets_LinksAndOutside_2 : (tIn 14).endpoint? 2 7 = some ⟨2, 7, 0, 14, .reset, .reset⟩ ∧
    partsIs ((tIn 0).inboundParts ⟨2, 7, 0, 0, .reset, .reset⟩ .read 0x1000 8) [locMem 0x1000 8] = true ∧
    partsFail ((tIn 0).inboundParts ⟨2, 7, 1, 0, .reset, .reset⟩ .read 0x1000 8) cNOPAGE = true ∧
    (tIn 0).stalledLocs 0 [locMem 0x1000 8] = false ∧ (tIn 0).poisonedLocs [locMem 0x1000 8] = false ∧
    (tIn 0).peers.inbound[0]? = some ⟨2, 7, 5, 0⟩ ∧ 0 + 2 ^ 30 ≤ (tIn 0).hclk ∧ isDev 0x1000 = false ∧ (tIn 0).backedRange 0x1000 8 = true ∧
    (tIn 0).worldRange false 0x1000 8 = true ∧ (tIn 0).backedRange 0x0C0000000000 8 = false ∧
    ({ tIn 0 with worlds := { (tIn 0).worlds with secure := [0] } } : State).worldRange false 0x1000 8 = false := by decide
def tErr : State := { State.reset with
  ident := { Ident.reset with shut := 0, stepAt := [none, some 5, none, none, none] }, mbox := { Mailbox.reset with state := 0 }, porter := { (default : Porter) with booted := true, log := [(0, [1])] }
  clk := ⟨0, 0x400005, 0, 0, 0⟩, cores := { Core.reset with errors := [1, 2, 2 ^ 44 + 1] } :: { Core.reset with errors := [1, 2, 2 ^ 44 + 2] } :: List.replicate 62 .reset }
theorem test_meets_ErrorsAndHealth : mapped 0x1000 = true ∧ tErr.backed 0x1000 = true ∧ 0x1000 / 8 ∉ tErr.poison ∧ tS.block? 1 = some tB ∧
    0 < tErr.cores.length ∧ tErr.fore.ctxs.length = 2 ∧ tErr.firmwareRuns = true ∧ tErr.coreIn 0 = true ∧
    threeErrors (tErr.core 0).errors = true ∧ threeErrors (tErr.core 1).errors = false ∧ tErr.blocksOn 0 = [] ∧ tErr.slicePage 0 = none ∧
    tErr.sliceFrames 0 = [] ∧ tErr.porter.booted = true ∧ 3 ∉ tErr.ident.failed ∧ tErr.shuttered 1 = false ∧ tErr.ident.stepAt.length = 5 ∧
    tErr.ident.stepAt[1]? = some (some 5) ∧ (5 : Int) + 2 ^ 22 ≤ (tErr.clockOf 1 : Int) ∧ tErr.ident.stepAt[0]? = some none ∧ 100 < tErr.ident.mhz 1 ∧
    3300 ≤ tErr.ident.mhz 1 ∧ ({ tErr.ident with c0clk := 3200 } : Ident).mhz 1 < 3300 := by decide

/-! ### Ordering: interleaved executions of the litmus cases (10_order_model) -/

/-- A read or write of one byte of memory by the scalar thread of crew c, in its block and cluster. -/
def acc (c seq byte : Nat) (f : Form) : Ev :=
  { (default : Ev) with who := .crew c c c, place := .scalar, seq := seq, bytes := [byte], memory := true, form := f, scope := .dv }
def arFence (c seq : Nat) : Ev := { acc c seq 0 (.fence .ar) with bytes := [] }
/-- A write by the host through port 0; a flip, and the wait that it ends (R250). -/
def hostWr (seq byte : Nat) : Ev := { acc 0 seq byte .write with who := .host 0 }
def passing (c seq : Nat) (give : Bool) : Ev :=
  { acc c seq 0 .mark with bytes := [], gives := if give then [.flip 4 0] else [], takes := if give then [] else [.flip 4 0] }
def litmus (evs : List Ev) (work : List (List Did)) (src : List (Nat × Nat)) : Execution :=
  ⟨evs, [], work, fun r _ => assocGet src r, fun _ i => i, fun r _ => match assocGet src r with | some _ => 1 | none => 0, fun _ _ => 1,
    fun _ => 0, fun i => i⟩
/-- Event v writes byte a. -/
def writesB (x : Execution) (v a : Nat) : Bool := (x.ev v).wr && (x.ev v).bytes.contains a
/-- Two events of one crew, of one block, or of one port, stand in their order, and so do what gives and what takes. -/
def pairB (x : Execution) (i j : Nat) : Bool :=
  !((x.ev i).who.home.any (fun c => (x.ev j).who.home == some c && x.placeFirst c (x.ev i) (x.ev j)) || decide ((x.ev i).life < (x.ev j).life) ||
    (x.ev i).gives.any ((x.ev j).takes.contains ·) ||
    ((x.ev i).port.isSome && (x.ev i).port == (x.ev j).port && decide ((x.ev i).seq < (x.ev j).seq))) || decide (i < j)
/-- A read returns the latest write before it. -/
def readB (x : Execution) (src : List (Nat × Nat)) (r a : Nat) : Bool :=
  match assocGet src r with
  | some w => decide (w < r) && writesB x w a && (List.range r).all (fun v => decide (v ≤ w) || !writesB x v a)
  | none => (List.range r).all (fun v => !writesB x v a)
/-- What is checked of event j. -/
def evB (x : Execution) (src : List (Nat × Nat)) (n j : Nat) : Bool :=
  (List.range n).all (fun i => pairB x i j) && (x.deps j).all (fun i => decide (i < j)) &&
  (!(x.ev j).rd || (x.ev j).bytes.all (fun a => readB x src j a))
def orderedB (x : Execution) (src : List (Nat × Nat)) : Bool :=
  (List.range x.evs.length).all (fun j => evB x src x.evs.length j) &&
  x.work.all (fun l => l.all (fun d => d.evs.all (fun j => decide (j < x.evs.length))))
theorem ev_past (x : Execution) (j : Nat) (h : ¬ j < x.evs.length) : x.ev j = default := by
  have : ∀ (l : List Ev) (n : Nat), ¬ n < l.length → listGet default l n = default := by
    intro l; induction l with
    | nil => intro n _; rfl
    | cons x l ih => intro n hn; cases n with
      | zero => simp at hn
      | succ n => exact ih n (by simpa using hn)
  exact this x.evs j h
theorem depsIn_none (rd : Nat → Bool) (j : Nat) (l : List (List Did)) (h : ∀ ds ∈ l, ∀ d ∈ ds, j ∉ d.evs) (t : Taint) :
    depsIn rd j t l = [] := by
  induction l generalizing t with
  | nil => rfl
  | cons ds l ih =>
    have e : ds.filter (fun d => d.evs.contains j) = [] := List.filter_eq_nil_iff.mpr (fun d hd => by simpa using h ds (by simp) d hd)
    rw [depsIn, e, ih (fun es he => h es (by simp [he]))]; rfl
theorem deps_past (x : Execution) (src : List (Nat × Nat)) (h : orderedB x src = true) (j : Nat) (hj : ¬ j < x.evs.length) : x.deps j = [] := by
  simp only [orderedB, Bool.and_eq_true, List.all_eq_true] at h
  rw [Execution.deps, depsIn_none _ j x.work (fun l hl d hd he => hj (by simpa using h.2 l hl d hd j he)) .none]; rfl
theorem host_of_port (e : Ev) (p : Nat) (h : e.who = .host p) : e.port = some p := by simp [Ev.port, h]
theorem interleaved (evs : List Ev) (work : List (List Did)) (src : List (Nat × Nat))
    (h : orderedB (litmus evs work src) src = true) : (litmus evs work src).Allowed := by
  generalize hx : litmus evs work src = x at h ⊢
  have dp := deps_past x src h
  have ep := ev_past x
  simp only [orderedB, Bool.and_eq_true, List.all_eq_true, List.mem_range] at h
  have ev := fun j hj => h.1 j hj
  simp only [evB, Bool.and_eq_true, List.all_eq_true, List.mem_range, decide_eq_true_eq] at ev
  have deps : ∀ i j, i ∈ x.deps j → i < j := by
    intro i j hi
    by_cases hj : j < x.evs.length
    · exact (ev j hj).1.2 i hi
    · rw [dp j hj] at hi; cases hi
  refine Execution.Interleaved.allowed ⟨?_, deps, ?_, ?_, ?_, ?_, ?_⟩
  · rintro i j ⟨hi, hj, ⟨c, e1, e2, hp⟩ | ⟨b, -, -, hl⟩ | ⟨p, e1, e2, -, -, hs⟩ | hd⟩
    · have := (ev j hj).1.1 i hi
      simpa [pairB, e1, e2, hp] using this
    · have := (ev j hj).1.1 i hi
      simpa only [pairB, decide_eq_true hl, Bool.or_true, Bool.true_or, Bool.not_true, Bool.false_or, decide_eq_true_eq] using this
    · have := (ev j hj).1.1 i hi
      simpa only [pairB, host_of_port _ _ e1, host_of_port _ _ e2, decide_eq_true hs, Option.isSome_some, beq_self_eq_true, Bool.and_true, Bool.or_true, Bool.true_or, Bool.not_true, Bool.false_or, decide_eq_true_eq] using this
    · exact deps i j hd
  · rintro i j ⟨p, hg, ht, -⟩
    by_cases hi : i < x.evs.length
    · by_cases hj : j < x.evs.length
      · have := (ev j hj).1.1 i hi
        have hp : (x.ev i).gives.any ((x.ev j).takes.contains ·) = true := List.any_eq_true.mpr ⟨p, hg, by simpa using ht⟩
        simpa only [pairB, hp, Bool.or_true, Bool.true_or, Bool.not_true, Bool.false_or, decide_eq_true_eq] using this
      · rw [ep j hj] at ht; cases ht
    · rw [ep i hi] at hg; cases hg
  · intro r a _; rw [← hx]; rfl
  · rintro r a ⟨hr, ha⟩
    by_cases hl : r < x.evs.length
    · have h2 := (ev r hl).2
      rw [hr] at h2
      simp only [Bool.not_true, Bool.false_or, List.all_eq_true] at h2
      have h3 := h2 a ha
      have hsrc : x.src r a = assocGet src r := by rw [← hx]; rfl
      rw [hsrc]
      unfold readB at h3
      cases hs : assocGet src r with
      | none =>
        rw [hs] at h3
        simp only [List.all_eq_true, List.mem_range, writesB, Bool.not_eq_true', Bool.and_eq_false_iff] at h3
        rintro v hv ⟨w1, w2⟩
        rcases h3 v hv with h3 | h3
        · simp [w1] at h3
        · simp [w2] at h3
      | some w =>
        rw [hs] at h3
        simp only [Bool.and_eq_true, decide_eq_true_eq, writesB, List.contains_iff_mem, List.all_eq_true, List.mem_range, Bool.or_eq_true,
          Bool.not_eq_true', Bool.and_eq_false_iff] at h3
        refine ⟨h3.1.1, h3.1.2, ?_⟩
        rintro v h4 h5 ⟨w1, w2⟩
        rcases h3.2 v h5 with h6 | h6 | h6
        · omega
        · simp [w1] at h6
        · simp [w2] at h6
    · rw [ep r hl] at ha; cases ha
  · intro a i; rw [← hx]; rfl
  · intro i; rw [← hx]; rfl
/-- Message passing; the host's data and flag; a value under a flip; store buffering; load buffering. -/
def mp : Execution := litmus [acc 1 0 0 (.store .plain), acc 1 1 1 (.store .rel), acc 2 0 1 (.load .acq), acc 2 1 0 (.load .plain)] []
  [(2, 1), (3, 0)]
def hp : Execution := litmus [hostWr 0 0, hostWr 1 1, { acc 2 0 1 (.load .acq) with scope := .sy }, acc 2 1 0 (.load .plain)] []
  [(2, 1), (3, 0)]
def fl : Execution := litmus [acc 1 0 0 (.store .plain), passing 1 1 true, passing 2 0 false, acc 2 1 0 (.load .plain)] [] [(3, 0)]
def sb : Execution := litmus [acc 1 0 0 (.store .plain), arFence 1 1, acc 1 2 1 (.load .plain), acc 2 0 1 (.store .plain), arFence 2 1,
  acc 2 2 0 (.load .plain)] [] [(5, 0)]
def lbWork (c a b : Nat) : List (List Did) :=
  [[⟨(.blk c 0, none), [a], [.s (.blk c 0) false 1], [], [], false, []⟩], [⟨(.blk c 0, none), [b], [], [.s (.blk c 0) false 1], [], false, []⟩]]
def lb : Execution := litmus [acc 2 0 1 (.load .plain), acc 2 1 0 (.store .plain), acc 1 0 0 (.load .plain), acc 1 1 1 (.store .plain)]
  (lbWork 2 0 1 ++ lbWork 1 2 3) [(2, 1)]
theorem test_meets_OrderingOutcomes : mp.Allowed ∧ hp.Allowed ∧ fl.Allowed ∧ sb.Allowed ∧ lb.Allowed :=
  ⟨interleaved _ _ _ (by decide), interleaved _ _ _ (by decide), interleaved _ _ _ (by decide), interleaved _ _ _ (by decide),
   interleaved _ _ _ (by decide)⟩
theorem in_order (x : Execution) (c i j : Nat) (hi : i < x.evs.length) (hj : j < x.evs.length)
    (h : (x.ev i).who.home = some (c, c, c) ∧ (x.ev j).who.home = some (c, c, c) ∧ x.placeFirst (c, c, c) (x.ev i) (x.ev j) = true) :
    x.crewOrder i j := .one ⟨hi, hj, .inl ⟨_, h⟩⟩
theorem not_loose (x : Execution) (i j : Nat) (hi : (x.ev i).held = none) (hj : (x.ev j).held = none) : ¬ x.loose i j := by
  rintro ⟨n, t, ⟨h, -⟩ | ⟨h, -⟩⟩
  · rw [hi] at h; cases h
  · rw [hj] at h; cases h
theorem test_meets_OrderingOutcomes_passing : mp.crewOrder 0 1 ∧ mp.crewOrder 2 3 ∧ mp.src 2 1 = some 1 ∧ (mp.ev 1).rel = true ∧
    (mp.ev 2).acq = true ∧ (mp.ev 1).who.shares (mp.ev 1).sc (mp.ev 2).who = true ∧ mp.firm 3 0 ∧ ¬ mp.loose 0 3 ∧
    mp.writes 0 0 ∧ mp.writes 1 1 ∧ mp.reads 2 1 ∧ mp.reads 3 0 := by
  refine ⟨in_order _ 1 _ _ (by decide) (by decide) (by decide), in_order _ 2 _ _ (by decide) (by decide) (by decide), rfl, rfl, rfl, by decide,
    ?_, not_loose _ _ _ rfl rfl, ⟨rfl, by decide⟩, ⟨rfl, by decide⟩, ⟨rfl, by decide⟩, ⟨rfl, by decide⟩⟩
  rintro w hs; cases hs; exact not_loose _ _ _ rfl rfl
theorem test_meets_OrderingOutcomes_host : (hp.ev 0).who = .host 0 ∧ (hp.ev 1).who = .host 0 ∧ (hp.ev 0).seq < (hp.ev 1).seq ∧
    hp.writes 0 0 ∧ hp.writes 1 1 ∧ (hp.ev 2).acq = true ∧ (hp.ev 2).sc = .sy ∧ hp.crewOrder 2 3 ∧ hp.src 2 1 = some 1 ∧
    fl.crewOrder 0 1 ∧ fl.crewOrder 2 3 ∧ fl.passes 1 2 :=
  ⟨rfl, rfl, by decide, ⟨rfl, by decide⟩, ⟨rfl, by decide⟩, rfl, rfl, in_order _ 2 _ _ (by decide) (by decide) (by decide), rfl,
   in_order _ 1 _ _ (by decide) (by decide) (by decide), in_order _ 2 _ _ (by decide) (by decide) (by decide),
   .flip 4 0, by decide, by decide, by decide⟩
theorem test_meets_OrderingOutcomes_fences : sb.crewOrder 0 1 ∧ sb.crewOrder 1 2 ∧ sb.crewOrder 3 4 ∧ sb.crewOrder 4 5 ∧ sb.covers 1 0 5 ∧
    sb.covers 4 1 2 ∧ sb.covers 4 0 0 ∧ 0 ∈ lb.deps 1 ∧ 2 ∈ lb.deps 3 ∧ lb.src 2 0 = some 1 := by
  refine ⟨in_order _ 1 _ _ (by decide) (by decide) (by decide), in_order _ 1 _ _ (by decide) (by decide) (by decide),
    in_order _ 2 _ _ (by decide) (by decide) (by decide), in_order _ 2 _ _ (by decide) (by decide) (by decide),
    ⟨by decide, ?_⟩, ⟨by decide, ?_⟩, ⟨by decide, ?_⟩, by decide, by decide, rfl⟩
  · rintro w - hs; cases hs; decide
  · rintro w - hs; cases hs
  · rintro w ⟨hs, -⟩; cases hs
/-- The host writes a byte, and reads it: two steps of the package perform two events. -/
noncomputable def hostDoes (k : ExtKind) : Turn := .event (.hostMemoryAccess ⟨0x1000, k, 0⟩)
noncomputable def run0 : State := { tIn 0 with mem := [], blocks := [], agenda := [hostDoes (.write [9]), hostDoes (.read 1)] }
noncomputable def hostRun : Nat → State
  | 0 => run0
  | 1 => nx (step run0)
  | _ => nx (step (nx (step run0)))
noncomputable def hostX : Execution := ⟨[hostWr 0 0x1000, { hostWr 1 0x1000 with form := .read }], [], [[], []],
  fun r _ => if r = 1 then some 0 else none, fun _ i => i, fun _ _ => 9, fun _ _ => 9, run0.byte, fun i => i⟩
def hostLoc (a : Nat) : Spot := if a = 0x1000 then .mem 0x1000 else .gone
theorem host_mem : (hostRun 1).mem = [(0x1000, 9)] ∧ (hostRun 2).mem = [(0x1000, 9)] := ⟨rfl, rfl⟩
theorem host_blocks (k : Nat) : (hostRun k).blocks = [] := match k with | 0 => rfl | 1 => rfl | _ + 2 => rfl
theorem host_posts (k : Nat) : (hostRun k).notify.posts = 0 := match k with | 0 => rfl | 1 => rfl | _ + 2 => rfl
theorem host_acts : ∀ k < 2, ∃ i s1, (hostRun k).acting = some (.event (.hostMemoryAccess i), .hostMemoryAccess i, s1) ∧ s1.notify.tail = 0
  | 0, _ => ⟨_, _, rfl, rfl⟩
  | 1, _ => ⟨_, _, rfl, rfl⟩
  | _ + 2, h => absurd h (by omega)
theorem host_owes (k : Nat) (hk : k < 2) (es : List Ev) : (hostRun k).owes (hostRun (k + 1)) hostLoc es := by
  obtain ⟨a, u, e, h0⟩ := host_acts k hk
  have nb : ∀ j b, (hostRun j).block? b = none := fun j b => by rw [State.block?, host_blocks]; rfl
  refine ⟨?_, ?_, ?_, ?_, ?_, ?_, ?_⟩
  · intro c i s1 _ h; rw [e] at h; cases h
  · intro c j i s1 _ _ h; rw [e] at h; cases h
  · intro b i x y n h; rw [nb] at h; cases h
  · intro m s1 h; rw [State.tileTurn, e] at h; cases h
  · intro b x l p _ _ h; rw [nb] at h; cases h
  · intro n _ h; rw [host_posts] at h; omega
  · intro v b s1 size n h _ hn; rw [e] at h; cases h; rw [h0] at hn; exact absurd hn (by simp)
theorem test_meets_OrderingOutcomes_run : IsRun step hostRun 2 ∧
    hostX.Performs hostRun 2 id (fun _ => hostLoc) (fun i => if i = 0 then run0.byte else (hostRun 1).byte) ∧
    (∀ i j, hostX.first i j → i < j) ∧ (∀ i j, i ∈ hostX.deps j → i < j) ∧ ∀ i j, hostX.passes i j → i < j := by
  have b1 : ∀ a, (hostRun 1).byte a = if a = 0x1000 then 9 else run0.byte a := by
    intro a
    show sparseGet unlistedByte (hostRun 1).mem a = if a = 0x1000 then 9 else sparseGet unlistedByte [] a
    rw [host_mem.1]; simp [sparseGet, unlistedByte]
  have wr : ∀ i a, hostX.writes i a ↔ i = 0 ∧ a = 0x1000 := by
    rintro (_ | _ | i) a <;> simp [Execution.writes, Execution.ev, hostX, listGet, hostWr, acc, Ev.wr, Form.wr]
    exact fun _ h => by cases h
  have rd : ∀ i a, hostX.reads i a ↔ i = 1 ∧ a = 0x1000 := by
    rintro (_ | _ | i) a <;> simp [Execution.reads, Execution.ev, hostX, listGet, hostWr, acc, Ev.rd, Form.rd]
    exact fun _ h => by cases h
  have np : ∀ i, (hostX.ev i).gives = [] ∧ (hostX.ev i).takes = [] ∧ (hostX.ev i).held = none := by
    rintro (_ | _ | i) <;> exact ⟨rfl, rfl, rfl⟩
  have nd : ∀ j, hostX.deps j = [] := fun j => by
    rw [Execution.deps, depsIn_none _ j hostX.work (fun l hl d hd => by
      have : l = [] := by simpa [hostX] using hl
      subst this; cases hd) .none]; rfl
  have sp : ∀ s : State, s.spot (hostLoc 0x1000) = sparseGet unlistedByte s.mem 0x1000 := fun s => by
    rw [show hostLoc 0x1000 = .mem 0x1000 from if_pos rfl, State.spot, show isDev 0x1000 = false by decide]; rfl
  refine ⟨?_, ⟨rfl, rfl, fun k _ => Nat.le_succ k, ?_, fun k hk => host_owes k hk _, ?_, fun _ _ _ => .inl rfl, ?_, ?_, fun _ => rfl, ?_, ?_, ?_, ?_,
    fun _ _ => rfl, fun _ => rfl, ?_, ?_, ?_⟩, ?_, ?_, ?_⟩
  · rintro (_ | _ | k) h
    · rfl
    · rfl
    · omega
  · intro k hk i h1 h2
    obtain ⟨_, _, e, -⟩ := host_acts k hk
    rw [State.does, e]
    refine .inr (.inr ?_)
    show (hostX.ev i).plain ∧ ∃ p, (hostX.ev i).who = .host p
    have : i = k := by simp only [id] at h1 h2; omega
    subst this
    match i, hk with
    | 0, _ => exact ⟨.inr (.inl rfl), 0, rfl⟩
    | 1, _ => exact ⟨.inl rfl, 0, rfl⟩
  · have d : ∀ k < 2, ∀ a b, hostX.did (hostRun k) (hostRun (k + 1)) a b = [] := by
      intro k hk a b; obtain ⟨_, _, e, -⟩ := host_acts k hk; rw [Execution.did, State.dids, e]; rfl
    show [[], []] = [hostX.did (hostRun 0) (hostRun (0 + 1)) _ _, hostX.did (hostRun 1) (hostRun (1 + 1)) _ _]
    rw [d 0 (by decide), d 1 (by decide)]
  · intro k hk a ha
    by_cases h : a = 0x1000
    · subst h
      match k, hk with
      | 0, _ => exact sp _
      | 1, _ => exact sp _
      | 2, _ => exact (sp _).trans (by rw [host_mem.2, ← host_mem.1]; rfl)
    · exact absurd (if_neg h) ha
  · intro k _ i u _ _ h; rw [(np i).2.2] at h; cases h
  · intro i a h; obtain ⟨rfl, rfl⟩ := (wr i a).1 h; exact b1 0x1000
  · intro i a h
    by_cases hi : i = 0
    · subst hi
      have : a ≠ 0x1000 := fun e => h ((wr 0 a).2 ⟨rfl, e⟩)
      simpa [this] using b1 a
    · simp [hi]
  · intro i a h; obtain ⟨rfl, rfl⟩ := (rd i a).1 h; exact (b1 0x1000).symm
  · intro i a h; obtain ⟨rfl, rfl⟩ := (rd i a).1 h
    exact ⟨by decide, (wr _ _).2 ⟨rfl, rfl⟩, fun v h1 h2 => by omega⟩
  · rintro i j ⟨p, h, -⟩; rw [(np i).1] at h; cases h
  · rintro i j p q - h; rw [(np i).1] at h; cases h
  · rintro i j p q - h; rw [(np i).1] at h; cases h
  · rintro i j ⟨hi, hj, ⟨c, e, -⟩ | ⟨b, e, -⟩ | ⟨p, -, -, w1, w2, hs⟩ | hd⟩
    · match i, hi with
      | 0, _ => cases e
      | 1, _ => cases e
    · match i, hi with
      | 0, _ => cases e
      | 1, _ => cases e
    · match i, j, hi, hj with
      | 0, 0, _, _ => cases hs
      | 0, 1, _, _ => decide
      | 1, 0, _, _ => cases w1
      | 1, 1, _, _ => cases w1
    · rw [nd] at hd; cases hd
  · intro i j h; rw [nd] at h; cases h
  · rintro i j ⟨p, h, -⟩; rw [(np i).1] at h; cases h

/-! ### More of what the statements assume: the clauses that the theorems above leave -/

theorem test_meets_StepRunsDecodedInstruction_chosen :
    (∀ k, ((tF.pick.2).begin (.scalar (.blk 2 0))).crew? (.blk 2 0) = some k →
      ((tF.pick.2).begin (.scalar (.blk 2 0))).chosen (.blk 2 0) k false = true ∧ k.wait = false) ∧
    (∀ k, ((tFL.pick.2).begin (.gang (.blk 2 0) 0)).crew? (.blk 2 0) = some k →
      ((tFL.pick.2).begin (.gang (.blk 2 0) 0)).chosen (.blk 2 0) k true = true ∧
      ((tFL.pick.2).begin (.gang (.blk 2 0) 0)).gangTurn (.blk 2 0) k 0 = true) := by
  constructor <;> (intro k h; cases h; decide)
/-- A crew that waits in a BTEST whose overlay has gone, and five crews of its core. -/
def waitsIn (k : Crew) : Crew := { k with wait := true, word := some (0x100, 0x130E0413) }
def manyCrews : State := { tGrow 2 tB with crews := (List.range 5).map (fun j => (.blk 1 j, { tK with age := j })) }
theorem test_meets_StepRunsDecodedInstruction_waiting : ScalarAt (tSwith waitsIn) tC (waitsIn tK) ∧ (waitsIn tK).word = some ((waitsIn tK).pc, 0x130E0413) ∧
    (tSwith waitsIn).fetchScalar tC (waitsIn tK) = .error 4 ∧ decodeScalar 0x130E0413 ≠ none ∧
    (manyCrews.crewsOn 0).length = 5 ∧ manyCrews.chosen (.blk 1 0) { tK with age := 0 } false = true :=
  ⟨at_with _ rfl, rfl, rfl, by decide, by decide, by decide⟩

/-! Traps, and the ends of crews. -/

def gangReplay (m : W32) (k : Crew) : Crew := { gangHandler k with tr := { (gangHandler k).tr with trep := m }, hrun := none }
theorem test_meets_ExceptionReturn_replay : ScalarAt (tSwith (gangReplay 5)) tC (gangReplay 5 tK) ∧ (gangReplay 5 tK).tr.trep ≠ 0 ∧
    (gangReplay 5 tK).unread = false ∧ ({ gangReplay 5 tK with h := false } : Crew).runNow = some tR ∧
    (tR.slice 0).live = true ∧ (gangReplay 5 tK).tr.tcause.toNat.testBit 16 = true ∧ (gangReplay 0 tK).tr.trep = 0 ∧
    (((crewOf (exec (.eret ⟨false⟩) (tSwith (gangReplay 5)))).runNow.map (fun r => (r.laneTurn tC tK 0).cur)) = some 5) ∧
    (((crewOf (exec (.eret ⟨false⟩) (tSwith (gangReplay 0)))).runNow.map (fun r => (r.laneTurn tC tK 0).cur)) = some 0xFFFFFFFF) :=
  ⟨at_with _ rfl, by decide⟩
/-- A control crew, with the log enabled at 0x20000, and a block's crew in a handler with the same log. -/
def logOn (s : State) : State := { s with mbox := { s.mbox with elEn := true, elBase := 0x20000, elLog2 := 4 }, links := List.replicate 10 (.keyedWith 1) }
def ctlH : State := logOn { tSwith id with turn := .scalar (.ctl 0), crews := [(.ctl 0, inHandler tK)], ident := { Ident.reset with shut := 0 } }
def tileH (b : Bool) : MosEntry := { tS.newTile tC tK (.mzeroRel ⟨false, 96⟩) [] with held := b }
def haltH (b : Bool) : State := { tSwith inHandler with cores := { Core.reset with mos := [tileH b] } :: List.replicate 63 .reset }
theorem test_meets_TrapEntry_double : ScalarAt ctlH (.ctl 0) (inHandler tK) ∧ ctlH.mbox.elEn = true ∧
    ctlH.reaches false (ctlH.mbox.elBase.toNat + 32 * (ctlH.mbox.elTail.toNat % 2 ^ ctlH.mbox.elLog2.toNat)) 32 = true ∧
    ((nx (exec (.trap ⟨false, 5⟩) ctlH)).crew? (.ctl 0)) = none ∧ (nx (exec (.trap ⟨false, 5⟩) ctlH)).byte 0x20000 = 0x60 :=
  ⟨⟨rfl, rfl, .inl rfl⟩, by decide⟩
theorem test_meets_CrewAndLaunchEnds_handler : BlockAt (haltH true) 1 0 (inHandler tK) ∧ BlockAt (haltH false) 1 0 (inHandler tK) ∧
    (∀ r, (inHandler tK).hrun = some r → r.state = .ended) ∧ (∀ m ∈ (haltH true).mosOf tC, m.crew = tC → m.held = true) ∧
    (∃ m ∈ (haltH false).mosOf tC, m.crew = tC ∧ m.held = false) ∧ (nx (exec (.halt ⟨false⟩) (haltH true))).crew? tC = none :=
  ⟨⟨rfl, rfl, .inl rfl⟩, ⟨rfl, rfl, .inl rfl⟩, (by intro r h; cases h), by decide⟩

/-! Special registers, and instructions by crew. -/

def ctlAt : State := { tS with turn := .scalar (.ctl 0), crews := [(.ctl 0, tK)] }
theorem test_meets_SpecialRegisters : ScalarAt tS tC tK ∧ (97 : Nat) ≤ (123 : BitVec 7).toNat ∧ tS.block? 1 = some tB ∧ tS.launch? tB.unit = some tL ∧
    tL.lr.csize = 1 ∧ ctlAt.crew? (.ctl 0) = some tK ∧ tS.special tC tK 106 = 4 ∧ tS.special tC tK 107 = 1 ∧ tS.special tC tK 121 = 0x100 ∧
    ctlAt.special (.ctl 0) tK 101 = 255 ∧ (tUS.ancestor 4 5 .job).map (·.uid) = some 4 := ⟨at_tS, by decide⟩
theorem test_meets_InstructionsByCrew : ScalarAt ctlAt (.ctl 0) tK ∧ needsBlock (.ljoin ⟨false, 7⟩) = true ∧ BlockAt tS 1 0 tK ∧
    serves (.sqret ⟨false, 1, 2, 3⟩) = true ∧ (tSwith grown).crew? tC = some (grown tK) ∧ (grown tK).h = false ∧
    decodeScalar 0x130E0413 = some (.sel ⟨false, 7, 1, 2, 3⟩) ∧ (trapOf (exec (.sel ⟨false, 7, 1, 2, 3⟩) (tSwith grown))).2.1 = 0x19 :=
  ⟨⟨rfl, rfl, .inl rfl⟩, by decide, block_tS, by decide⟩

/-! Barriers of a cluster and of a launch; the operators. -/

def barRec : LaunchRec := { tRec with ncb := 2, nlb := 2 }
def barB (c : Combine) : Block := { tB with cluster := 9, members := 2, combine := c :: List.replicate 15 ⟨[], .none, 0⟩ }
def barS (y : Barrier) (c : Combine) : State := { tS with
  launches := [{ tL with lr := barRec, bars := y :: List.replicate 15 (Barrier.start 2) }], blocks := [(1, barB c)]
  clusters := [(9, { (default : Cluster) with unit := 5, bars := y :: List.replicate 15 (Barrier.start 2) })] }
def bs9 : State := barS { tBar with op := .and } ⟨[1], .popc, 3⟩
def selAt (n : W64) (k : Crew) : Crew := { k with s := (20, n) :: k.s.filter (fun p => p.1 != 20) }
theorem test_meets_BarrierInstructions_levels : BlockAt bs9 1 0 tK ∧ bs9.block? 1 = some (barB ⟨[1], .popc, 3⟩) ∧
    bs9.launch? 5 = some { tL with lr := barRec, bars := { tBar with op := .and } :: List.replicate 15 (Barrier.start 2) } ∧
    (bs9.cluster? 9).map (·.bars.length) = some 16 ∧ 0 < barRec.csize ∧ (0 : Nat) < barRec.ncb ∧ (0 : Nat) < barRec.nlb ∧ 1 ∈ [1] ∧
    16 * ((barB ⟨[1], .popc, 3⟩).index % barRec.csize) + 0 ∉ tBar.arrived ∧ [1].length + 1 = (barB ⟨[1], .popc, 3⟩).members ∧
    (barB ⟨[1], .popc, 3⟩).index ∉ (Barrier.start 2).arrived ∧ 1 ≠ (barB ⟨[], .none, 0⟩).members ∧ (Barrier.start 2).op = .none :=
  ⟨⟨rfl, rfl, .inl rfl⟩, by decide⟩
/-- R87: the last of two arrivals counts the 1 bits of 7 with the 3 gathered before; a launch barrier whose other block has arrived. -/
theorem test_barrier_operators :
    ((nx (exec (.barrive ⟨false, 7, 96, 5, .popc⟩) { tS with
      blocks := [(1, { tB with bars := { tBar with op := .popc, acc := 3 } :: List.replicate 15 (Barrier.start 1) })] })).block? 1).map
      (fun b => (listGet (Barrier.start 0) b.bars 0).result) = some 6 := by decide
def bs9At : State := { barS (Barrier.start 2) ⟨[1], .popc, 3⟩ with crews := [(tC, { tK with s := (20, 32) :: tK.s })] }
theorem test_launch_barrier : ((nx (exec (.barrive ⟨false, 7, 20, 5, .popc⟩) bs9At)).launch? 5).map
    (fun l => ((listGet (Barrier.start 0) l.bars 0).arrivals, (listGet (Barrier.start 0) l.bars 0).acc)) = some (1, 6) := by decide

/-! Lanes, tiles, late results and fetches. -/

theorem test_meets_LaneTraps_operands : (∃ regs, vectorRegs (.st ⟨false, g0, .b32, .plain, .cw, .const 3, 40, 0⟩) = some (g0, regs) ∧ 40 ∈ regs) ∧
    (∃ regs, vectorRegs (.ffma ⟨false, g0, .f32, .rn, 6, .reg 1, .reg 5, 40⟩) = some (g0, regs) ∧ 40 ∈ regs) ∧ 8 * tT.r.groups ≤ 40 ∧
    (trapOf (exec (.ffma ⟨false, g0, .f32, .rn, 6, .reg 1, .reg 5, 40⟩) tG)).2.1.toNat % 256 = cREGRNG := by
  exact ⟨⟨_, rfl, by decide⟩, ⟨_, rfl, by decide⟩, by decide, by decide⟩
/-- Lane 1's bytes hold an uncorrectable error. -/
def tGP : State := { tGM lanes01 with poison := [0x201], mem := [(0x1000, 5), (0x1008, 6)] }
def lanesP (k : Crew) : Crew := { k with p := [(3, 3)], v := [(64, 0x1000), (65, 0x1008), (160, 9)] }
def tGPs : State := { tGP with crews := [(tC, lanesP tGK)] }
def tTP : LaneTurn := tR.laneTurn tC (lanesP tGK) 0
def accsP : List LaneAcc := (tGPs.checkLanes tTP (lanesOn tTP g3) .read 4 (fun l => srcA64 tTP.k tTP.r (.reg 2) l)).ok
theorem test_meets_LaneLoads_poisoned : GangAt tGPs tTP ∧ (∃ s1, tGPs.checkLanes tTP (lanesOn tTP g3) .read 4
      (fun l => BitVec.ofInt 64 ((srcA64 tTP.k tTP.r (.reg 2) l).toInt + (0 : W32).toInt)) = ⟨accsP, [], s1⟩) ∧
    (accsP.filter (fun a => tGPs.poisonedLocs a.locs)).map (·.lane) = [1] ∧ (∀ a ∈ accsP, tGPs.stalledLocs (tGPs.seat tC) a.locs = false) ∧
    (crewOf (exec (.ld ⟨false, g3, .b32, false, .plain, .cw, 6, .reg 2, 0⟩) tGPs)).out.map (·.dest) = [.vreg 192] ∧
    (slicesOf (exec (.ld ⟨false, g3, .b32, false, .plain, .cw, 6, .reg 2, 0⟩) tGPs)).head?.map (fun x => x.memerr.map (fun e => (e.mask, e.addr))) =
      some [(2, 0x1008)] := ⟨⟨0, _, _, rfl, rfl, rfl, rfl, rfl⟩, ⟨_, rfl⟩, by decide, by decide, by decide, by decide⟩
def relE : MosEntry := { tX0.newTile tC (matrixCrew tK) (.mzeroRel ⟨false, 96⟩) [] with ctx := some 0 }
def noCtx (k : Crew) : Crew := { matrixCrew k with ctx := none }
def relS (b : Bool) : State := tX noCtx .f none [{ relE with held := b }]
theorem test_meets_ContextIssue_releasing : BlockAt (relS false) 1 0 (noCtx tK) ∧ (noCtx tK).ctx = none ∧
    (relS false).releasing tC = some { relE with held := false } ∧
    (relS true).releasing tC = some { relE with held := true } ∧
    tX0.releasing tC = none ∧ (relS false).mosFull tC = false := ⟨⟨rfl, rfl, .inl rfl⟩, by and_intros <;> decide⟩
theorem first_alone (s : State) (e : MosEntry) (h : ∀ x ∈ s.mosOf e.crew,
    (decide (s.classOf x < s.classOf e) || (s.classOf x == s.classOf e && decide (x.uid < e.uid))) = false) : s.tileFirst e = true := by
  rw [State.tileFirst, Bool.not_eq_true', List.any_eq_false]
  intro x hx
  rw [h x hx, Bool.and_false]
  exact Bool.false_ne_true
theorem test_meets_SequencerSteps_first : (mosX zeroAcq).tileFirst zeroAcq = true ∧ (mosX normE).tileFirst normE = true ∧
    (waitingE.isJoint = true ∧ waitingE.joint = none ∧ waitingE.held = false ∧ (mosX waitingE).tileMoves waitingE = true ∧ waitingE.arrived ≠ none) ∧
    ({ copyE with part := some ([], none, 0) } : MosEntry).part ≠ none ∧ waitingE.crew = .blk 1 0 :=
  ⟨first_alone _ _ (by decide), first_alone _ _ (by decide), by decide⟩
theorem test_meets_DeferredAndFetchFaults_bank : ({ pend7 with dest := .sreg 90, inH := true } : Pending).val = some 1 ∧ 80 ≤ 90 ∧ 90 < 96 ∧
    ({ pend7 with dest := .pred 15 31 } : Pending).dest = .pred 15 31 ∧ 15 < 16 ∧ (tT.r.slice 0).wait = false ∧
    ({ waitsIn tK with wait := true } : Crew).word = some ((waitsIn tK).pc, 0x130E0413) := by decide

/-! Serving: a page whose last reference has gone, a request of an open phase, ranges of a window and a shortlist. -/

def unused : State := tSv.putDesc 0 0 { tSv.desc 0 0 with ref := 0 }
def inPh (s : State) : State := { s with fore := { s.fore with ctxs := [{ tSv.sctx 0 with openPh := some 77, batch := [3] }, .reset] }
                                         units := s.units ++ [{ (default : CUnit) with uid := 77, level := .phs, state := .running }] }
theorem test_meets_PageInstructions_settle : ((unused.desc 0 0).ref = 0 ∧ (unused.desc 0 0).pin = 0 ∧ (unused.desc 0 0).state = 1) ∧
    (tSv.desc 0 2).state = 2 ∧ tSv.pageSent 0 0 = false := by decide
theorem test_meets_RequestInstructions_open : (inPh tSv).inPhase 0 3 = true ∧ (inPh tSv).phaseOpen 0 = true ∧ (inPh tSv).sending 3 = false := by decide
theorem test_meets_SamplingInstructions_spans : okSpans tSv [(0x2000, 32), (0x3000, 528)] = true ∧ (moving tSv).stalledPa 0 0x3000 528 = true ∧
    okSpans tSv [(tSv.rBtab 3, 4 * tSv.rBtlen 3)] = true := by decide

/-! Page tables: a leaf of 4 TiB at the root, and a leaf of 64 KiB three nodes down, over a migrating page. -/

theorem fold_only {α β : Type} (f : α → β → α) (a : α) (k : β) (l : List β) (h : ∀ x ∈ l, x ≠ k → ∀ a, f a x = a) (hk : k ∈ l)
    (hn : l.Nodup) : l.foldl f a = f a k := by
  induction l generalizing a with
  | nil => cases hk
  | cons x l ih =>
    have hx := List.nodup_cons.1 hn
    by_cases e : x = k
    · subst e
      have : ∀ (m : List β) (b : α), (∀ y ∈ m, y ∈ l) → m.foldl f b = b := by
        intro m; induction m with
        | nil => intros; rfl
        | cons y m im =>
          intro b hy
          have hyl := hy y (by simp)
          have : f b y = b := h y (List.mem_cons_of_mem _ hyl) (fun e => hx.1 (e ▸ hyl)) b
          rw [List.foldl_cons, this]; exact im b (fun z hz => hy z (by simp [hz]))
      exact this l _ (fun y hy => hy)
    · rw [List.foldl_cons, h x (by simp) e a]
      exact ih a (fun y hy => h y (List.mem_cons_of_mem _ hy)) (by rcases List.mem_cons.1 hk with r | r; exact absurd r.symm e; exact r) hx.2
/-- A node of which entry 0 alone is present. -/
theorem table_first (s : State) (q n node : Nat) (sec : Bool) (ad : Option Nat) (a : List NodeAt × List LeafAt) (hr : s.reaches sec node 0x10000 = true)
    (h : ∀ i, 0 < i → i < 8192 → s.word64 (node + 8 * i) = 0) :
    s.tableOf q sec (n + 1) a ad node =
      let e := (s.word64 node).toNat
      if !pteV e || pteBad sec n e then (a.1 ++ [⟨q, ad, node⟩], a.2)
      else if pteLeaf e then (a.1 ++ [⟨q, ad, node⟩], a.2 ++ [⟨q, node, n, e⟩])
      else s.tableOf q sec n (a.1 ++ [⟨q, ad, node⟩], a.2) (some node) (pteFrame e) := by
  rw [State.tableOf, hr]
  simp only [Bool.not_true, Bool.false_eq_true, if_false]
  refine (fold_only _ _ 0 (List.range 8192) ?_ (by simp) List.nodup_range).trans ?_
  · intro i hi h0 b
    rw [h i (Nat.pos_of_ne_zero h0) (List.mem_range.1 hi)]; rfl
  · rfl
def leafS (m : List Host.Cell) : State := { tSv with
  mem := m, spaces := { Space.reset with root := 1, en := true } :: List.replicate 33 .reset, mbox := { Mailbox.reset with state := 0, mode := 0 } }
theorem no_word (s : State) (pa : Nat) (hd : isDev pa = false) (h : ∀ c ∈ s.mem, c.1 < pa ∨ pa + 8 ≤ c.1) : s.word64 pa = 0 := by
  have g : ∀ (m : List Host.Cell) (a : Nat), (∀ c ∈ m, c.1 ≠ a) → sparseGet unlistedByte m a = 0 := by
    intro m a hm
    induction m with
    | nil => rfl
    | cons c m ih =>
      simp only [sparseGet]
      rw [if_neg (fun e => hm c (by simp) e.symm)]
      exact ih (fun x hx => hm x (by simp [hx]))
  have z : ∀ n, n ≤ 8 → sparseRead unlistedByte s.mem (pa + (8 - n)) n = List.replicate n 0 := by
    intro n
    induction n with
    | zero => intro _; rfl
    | succ n ih =>
      intro hn
      rw [sparseRead, g s.mem _ (fun c hc => by have := h c hc; omega), show pa + (8 - (n + 1)) + 1 = pa + (8 - n) by omega,
        ih (by omega)]
      rfl
  have := z 8 (by omega)
  rw [State.word64, State.physRead, hd]
  simp only [Nat.sub_self, Nat.add_zero] at this
  simp only [this, Bool.false_eq_true, if_false]
  decide
theorem leavesOver_one (s : State) (lo hi : Nat) (l : LeafAt) (h0 : (s.table 0).2 = [l]) (h : ∀ q < 34, 0 < q → (s.space q).en = false)
    (hm : l.maps lo hi = true) : s.leavesOver lo hi = [l] := by
  have e : ∀ q ∈ List.range 34, q ≠ 0 → ((s.table q).2.filter (fun l => l.maps lo hi)) = [] := by
    intro q hq h0
    rw [State.table, h q (List.mem_range.1 hq) (Nat.pos_of_ne_zero h0)]; rfl
  have r : List.range 34 = 0 :: (List.range 33).map (· + 1) := by decide
  rw [State.leavesOver, r, List.flatMap_cons, h0]
  have : ((List.range 33).map (· + 1)).flatMap (fun q => (s.table q).2.filter (fun l => l.maps lo hi)) = [] := by
    rw [List.flatMap_eq_nil_iff]
    intro q hq
    obtain ⟨n, hn, rfl⟩ := List.mem_map.1 hq
    exact e _ (by rw [List.mem_range] at *; omega) (by omega)
  rw [this]
  simp [hm]
def bigS : State := leafS (cells 0x10000 8 0xBF)
def bigLeaf : LeafAt := ⟨0, 0x10000, 2, 0xBF⟩
def smallS : State := leafS (cells 0x10000 8 0x20001 ++ cells 0x20000 8 0x30001 ++ cells 0x30000 8 0x0100000001BF)
def smallLeaf : LeafAt := ⟨0, 0x30000, 0, 0x0100000001BF⟩
theorem clear_node (s : State) (node : Nat) (hd : node + 0x10000 ≤ devBase) (h : ∀ c ∈ s.mem, c.1 < node + 8 ∨ node + 0x10000 ≤ c.1) :
    ∀ i, 0 < i → i < 8192 → s.word64 (node + 8 * i) = 0 :=
  fun i _ _ => no_word s _ (by simp only [isDev]; rw [decide_eq_false]; · rfl
                               · omega) (fun c hc => by have := h c hc; omega)
/-- What a node with one entry adds, for an entry that is known. -/
theorem table_leaf (s : State) (q n node e : Nat) (sec : Bool) (ad : Option Nat) (a : List NodeAt × List LeafAt) (hr : s.reaches sec node 0x10000 = true)
    (hd : node + 0x10000 ≤ devBase) (h : ∀ c ∈ s.mem, c.1 < node + 8 ∨ node + 0x10000 ≤ c.1) (he : (s.word64 node).toNat = e)
    (hv : (!pteV e || pteBad sec n e) = false) (hl : pteLeaf e = true) :
    s.tableOf q sec (n + 1) a ad node = (a.1 ++ [⟨q, ad, node⟩], a.2 ++ [⟨q, node, n, e⟩]) := by
  rw [table_first s q n node sec ad a hr (clear_node s node hd h)]
  simp only [he, hv, hl, Bool.false_eq_true, if_false, if_true]
theorem table_node (s : State) (q n node e next : Nat) (sec : Bool) (ad : Option Nat) (a : List NodeAt × List LeafAt) (hr : s.reaches sec node 0x10000 = true)
    (hd : node + 0x10000 ≤ devBase) (h : ∀ c ∈ s.mem, c.1 < node + 8 ∨ node + 0x10000 ≤ c.1) (he : (s.word64 node).toNat = e)
    (hv : (!pteV e || pteBad sec n e) = false) (hl : pteLeaf e = false) (hf : pteFrame e = next) :
    s.tableOf q sec (n + 1) a ad node = s.tableOf q sec n (a.1 ++ [⟨q, ad, node⟩], a.2) (some node) next := by
  rw [table_first s q n node sec ad a hr (clear_node s node hd h)]
  simp only [he, hv, hl, hf, Bool.false_eq_true, if_false]
theorem table_of (s : State) (h : (s.space 0).en = true) (w : s.spaceWorld 0 = false) (r : (s.space 0).root.toNat * 2 ^ 16 = 0x10000) :
    s.table 0 = s.tableOf 0 false 3 ([], []) none 0x10000 := by rw [State.table]; simp only [h, w, r, if_true]
theorem big_table : (bigS.table 0).2 = [bigLeaf] := by
  rw [table_of _ (by decide) (by decide) (by decide),
    table_leaf bigS 0 2 0x10000 0xBF false none ([], []) (by decide) (by decide) (by decide) (by decide) (by decide) (by decide)]
  rfl
theorem small_table : (smallS.table 0).2 = [smallLeaf] := by
  rw [table_of _ (by decide) (by decide) (by decide),
    table_node smallS 0 2 0x10000 0x20001 0x20000 false _ _ (by decide) (by decide) (by decide) (by decide) (by decide) (by decide) (by decide),
    table_node smallS 0 1 0x20000 0x30001 0x30000 false _ _ (by decide) (by decide) (by decide) (by decide) (by decide) (by decide) (by decide),
    table_leaf smallS 0 0 0x30000 0x0100000001BF false _ _ (by decide) (by decide) (by decide) (by decide) (by decide) (by decide)]
  rfl
def migOf (n : Nat) (st : MigStage) : Migration := ⟨0, 0, 0, 0, 0x010000000000, 0x010000100000, n, 1, st⟩
theorem test_meets_PageAndRingEvents_leaves : bigS.leavesOver 0x010000000000 0x010000001000 = [bigLeaf] ∧
    smallS.leavesOver 0x010000000000 0x010000001000 = [smallLeaf] ∧ smallS.leavesOver 0x010000000000 0x010000010000 = [smallLeaf] :=
  ⟨leavesOver_one bigS _ _ bigLeaf big_table (by decide) (by decide), leavesOver_one smallS _ _ smallLeaf small_table (by decide) (by decide),
   leavesOver_one smallS _ _ smallLeaf small_table (by decide) (by decide)⟩
def raised : State := { smallS with spaces := { Space.reset with root := 1, en := true, gen := 1 } :: List.replicate 33 .reset }
theorem test_meets_PageAndRingEvents_stages : (migOf 4096 .quiet).src = 0x010000000000 ∧ bigLeaf.level ≠ 0 ∧ smallLeaf.level = 0 ∧
    (migOf 4096 .quiet).src + 4096 < pteFrame smallLeaf.e + 0x10000 ∧ pteFrame smallLeaf.e + 0x10000 ≤ (migOf 65536 .quiet).src + 65536 ∧
    smallS.reaches (smallS.migWorld (migOf 65536 .quiet)) 0x010000000000 65536 = true ∧ smallS.firmwareRuns = true ∧
    smallS.reaches (smallS.migWorld (migOf 65536 .quiet)) 0x010000100000 65536 = true ∧
    raised.acked (0, 1) = false ∧ raised.acked (0, 0) = true ∧ (migOf 4096 (.remapped [(0, 1)])).stage ≠ .quiet := by decide

/-! Claims, saves, resumes; the notify ring; handoffs; first touch. -/

def tDue : State := { tShr with blocks := [(1, tB)] }
def savedB (c : Nat) : Block := { savingB with cluster := c }
def twoSaved (ok : Bool) : State := { tSavedS with
  blocks := [(1, savingB), (2, savingB)], mem := cells 0x30000 8 0xC7C05356 ++ (if ok then cells 0x300000 8 0xC7C05356 else [])
  launches := [{ tL with saved := [⟨1, 0, 0x30000, [], tB, [], []⟩, ⟨2, 1, 0x300000, [], tB, [], []⟩] }] }
def twoSavedL : Launch := { tL with saved := [⟨1, 0, 0x30000, [], tB, [], []⟩, ⟨2, 1, 0x300000, [], tB, [], []⟩] }
theorem test_meets_CoreAndBlockEvents_due : tDue.preemptDue 1 = true ∧ (tGrow 2 tB).preemptDue 1 = false ∧ tB.saving = false ∧
    (twoSaved true).block? 1 = some savingB ∧ (twoSaved true).launch? 5 = some twoSavedL ∧
    (twoSavedL.saved.filter (fun v => v.block.cluster == savingB.cluster)).map (·.bid) = [1, 2] ∧
    (∀ v ∈ twoSavedL.saved, (twoSaved true).block? v.bid ≠ none) ∧ (∀ v ∈ twoSavedL.saved, (twoSaved true).areaOk twoSavedL v = true) ∧
    (twoSavedL.saved.find? (fun w => !(twoSaved false).areaOk twoSavedL w)).map (·.bid) = some 2 ∧
    (∃ v ∈ twoSavedL.saved, tSavedS.block? v.bid = none) := by
  decide
theorem test_meets_CoreAndBlockEvents_ready : (tGrow 2 tB).readyS tC tK = true ∧ (tSwith waitsIn).readyS tC (waitsIn tK) = false ∧
    ({ tG with ident := { Ident.reset with shut := 0 }, mbox := { Mailbox.reset with state := 0 } } : State).readyL tC tGK 0 = true ∧
    (tGrow 2 tB).grantBitmaps = tGrow 2 tB ∧ (tCancel .cancelling none).midStep 5 = false := by decide
def midE : MosEntry := { copyE with part := some ([], none, 0) }
theorem test_meets_CoreAndBlockEvents_midStep : (tCpE midE).midStep 5 = true ∧ (tCpE midE).stepOpen ((tCpE midE).asidOf tC) = true ∧
    tSv.stepOpen 0 = false := by decide
theorem test_meets_PageAndRingEvents_stalled : ({ tNotes [] 1 with notify := { (tNotes [] 1).notify with stalled := [(1, 2)] } } : State).notify.stalled =
      [(1, 2)] ∧ tTouch.touchStalls tC 0x10000 = false ∧ tInS.ctxWorld 0 = false ∧
    ({ tInS with peers := (tSend 0).peers } : State).epOpen 0 2 7 = true ∧ okSpans tInS [(0xA000, 8)] = true ∧
    okSpans tInS (tInS.allocSpans 0 0 ++ tInS.allocSpans 0 1) = true := by decide

/-! Images, measurements, sessions and links. -/

theorem test_meets_RegistersAndMailbox_images : (tMb 4 1 true).imageOk ⟨true, 0⟩ = true ∧ (tMb 4 1 true).imageOk ⟨false, 0⟩ = false ∧
    (tMb 1 1 false).mbox.held = false ∧ (tMb 1 1 false).mbox.state.toNat = 1 ∧ (tMb 4 1 true).mbox.state.toNat = 4 ∧
    ({ tMb 1 1 false with fuses := { (tMb 1 1 false).fuses with minVersion := 3 } } : State).imageOk ⟨true, 2⟩ = false := by decide
def sess (s : State) : State := { s with porter := { s.porter with session := true } }
theorem test_meets_PorterRequests_sessions : (sess (tPort 0 1)).porter.session = true ∧ (tPort 0 1).porter.log ≠ [] ∧ (tPort 0 1).powered = true ∧
    ({ tPort 0 1 with porter := { (tPort 0 1).porter with booted := false } } : State).porter.booted = false := by decide
/-- Flits for a shuttered chiplet that hold a copy's requests; an endpoint with fifteen failures; a group from an endpoint. -/
def heldLink : State := { tCpE copyE with links := { Link.reset with held := [(.tile copyE.uid, 0)] } :: List.replicate 9 .reset
                                          clk := ⟨0, 0x100000, 0, 0, 0⟩ }
theorem test_meets_LinksAndOutside_held : (heldLink.dir 0).held = [(.tile copyE.uid, 0)] ∧
    (((heldLink.cores.flatMap (fun k => k.mos)) ++ heldLink.ctls.flatMap (fun k => k.load)).filter
      (fun m => (heldLink.dir 0).held.any (fun h => h.1 == .tile m.uid && decide (h.2 + 2 ^ 20 ≤ heldLink.clockOf 1)))) = [copyE] ∧
    ({ (default : SessionTerms) with asid := 31 } : SessionTerms).asid < 32 ∧ (10 - 10) / 2 = 0 ∧
    (tSend 0).peers.eps[0]? = some ⟨2, 7, 0, 15, .reset, .reset⟩ ∧ (tSend 0).powered = true ∧
    ((tIn 14).endpoint? 2 7).map (·.fails) = some 14 ∧ ((tSend 0).endpoint? 2 7).map (·.fails) = some 15 := by decide
theorem test_meets_LinksAndOutside_kinds : (ExtKind.atomic .add false 1 0).access = .atomic ∧ (ExtKind.atomic .add false 1 0).size = 4 ∧
    0x1002 % 4 ≠ 0 ∧ (ExtKind.read 8).access ≠ .atomic ∧ (ExtKind.write [1, 2]).size = 2 ∧
    ({ tIn 0 with poison := [0x200] } : State).poisonedLocs [locMem 0x1000 8] = true ∧
    ({ tIn 0 with fore := { (tIn 0).fore with migs := [⟨0, 0, 0, 0, 0x1000, 0x10000, 4096, 1, .quiet⟩] } } : State).stalledLocs 0 [locMem 0x1000 8] = true ∧
    (∀ x ∈ (tIn 0).peers.inbound, x.port ≠ 2 ∨ x.ep ≠ 7 ∨ x.tag ≠ 6) := by decide

/-! Losses and resets. -/

def onC1 : State := { tErr with blocks := [(1, { tB with core := 40 })], launches := [tL] }
theorem test_meets_ErrorsAndHealth_losses : (0 : Nat) < tErr.cores.length ∧ 3 < (tErr.core 0).slots.length ∧ 0 < tErr.ctls.length ∧
    1 < (tErr.ctl 0).slots.length ∧ tErr.sliceMoves 0 = false ∧ 1 ∉ tErr.ident.failed ∧ (∀ p ∈ tErr.blocks, tErr.dieOfCore p.2.core ≠ 1 - 1) ∧
    (onC1.blocks.filter (fun p => onC1.dieOfCore p.2.core == 2 - 1)).map (·.1) = [1] ∧ tErr.inFlight (fun _ _ => true) = [] ∧
    ({ tErr.ident with stepAt := [none, some (-7), none, none, none] } : Ident).stepAt[1]? = some (some (-7)) ∧
    (tErr.clockOf 1 : Int) < (tErr.clockOf 1 : Int) - 7 + 2 ^ 22 := by decide

/-! Late destinations, stalls and frames. -/

/-- The crew's held tile instruction has a destination that cannot be written; its other destination has yet to come. -/
def heldOut : State := { tX (fun k => withOut [{ pend7 with val := none, tag := 1 }] (matrixCrew k)) .f none [{ zeroAcq with uid := 1, held := true }] with
  launches := [{ tL with lr := tRecX }] }
theorem test_meets_TrapEntry_late : heldOut.stuck tC { pend7 with val := none, tag := 1 } = true ∧ ({ pend7 with val := none } : Pending).val = none ∧
    (∀ m ∈ tS.mosOf tC, m.crew = tC → m.held = false) ∧ (lateErr tK).scalarErr ≠ [] ∧ (waitsIn tK).blocked = true := by decide
theorem test_meets_LaneAtomics_mixed : (∃ g ∈ groupAccs accsP, g.any (fun a => tGPs.poisonedLocs a.locs) = true) ∧
    ∃ g ∈ groupAccs accsP, g.any (fun a => tGPs.poisonedLocs a.locs) = false := by decide
def acqAfter (i : Nat) : MosEntry := { zeroAcq with uid := 9, ctx := some i }
theorem test_meets_SequencerSteps_waits : (∃ x ∈ (tX noCtx .f none [relE, acqAfter 0]).mosOf tC, x.crew = tC ∧ relE.uid < x.uid ∧ x.isAcq = true ∧
    x.ctx = some 0) ∧ (∀ x ∈ (tX noCtx .f none [relE, acqAfter 1]).mosOf tC, ¬ (x.crew = tC ∧ relE.uid < x.uid ∧ x.isAcq = true ∧ x.ctx = some 0)) := by
  decide
/-- Page 0 of the low memory migrates: the drive's queue and the notification ring lie there. -/
def movingLow (s : State) : State := { s with fore := { s.fore with migs := [⟨0, 0, 0, 0, 0x40000, 0x10000, 4096, 1, .quiet⟩] } }
theorem test_meets_PacketsAndStorage_stalls : (movingLow (tDr 0)).unitStalls 0x40000 64 = true ∧ (tDr 0).unitStalls 0x40000 64 = false ∧
    (movingLow (tNotes [(1, 2)] 1)).unitStalls 0x40010 16 = true ∧ (tNotes [(1, 2)] 1).unitStalls 0x40010 16 = false := by decide
/-- A context of the non-secure world whose frames in T1 lie in the secure world. -/
def hbmSecure (s : State) : State := { s with worlds := { s.worlds with secure := s.worlds.secure ++ [0x010000000000 / 2 ^ 24] } }
def tSent : State := { tSq with reqs := [(48, BitVec.ofNat 64 (3 * 2 ^ 61 + 9)), (49, 0x100000000), (51, 0xA000), (52, 0x300000000)] }
theorem test_meets_RequestInstructions_frames : tSv.moveReach 0 0 0 = true ∧ (hbmSecure tSv).moveReach 0 0 0 = false ∧
    (∃ p ∈ tSent.usedPages 0 3, (hbmSecure tSent).frameReach 0 (tSent.pageAt 0 p) = false) ∧
    (∀ p ∈ tSent.usedPages 0 3, tSent.frameReach 0 (tSent.pageAt 0 p) = true) := by decide
theorem test_meets_CopyEnds_begin : ({ ovEntry 0 with started := false, fin := false } : MosEntry).started = false ∧
    (copyE.started = true) ∧ ∃ u e, ({ tOvEnd 0 with links := [] } : State).beginStep { ovEntry 0 with started := false, fin := false } = some (u, e) :=
  ⟨by decide, by decide, _, _, rfl⟩

/-! Gatherings, pipes, ways, stalls and undecided checks. -/

/-- Block 1 with a REORD in which crew 0, or crews 0 and 1, have issued. -/
def arrives (j : Nat) : ReordArrival := ⟨j, 1, true, 9, .reg 2, false, 0⟩
def gath (js : List Nat) (broken : Bool) (s : State) : State := { s with
  blocks := [(1, { tB with gather := some ⟨[0, 1], js.map arrives, broken⟩ })], crews := [(tC, tGK), (.blk 1 1, tGK)] }
theorem test_meets_StepOverheadKeepsRegisters_gathering : (∀ p ∈ (gath [0] false tG).blocks, ∀ g, p.2.gather = some g →
      g.broken = false ∧ ∃ j ∈ g.members, ∀ a ∈ g.issued, a.crew ≠ j) ∧ (gath [0] false tG).mbox.elWait = [] ∧
    (gath [0, 1] false tG).powered = true ∧ ((gath [0, 1] false tG).block? 1).map (·.gather) = some (some ⟨[0, 1], [arrives 0, arrives 1], false⟩) ∧
    (∀ j ∈ [0, 1], ∃ a ∈ [arrives 0, arrives 1], a.crew = j) ∧ (∀ p ∈ (gath [0, 1] false tG).blocks, p.1 = 1) := by
  refine ⟨?_, rfl, rfl, rfl, by decide, by decide⟩
  intro p hp g hg
  obtain rfl : p = (1, { tB with gather := some ⟨[0, 1], [arrives 0], false⟩ }) := by simpa [gath] using hp
  cases hg
  exact ⟨rfl, 1, by decide, by decide⟩
theorem test_meets_ReorderLanes_joining : GangAt (gath [1] false tG) tT ∧ (gath [1] false tG).block? 1 =
      some { tB with gather := some ⟨[0, 1], [arrives 1], false⟩ } ∧ (∀ a ∈ [arrives 1], a.crew ≠ 0) ∧ (∃ a ∈ [arrives 0], a.crew = 0) ∧
    Below tT (regs32 9 (.reg 2) (.imm 0) ++ (maskList 32 1).map (fun g => 8 * g)) := by
  exact ⟨⟨0, tGK, tR, rfl, rfl, rfl, rfl, rfl⟩, rfl, by decide, by decide, by unfold Below; decide⟩
theorem test_meets_ReorderLanes_exchange : [arrives 0, arrives 1].Perm ((List.range 2).map arrives) ∧
    (∀ p < 2, (arrives p).crew < 16 ∧ ∀ q < p, (arrives q).crew < (arrives p).crew) ∧
    (∀ p < 2, (gath [0, 1] false tG).crew? (.blk 1 (arrives p).crew) = some tGK ∧ tGK.runNow = some tR) ∧
    (∀ p < 2, (arrives p).whole = true ∧ (arrives p).groups = (arrives 0).groups) ∧
    (tGK.h = false ∧ tGK.out = [] ∧ tGK.trapping = none) ∧ (gath [0] true tG).block? 1 = some { tB with gather := some ⟨[0, 1], [arrives 0], true⟩ } ∧
    ({ arrives 1 with whole := false } : ReordArrival).whole = false := by
  refine ⟨List.Perm.refl _, ?_, ?_, ?_, by decide, rfl, rfl⟩
  · decide
  · intro p hp
    match p, hp with
    | 0, _ => exact ⟨rfl, rfl⟩
    | 1, _ => exact ⟨rfl, rfl⟩
  · decide
theorem test_meets_StepRunsEvents_pipes : (manyCrews.pipeClass tC tK false = 0 ∧ tK.sinceS + 4096 ≤ manyCrews.cclk (manyCrews.dieOf tC)) ∧
    (tS.pipeClass tC { tK with sinceS := tS.cclk 0 } false = (tS.recOf tC).prio) ∧ tK.boostS = false ∧ tK.boostL = false ∧
    tC.isCtl = false ∧ (CrewRef.ctl 0).isCtl = true ∧ (tR.slice 0).wait = false ∧ decodeLane 0xFFFFFFFF 0 0 = none ∧ tGK.runNow = some tR ∧
    tG.fetchLane tC tGK (tR.slice 0).pc = .error 4 := by and_intros <;> first | rfl | decide
/-- Block 1 of a cluster whose barriers sit on the other C-die, and a launch whose barriers do. -/
def farBars (s : State) : State := { s with
  blocks := [(1, { tB with cluster := 9 })], clusters := [(9, { (default : Cluster) with die := 1, bars := [Barrier.start 2] })]
  launches := [{ tL with lr := barRec, die := 1, bars := [Barrier.start 2] }] }
theorem test_meets_BarrierInstructions_ways : (tS.barWay tC 1 = true ∧ tS.barWay tC 2 = true) ∧ (farBars tS).barWay tC 1 = false ∧
    (farBars tS).barWay tC 2 = false ∧ selector? ((farBars tS).recOf tC) 16 = some (1, 0) ∧ selector? ((farBars tS).recOf tC) 32 = some (2, 0) ∧
    BlockAt (farBars tS) 1 0 tK := by
  refine ⟨by decide, by decide, by decide, by decide, by decide, rfl, rfl, .inl rfl⟩
theorem test_meets_AttachAndDetach_ways : (∃ m ∈ (tX matrixCrew .f none [zeroAcq]).mosOf tC, m.crew = tC) ∧ (farBars tS).barWay tC 1 = false := by
  decide
/-- Lane 1's page is not cached, and the walk of it meets a migrating table; lane 1's page migrates itself. -/
def farLanes (k : Crew) : Crew := { lanes01 k with v := [(64, 0x1000), (65, 0x1004), (97, 0x400), (160, 9)] }
def tTF : LaneTurn := tR.laneTurn tC (farLanes tGK) 0
def walkS : State := { tGM farLanes with
  spaces := { Space.reset with root := 4, en := true } :: List.replicate 33 .reset
  fore := { State.reset.fore with migs := [⟨0, 0, 0, 0, 0x40000, 0x10000, 4096, 1, .quiet⟩] } }
def awayS : State := { tGM lanes01 with fore := { State.reset.fore with migs := [⟨0, 0, 0, 0, 0x1000, 0x10000, 4096, 1, .quiet⟩] } }
def partly (s : State) (t : LaneTurn) : Checked := s.checkLanes t (lanesOn t g3) .read 4 (fun l => srcA64 t.k t.r (.reg 2) l)
theorem test_meets_LaneAccessTraps_waits : (∃ a ∈ (partly walkS tTF).ok, undecided a.locs = true) ∧
    (∃ s1, partly awayS tTM = ⟨accs .read (.reg 2), [], s1⟩) ∧ (∃ a ∈ accs .read (.reg 2), awayS.stalledLocs (awayS.seat tC) a.locs = true) ∧
    (∀ a ∈ accs .read (.reg 2), undecided a.locs = false) := ⟨by decide, ⟨_, rfl⟩, by decide, by decide⟩
/-- A load whose page migrates; a table of overlays on a page that migrates. -/
def awayM : State := { tM atMem with fore := { State.reset.fore with migs := [⟨0, 0, 0, 0, 0x1000, 0x10000, 4096, 1, .quiet⟩] } }
def stallsIs (r : Issued) (ls : List Loc) : Bool := match r with | .stalls x => x == ls | _ => false
theorem test_meets_OverlayLoads_stalls : stallsIs (awayM.issueRead tC .read 0x1000 8) [locMem 0x1000 8] = true ∧
    stallsIs ((tM atMem).issueRead tC .read 0x1000 8) [locMem 0x1000 8] = false := by decide
def postsFull : List (Nat × W64) := List.replicate 256 (1, 0)
/-- Lane 1 stores to bell word 1, lane 0 to memory: with scope .sy the second posts. -/
def bellAcc : LaneAcc := ⟨1, BitVec.ofNat 64 (devBase + 0x100008), [locMem (devBase + 0x100008) 8]⟩
theorem test_meets_LaneStores_mixed : ((accs .write (.reg 2)).take 1 ++ [bellAcc]).filter (fun a => !(bellsOf a.locs).isEmpty) = [bellAcc] ∧
    ((accs .write (.reg 2)).take 1 ++ [bellAcc]).filter (fun a => (bellsOf a.locs).isEmpty) = (accs .write (.reg 2)).take 1 ∧
    (tGM lanes01).notify.waiting.length + 1 ≤ 256 ∧
    256 < postsFull.length + 1 := ⟨by decide, by decide, by decide, by rw [postsFull, List.length_replicate]; omega⟩
theorem test_meets_LaneAtomics_sums : (∃ a rest, accs .atomic (.const 3) = a :: rest ∧ rest.length = 1) ∧
    ∃ b : Nat → Nat, (accs .atomic (.const 3)).map (fun x => (atomOps tTM ⟨false, g3, .fadd, false, .plain, .cw, 6, .const 3, 5, 0⟩ x.lane).1) =
      (List.range 2).map b := ⟨⟨_, _, rfl, rfl⟩, ⟨fun n => (atomOps tTM ⟨false, g3, .fadd, false, .plain, .cw, 6, .const 3, 5, 0⟩ n).1, by decide⟩⟩
/-- A destination that shows its value already; one of the interrupted code's errors; a save area on a page that migrates. -/
def showing (k : Crew) : Crew := { k with out := [pend7], shown := [(pend7, 0)] }
theorem test_meets_DeferredAndFetchFaults_shown : ((tSwith showing).crew? tC = some (showing tK)) ∧ pend7.val = some 1 ∧
    (showing tK).shown.find? (fun y => y.1 == pend7) = some (pend7, 0) ∧ (∀ y ∈ tK.shown, y.1 ≠ pend7) ∧
    (showing tK).destNow pend7 = 0 ∧ ({ showing tK with s := [(7, 1)] } : Crew).destNow pend7 = 1 := by decide
def areaMoves (s : State) : State := { s with fore := { s.fore with migs := [⟨0, 0, 0, 0, 0x30000, 0x10000, 4096, 1, .quiet⟩] } }
def keyed (s : State) : State := { s with links := List.replicate 10 (.keyedWith 1) }
theorem test_meets_CoreAndBlockEvents_areas : (keyed tSavedS).areaStalls 0 0x30000 = false ∧ (areaMoves (keyed tSavedS)).areaStalls 0 0x30000 = true ∧
    ({ tSavedS with ident := Ident.reset } : State).areaStalls 0 0x030000000000 = true ∧ (∃ v ∈ twoSavedL.saved, v.bid = 1) ∧
    (withOut [pend7] tK).out ≠ [] ∧ (lateErr tK).memerr ≠ [] ∧ tK.boostS = false ∧ tK.boostL = false := by decide
theorem test_meets_PageAndRingEvents_stalls : tSv.migStalls tMig = false ∧ ({ tSv with links := [] } : State).pathOpen 0 tMig.src = false ∧
    (movingLow tSv).migStalls ⟨0, 0, 0, 0, 0x40000, 0x10000, 4096, 1, .quiet⟩ = false ∧
    (tMig.ctx < 2 ∧ ({ tSv with fore := { tSv.fore with migs := [⟨0, 0, 0, 0, 0, 0x10000, 65536, 1, .quiet⟩] } } : State).stalledPa 0
      (tSv.descAt tMig.ctx tMig.page) 32 = true) := by decide
/-- The node of the small table at 0x30000, reached from the entry at 0x20000. -/
theorem small_nodes : (smallS.table 0).1 = [⟨0, none, 0x10000⟩, ⟨0, some 0x10000, 0x20000⟩, ⟨0, some 0x20000, 0x30000⟩] := by
  rw [table_of _ (by decide) (by decide) (by decide),
    table_node smallS 0 2 0x10000 0x20001 0x20000 false _ _ (by decide) (by decide) (by decide) (by decide) (by decide) (by decide) (by decide),
    table_node smallS 0 1 0x20000 0x30001 0x30000 false _ _ (by decide) (by decide) (by decide) (by decide) (by decide) (by decide) (by decide),
    table_leaf smallS 0 0 0x30000 0x0100000001BF false _ _ (by decide) (by decide) (by decide) (by decide) (by decide) (by decide)]
  rfl
theorem test_meets_PageAndRingEvents_nodes : (∃ n ∈ (smallS.table 0).1, meets 0x30000 0x40000 (n.node, 0x10000) = true) ∧
    (∀ n ∈ (smallS.table 0).1, meets 0x40000 0x50000 (n.node, 0x10000) = false) := by
  rw [small_nodes]; decide
/-- SQNEXT that has waited at record 3, with or without a victim under eviction. -/
def formingS (v : Option Nat) : State := { tSv with
  fore := { tSv.fore with ctxs := [{ tSv.sctx 0 with forming := some ⟨[], 0, [3], false, [3], v⟩ }, .reset] } }
def movedIs (r : Moved) (n : Nat) : Bool := match r with | .done _ => n == 0 | .noFrame _ => n == 1 | .wait _ _ => n == 2 | .refused => n == 3
theorem test_meets_RequestInstructions_forming : (tSv.sctx 0).forming = none ∧
    ((formingS (some 3)).sctx 0).forming = some ⟨[], 0, [3], false, [3], some 3⟩ ∧ (formingS (some 3)).owns 0 3 = true ∧
    (formingS (some 3)).rState 3 = 3 ∧ ((formingS none).sctx 0).forming = some ⟨[], 0, [3], false, [3], none⟩ ∧
    (formingS (some 5)).owns 0 5 = false := by decide
/-- Block 1 on the other, shuttered C-die: an access of C-die 0 to its scratchpad is held in direction 0. -/
def farPad (h : List (Requester × Nat)) : State := { tS with
  blocks := [(1, { tB with core := 40 })], ident := { tS.ident with shut := 4 }, clk := ⟨0, 0x100000, 0, 0, 0⟩
  links := { Link.reset with held := h } :: List.replicate 9 .reset }
theorem test_meets_LinksAndOutside_streams : (farPad []).lostWay 1 [.spad 1 0 4] = some 0 ∧ (farPad []).lostWay 1 [locMem 0x1000 4] = none ∧
    (farPad []).lostWay 0 [.spad 1 0 4] = none ∧ (∀ h ∈ ((farPad []).dir 0).held, h.1 ≠ .stream tC none 0x100) ∧
    ((farPad [(.stream tC none 0x100, 0)]).dir 0).held.find? (fun h => h.1 == .stream tC none 0x100) = some (.stream tC none 0x100, 0) ∧
    0 + 2 ^ 20 ≤ (farPad []).clockOf 1 ∧ (farPad []).clockOf 1 < 5 + 2 ^ 20 := by decide
theorem test_meets_ErrorsAndHealth_slices : (mapped 0x1000 = true ∧ tErr.backed 0x1000 = true ∧ 0x1000 / 8 ∉ tErr.poison ∧ 0x1000 < 0x100000000) ∧
    0x1000 / 8 ∈ ({ tErr with poison := [0x200] } : State).poison ∧ 0 < tErr.cores.length ∧ tErr.cores.length ≤ 64 := by decide
def pinned0 (s : State) : State := s.putDesc 0 0 { s.desc 0 0 with pin := 1 }
theorem test_meets_RequestInstructions_victims : movedIs (tSv.evict 0 3) 0 = true ∧ movedIs (tSq.evict 0 3) 1 = true ∧
    movedIs ((pinned0 tSq).evict 0 3) 2 = true := by decide

/-! Steps of the matrix engines, the weight buffer and the copies, with the entry first in its engine. -/

theorem turn_of (s : State) (e : MosEntry) (h : s.tileAtQ 0 0 = some e ∧ e ∈ s.mosOf e.crew ∧ s.coreOf e.crew < s.cores.length ∧
    s.hasStep e = true ∧ s.arrayTurn e = true ∧ e.isJoint = false)
    (hf : ∀ x ∈ s.mosOf e.crew, (decide (s.classOf x < s.classOf e) || (s.classOf x == s.classOf e && decide (x.uid < e.uid))) = false) :
    StepTurn s 0 0 e :=
  ⟨h.1, h.2.1, h.2.2.1, h.2.2.2.1, h.2.2.2.2.1, first_alone s e hf, fun j => by rw [h.2.2.2.2.2] at j; cases j⟩
def stepE (i : Instr) (vals : List W64) : MosEntry := { tX0.newTile tC (matrixCrew tK) i vals with ctx := some 0 }
def stepS (m : CtxMode) (imgs : List Image) (e : MosEntry) : State := { tX matrixCrew m none [e] with
  cores := { Core.reset with mos := [e], ctxs := [{ Ctx.clear (some tC) with mode := m }, .clear none], images := imgs } :: List.replicate 63 .reset }
def imgOf (slot : Nat) : Image := ⟨0, 1024, 5, slot, 16, 16, false, false, 0⟩
def isImage (r : Except Nat BOp) : Bool := match r with | .ok _ => true | .error _ => false
def causeOf (r : Except Nat BOp) : Nat := match r with | .ok _ => 0 | .error c => c
def mmaE : MosEntry := stepE (.mma ⟨false, 1, 2, 1⟩) [0x200, 0x500000000]
def popE : MosEntry := stepE (.mxpop ⟨false, 1, 2, 2⟩) [0x200, 0x500000000]
def distE : MosEntry := stepE (.mdist ⟨false, 1, 2, 1⟩) [0x600200, 0x400]
def smaxE : MosEntry := stepE (.msmax ⟨false, 1, 2⟩) [0x3F80000004100F00, 0x0F00]
def mergeE : MosEntry := stepE (.mmerge ⟨false, 1, 2⟩) [0x3F80000004100F00, 0xF0000200]
def drainE : MosEntry := stepE (.mdrain ⟨false, 96, 1, 2, 0⟩) [0x200, 0x0F000F00]
theorem turn_mma : ContextTurn (stepS .f [imgOf 1] mmaE) 0 0 1 0 0 mmaE := ⟨turn_of _ _ (by decide) (by decide), rfl, rfl, by decide⟩
theorem turn_none : ContextTurn (stepS .f [] mmaE) 0 0 1 0 0 mmaE := ⟨turn_of _ _ (by decide) (by decide), rfl, rfl, by decide⟩
theorem turn_pop : ContextTurn (stepS .i [imgOf 2] popE) 0 0 1 0 0 popE := ⟨turn_of _ _ (by decide) (by decide), rfl, rfl, by decide⟩
theorem turn_dist (m : CtxMode) (h : m = .f ∨ m = .d) : ContextTurn (stepS m [] distE) 0 0 1 0 0 distE := by
  rcases h with rfl | rfl <;> exact ⟨turn_of _ _ (by decide) (by decide), rfl, rfl, by decide⟩
theorem turn_smax : ContextTurn (stepS .f [] smaxE) 0 0 1 0 0 smaxE := ⟨turn_of _ _ (by decide) (by decide), rfl, rfl, by decide⟩
theorem turn_merge : ContextTurn (stepS .f [] mergeE) 0 0 1 0 0 mergeE := ⟨turn_of _ _ (by decide) (by decide), rfl, rfl, by decide⟩
theorem turn_drain : ContextTurn (stepS .f [] drainE) 0 0 1 0 0 drainE := ⟨turn_of _ _ (by decide) (by decide), rfl, rfl, by decide⟩
theorem test_meets_MatrixResults : isImage ((stepS .f [imgOf 1] mmaE).productImage mmaE false 1) = true ∧
    causeOf ((stepS .f [] mmaE).productImage mmaE false 1) = cWMISS ∧ (stepS .f [imgOf 1] mmaE).membersOf mmaE = [mmaE] ∧
    isImage ((stepS .i [imgOf 2] popE).productImage popE true 2) = true ∧ gM mmaE.grant = 16 ∧ gN mmaE.grant = 16 ∧
    bitsN (0x600200 : W64).toNat 26 21 = 3 ∧ (Cols.ofNat (0x3F80000004100F00 : W64).toNat).o0 + (Cols.ofNat (0x3F80000004100F00 : W64).toNat).no ≤ 128 ∧
    (stepS .f [] drainE).block? 1 = some tB ∧ (Region.ofNat (0x0F000F00 : W64).toNat).rel = false := by decide
theorem test_meets_MatrixResults_columns : ColsOk (Cols.ofNat (0x3F80000004100F00 : W64).toNat) ∧
    ListRow { Ctx.clear (some tC) with rowmax := [(0, 0x7F800000)], mode := .d } 3 0 [] :=
  ⟨by unfold ColsOk; decide, by decide, fun n y h => by simp at h, by decide, fun _ => by decide, fun y h => by cases h⟩
def wtE (step : Nat) : MosEntry := { stepE (.wloadTile ⟨false, 1, 2⟩) [0x500100200, 0] with ctx := none, started := decide (step ≠ 0), step := step, wb := some (0, 1216) }
/-- The engine's weight buffer: what fills it. -/
def wS (e : MosEntry) (fill : List (Nat × Nat × Nat)) (more : List MosEntry) : State := { tX matrixCrew .f none [] with
  cores := { Core.reset with mos := e :: more, ctxs := [.clear (some tC), .clear none], images := [imgOf 1], filling := fill } :: List.replicate 63 .reset }
theorem turn_wt (n : Nat) (f : List (Nat × Nat × Nat)) (h : (n = 0 ∧ f = []) ∨ (n = 1 ∧ f = [(0, 1, 1)])) :
    StepTurn (wS (wtE n) f []) 0 0 (wtE n) := by
  rcases h with ⟨rfl, rfl⟩ | ⟨rfl, rfl⟩ <;> exact turn_of _ _ (by decide) (by decide)
def readerE : MosEntry := { mmaE with uid := 9, started := true, wb := some (0, 64) }
theorem turn_wt_waits : StepTurn (wS (wtE 0) [] [readerE]) 0 0 (wtE 0) := turn_of _ _ (by decide) (by decide)
theorem test_meets_WeightResults : (wS (wtE 0) [] []).fillWaits (wtE 0) (0, 1216) = false ∧ (tileImage (wtE 0).grant 0x500100200 (tX0.slotAt tC 1)).2 = 1216 ∧
    (∃ f ∈ ((wS (wtE 1) [(0, 1, 1)] []).core 0).filling, f.2.2 = (wtE 1).uid) ∧ (∀ f ∈ ((wS (wtE 0) [] []).core 0).filling, f.2.2 ≠ (wtE 0).uid) ∧
    (wS (wtE 0) [] [readerE]).fillWaits (wtE 0) (0, 1216) = true ∧ 1216 - 64 ≤ 4096 * 1 := by decide
theorem walk_none (s : State) (e : MosEntry) (k : AccKind) (lo hi : Nat) (h : hi ≤ lo) : s.walkBody e k lo hi = s.draw.2 := by
  have : (hi - lo + 65535) / 65536 = 0 := by omega
  simp [State.walkBody, this, State.walkPages]
/-- A weight image of one block of headers at 0x2000, read at its first step and at its last. -/
def wiE (step : Nat) (tsr : List Byte) : MosEntry := { imgE with vals := [0x2000, 0], started := decide (step ≠ 0), step := step, tsr := tsr }
def wiHead : List Byte := bytesOf 64 (0xC7C05742 + 1 * 2 ^ 32 + 16 * 2 ^ 64 + 16 * 2 ^ 80 + 5 * 2 ^ 96 + 128 * 2 ^ 128)
def wiS (e : MosEntry) (head : List Byte) (fill : List (Nat × Nat × Nat)) : State := { tCpH e with
  mem := writeBytes [] (fun _ => false) 0x2000 head, cores := { (tCpH e).core 0 with filling := fill, tte := [⟨0, 0, 0, 2, 0xBF⟩] } :: List.replicate 63 .reset }
def accIs (r : Except (Nat × W64) (List Loc) × State) (ls : List Loc) : Bool := match r.1 with | .ok l => l == ls | .error _ => false
theorem turn_wi (n : Nat) (h : n = 0 ∨ n = 1) : StepTurn (wiS (wiE n (if n = 0 then [] else wiHead)) wiHead [(0, 1, 1)]) 0 0
    (wiE n (if n = 0 then [] else wiHead)) := by
  rcases h with rfl | rfl <;> exact turn_of _ _ (by decide) (by decide)
set_option exponentiation.threshold 512 in
theorem test_meets_WeightResults_img : (∀ s : State, s.walkBody (wiE 0 []) .read (0x2000 + 64) (0x2000 + (WHead.ofBytes []).size) = s.draw.2) ∧
    (∀ s : State, s.walkBody (wiE 1 wiHead) .read (0x2000 + 64 + 4096 * 1) (0x2000 + (WHead.ofBytes wiHead).size) = s.draw.2) ∧
    accIs ((wiS (wiE 0 []) wiHead []).draw.2.engAccess tC (wiE 0 []).priv .read 0x2000 64) [locMem 0x2000 64] = true ∧
    accIs ((wiS (wiE 1 wiHead) wiHead [(0, 1, 1)]).draw.2.engAccess tC (wiE 0 []).priv .read (0x2000 + 64) (128 - 64)) [locMem 0x2040 64] = true ∧
    ((wiS (wiE 0 []) wiHead []).draw.2.stalledLocs 1 [locMem 0x2000 128] = false) ∧ (wiS (wiE 0 []) wiHead []).poisonedLocs [locMem 0x2000 128] = false ∧
    (WHead.ofBytes wiHead).ok = true ∧ (WHead.ofBytes wiHead).size = 128 ∧ (WHead.ofBytes []).ok = false :=
  ⟨fun s => walk_none s _ _ _ _ (by decide), fun s => walk_none s _ _ _ _ (by decide), by and_intros <;> decide⟩
theorem ahead_none (s : State) (e : MosEntry) (g : Geo) (n : Nat) (h : g.pagesAhead (s.spadOf e.crew.blockId) e.step = []) : s.walkAhead e g n = s := by
  rw [State.walkAhead, h]; split <;> simp [State.walkPages]
/-- The copy of 16 elements at 0x2000 under an identity translation, and the same as a store or a reduction in its second part. -/
def cpS (e : MosEntry) : State := { tCpH e with cores := { (tCpH e).core 0 with tte := [⟨0, 0, 0, 2, 0xBF⟩] } :: List.replicate 63 .reset }
def cpE (i : Instr) (p : Option (List Byte × Option (Nat × W64) × Nat)) : MosEntry := { copyE with
  instr := i, part := p, vals := [0x0F00000200, 0xFFFFFFFFF0000000, 0, 0, 0] }
def reachIs (r : Reach) (ls : List Loc) : Bool := match r with | .got l none _ _ => l == ls | .got _ (some _) _ _ => false | .wait _ _ => false
def half : Option (List Byte × Option (Nat × W64) × Nat) := some ([1], none, 1)
def tstI : Instr := .tst ⟨false, 10, 3, 11⟩
def tredI : Instr := .tred ⟨false, 10, 3, 11, .add⟩
theorem turn_cp (i : Instr) (p : Option (List Byte × Option (Nat × W64) × Nat)) (h : (i = tldI ∧ (p = none ∨ p = half)) ∨ (i = tstI ∧ p = half) ∨ (i = tredI ∧ p = half)) :
    StepTurn (cpS (cpE i p)) 0 0 (cpE i p) := by
  rcases h with ⟨rfl, rfl | rfl⟩ | ⟨rfl, rfl⟩ | ⟨rfl, rfl⟩ <;> exact turn_of _ _ (by decide) (by decide)
theorem begun_cp (i : Instr) (p : Option (List Byte × Option (Nat × W64) × Nat)) (s : State) : s.beginStep (cpE i p) = some (s, cpE i p) := rfl
theorem ahead_cp (i : Instr) (p : Option (List Byte × Option (Nat × W64) × Nat)) (n : Nat) (h : i = tldI ∨ i = tstI ∨ i = tredI) (hp : p = none ∨ p = half) :
    (cpS (cpE i p)).draw.2.draw.2.walkAhead (cpE i p) ((cpS (cpE i p)).geo (cpE i p)) n = (cpS (cpE i p)).draw.2.draw.2 :=
  ahead_none _ _ _ _ (by rcases h with rfl | rfl | rfl <;> rcases hp with rfl | rfl <;> decide)
def reachOf (i : Instr) (p : Option (List Byte × Option (Nat × W64) × Nat)) (k : AccKind) : Reach :=
  let s := cpS (cpE i p)
  s.draw.2.draw.2.reachSpan (cpE i p) (s.geo (cpE i p)) ((s.geo (cpE i p)).span (s.spadOf 1) 0) k false
theorem test_meets_CopyResults : (copyForm tldI).isSome = true ∧ (copyForm tstI).isSome = true ∧ (copyForm tredI).isSome = true ∧
    reachIs (reachOf tldI none .read) [locMem 0x2000 64] = true ∧ reachIs (reachOf tstI half .write) [locMem 0x2000 64] = true ∧
    reachIs (reachOf tredI half .atomic) [locMem 0x2000 64] = true ∧ (cpS copyE).stalledLocs 1 [.spad 1 0x200 64] = false ∧
    (cpS copyE).poisonedLocs [locMem 0x2000 64] = false ∧ copyKind tldI = .read ∧ copyKind tstI = .write ∧ copyKind tredI = .atomic := by
  and_intros <;> decide
theorem test_meets_CopyResults_elements : ∀ i < 16, subLoc [locMem 0x2000 64] (4 * i) 4 = some (.phys ⟨0x2000 + 4 * i, 4, false⟩) ∧
    isDev (0x2000 + 4 * i) = false ∧ (cpS copyE).poisonedRange (0x2000 + 4 * i) 4 = false ∧ ∀ m < i, 0x2000 + 4 * m + 4 ≤ 0x2000 + 4 * i := by
  decide

end Sys2Proof.Tests
end

/-! Soft errors, retirement, die resets and throttling: the proof of the statement on errors and health (R5, R305, R306, R324, R329,
R330), and the laws of the error log, of the end of a copy and of the identity page that it rests on. -/

namespace Sys2Proof.Machine

/-! ### Lists and sparse maps -/

theorem listGet_eq_getElem? {α : Type} (d : α) (l : List α) (i : Nat) : listGet d l i = l[i]?.getD d := by
  induction l generalizing i with
  | nil => rfl
  | cons x l ih => cases i with
    | zero => rfl
    | succ i => simpa [listGet] using ih i

theorem listSet_eq_set {α : Type} (l : List α) (i : Nat) (v : α) : listSet l i v = l.set i v := by
  induction l generalizing i with
  | nil => rfl
  | cons x l ih => cases i with
    | zero => rfl
    | succ i => simp [listSet, ih]

theorem sparseGet_filter_out {α : Type} (d : α) (m : Sparse α) {f : Nat × α → Bool} {a : Nat} (h : ∀ v, f (a, v) = false) :
    sparseGet d (m.filter f) a = d := by
  induction m with
  | nil => rfl
  | cons x t ih =>
    obtain ⟨k, v⟩ := x
    by_cases hk : a = k
    · subst hk; simpa [h] using ih
    · rw [List.filter_cons]
      split <;> simp [sparseGet, hk, ih]

/-! ### The error log -/

theorem length_bytesOf (n v : Nat) : (bytesOf n v).length = n := by
  induction n generalizing v with
  | zero => rfl
  | succ n ih => simp [bytesOf, ih]

theorem State.inLog_of_logPlace_le (s : State) {a : Nat} (he : s.mbox.elEn = true) (h : s.logPlace ≤ a) (ha : a < s.logPlace + 32) :
    InLog s a := by
  have hslot : s.mbox.elTail.toNat % 2 ^ s.mbox.elLog2.toNat < 2 ^ s.mbox.elLog2.toNat := Nat.mod_lt _ (Nat.two_pow_pos _)
  unfold State.logPlace at h ha
  exact ⟨he, by omega, by omega⟩

/-- What a report to the error log can do (R327): memory changes in the ring only, and the mailbox in its tail and its waiting entries. -/
theorem State.log_eq (s : State) (cause chiplet code addr : Nat) : ∃ m t w,
    s.log cause chiplet code addr = { s with mem := m, mbox := { s.mbox with elTail := t, elWait := w } } ∧
    ∀ a, ¬ InLog s a → sparseGet unlistedByte m a = s.byte a := by
  unfold State.log
  split
  case isFalse => exact ⟨s.mem, s.mbox.elTail, s.mbox.elWait, rfl, fun _ _ => rfl⟩
  case isTrue he =>
    unfold State.logEntry State.logWrite
    split
    case isTrue => exact ⟨s.mem, s.mbox.elTail, _, rfl, fun _ _ => rfl⟩
    case isFalse =>
      refine ⟨_, _, s.mbox.elWait, rfl, fun a ha => ?_⟩
      split
      case isFalse => rfl
      case isTrue =>
        refine sparseGet_write_other _ _ _ _ _ ?_
        simp only [List.length_append, length_bytesOf]
        by_cases hin : s.logPlace ≤ a ∧ a < s.logPlace + 32
        · exact absurd (s.inLog_of_logPlace_le he hin.1 hin.2) ha
        · omega

section
variable (s : State) (cause chiplet code addr : Nat)

@[simp] theorem State.log_ident : (s.log cause chiplet code addr).ident = s.ident := by
  obtain ⟨m, t, w, h, -⟩ := s.log_eq cause chiplet code addr
  rw [h]

@[simp] theorem State.log_fuses : (s.log cause chiplet code addr).fuses = s.fuses := by
  obtain ⟨m, t, w, h, -⟩ := s.log_eq cause chiplet code addr
  rw [h]

@[simp] theorem State.log_fore : (s.log cause chiplet code addr).fore = s.fore := by
  obtain ⟨m, t, w, h, -⟩ := s.log_eq cause chiplet code addr
  rw [h]

@[simp] theorem State.log_crews : (s.log cause chiplet code addr).crews = s.crews := by
  obtain ⟨m, t, w, h, -⟩ := s.log_eq cause chiplet code addr
  rw [h]

@[simp] theorem State.log_cores : (s.log cause chiplet code addr).cores = s.cores := by
  obtain ⟨m, t, w, h, -⟩ := s.log_eq cause chiplet code addr
  rw [h]

@[simp] theorem State.log_ctls : (s.log cause chiplet code addr).ctls = s.ctls := by
  obtain ⟨m, t, w, h, -⟩ := s.log_eq cause chiplet code addr
  rw [h]

@[simp] theorem State.log_corrected : (s.log cause chiplet code addr).mbox.corrected = s.mbox.corrected := by
  obtain ⟨m, t, w, h, -⟩ := s.log_eq cause chiplet code addr
  rw [h]

theorem State.log_byte {a : Nat} (ha : ¬ InLog s a) : (s.log cause chiplet code addr).byte a = s.byte a := by
  obtain ⟨m, t, w, h, hm⟩ := s.log_eq cause chiplet code addr
  rw [h]
  exact hm a ha

end

/-! ### What the end of a copy leaves

A die reset ends the copies in flight with transport errors. Each touches queues, chunks, pins and page descriptors, and none touches
the parts of the package below. -/

/-- The identity page, the fuses, and how many control tiles there are. -/
def State.chassis (s : State) : Ident × Fuses × Nat := (s.ident, s.fuses, s.ctls.length)

theorem foldl_chassis {α : Type} {f : State → α → State} (h : ∀ s a, (f s a).chassis = s.chassis) (l : List α) (s : State) :
    (l.foldl f s).chassis = s.chassis := by
  induction l generalizing s with
  | nil => rfl
  | cons a l ih => exact (ih (f s a)).trans (h s a)

@[simp] theorem State.log_chassis (s : State) (cause chiplet code addr : Nat) :
    (s.log cause chiplet code addr).chassis = s.chassis := by
  obtain ⟨m, t, w, h, -⟩ := s.log_eq cause chiplet code addr
  rw [h]; rfl

@[simp] theorem State.watch_chassis (s : State) (pa : Nat) (bs : List Byte) : (s.watch pa bs).chassis = s.chassis := by
  unfold State.watch; split <;> rfl

@[simp] theorem State.changed_chassis (s : State) (m : List Host.Cell) (pa n : Nat) : (s.changed m pa n).chassis = s.chassis := by
  unfold State.changed; split <;> rfl

@[simp] theorem State.memWrite_chassis (s : State) (pa : Nat) (bs : List Byte) : (s.memWrite pa bs).chassis = s.chassis := by
  simp only [State.memWrite, State.changed_chassis, State.watch_chassis]
  split
  · exact State.log_chassis ..
  · rfl

@[simp] theorem State.putSctx_chassis (s : State) (x : Nat) (c : SCtx) : (s.putSctx x c).chassis = s.chassis := rfl

@[simp] theorem State.again_chassis (s : State) (x : Nat) : (s.again x).chassis = s.chassis := by
  unfold State.again; split <;> rfl

@[simp] theorem State.foreWrite_chassis (s : State) (x pa : Nat) (bs : List Byte) : (s.foreWrite x pa bs).chassis = s.chassis := by
  unfold State.foreWrite
  dsimp only
  split
  · exact (State.again_chassis ..).trans (State.memWrite_chassis ..)
  · exact State.again_chassis ..

@[simp] theorem State.putDesc_chassis (s : State) (x p : Nat) (d : Desc) : (s.putDesc x p d).chassis = s.chassis :=
  State.foreWrite_chassis ..

@[simp] theorem State.markFrame_chassis (s : State) (x t f : Nat) (used : Bool) : (s.markFrame x t f used).chassis = s.chassis :=
  State.foreWrite_chassis ..

@[simp] theorem State.chassis_fore (s : State) (f : Foreman) : ({ s with fore := f } : State).chassis = s.chassis := rfl

@[simp] theorem State.freePage_chassis (s : State) (x p : Nat) : (s.freePage x p).chassis = s.chassis := by
  simp only [State.freePage, State.putDesc_chassis, State.putSctx_chassis, State.markFrame_chassis, State.chassis_fore]
  exact foldl_chassis (fun s m => by simp) _ s

@[simp] theorem State.quiesce_chassis (s : State) (x p : Nat) : (s.quiesce x p).chassis = s.chassis := by
  unfold State.quiesce
  split
  · rfl
  · exact State.putDesc_chassis ..

@[simp] theorem State.settlePage_chassis (s : State) (x p : Nat) : (s.settlePage x p).chassis = s.chassis := by
  unfold State.settlePage
  dsimp only
  repeat' split
  · rfl
  · exact State.freePage_chassis ..
  · exact State.quiesce_chassis ..
  · exact State.putDesc_chassis ..
  · rfl

@[simp] theorem State.unpinPage_chassis (s : State) (x p : Nat) : (s.unpinPage x p).chassis = s.chassis := by
  simp [State.unpinPage]

@[simp] theorem State.putCtl_chassis (s : State) (d : Nat) (c : Ctl) : (s.putCtl d c).chassis = s.chassis := by
  simp [State.chassis, listSet_length]

@[simp] theorem State.putMos_chassis (s : State) (c : CrewRef) (l : List MosEntry) : (s.putMos c l).chassis = s.chassis := by
  cases c with
  | ctl d => exact State.putCtl_chassis ..
  | blk b k => rfl

@[simp] theorem State.putSlots_chassis (s : State) (c : CrewRef) (l : List OvSlot) : (s.putSlots c l).chassis = s.chassis := by
  cases c with
  | ctl d => exact State.putCtl_chassis ..
  | blk b k => rfl

@[simp] theorem State.modCrew_chassis (s : State) (c : CrewRef) (f : Crew → Crew) : (s.modCrew c f).chassis = s.chassis := by
  simp [State.chassis]

@[simp] theorem State.modBlock_chassis (s : State) (b : Nat) (f : Block → Block) : (s.modBlock b f).chassis = s.chassis := by
  simp [State.chassis]

@[simp] theorem State.dropTile_chassis (s : State) (e : MosEntry) : (s.dropTile e).chassis = s.chassis := State.putMos_chassis ..

@[simp] theorem State.finishTile_chassis (s : State) (e : MosEntry) (v : Nat) : (s.finishTile e v).chassis = s.chassis := by
  simp [State.finishTile]

@[simp] theorem State.unpinTile_chassis (s : State) (e : MosEntry) : (s.unpinTile e).chassis = s.chassis := by
  simp only [State.unpinTile, State.setTile, State.putMos_chassis]
  exact foldl_chassis (fun s p => by simp) _ s

@[simp] theorem State.endCopy_chassis (s : State) (e : MosEntry) (x : Chunk) : (s.endCopy e x).chassis = s.chassis := by
  simp only [State.endCopy, State.dropTile_chassis, State.unpinTile_chassis]
  exact foldl_chassis (fun s p => by simp) _ s

@[simp] theorem State.failCopy_chassis (s : State) (e : MosEntry) : (s.failCopy e).chassis = s.chassis := by
  unfold State.failCopy
  split
  · simp [State.ovFail, State.putSlot]
  · exact State.finishTile_chassis ..
  · exact State.endCopy_chassis ..

@[simp] theorem State.transportError_chassis (s : State) (e : MosEntry) : (s.transportError e).chassis = s.chassis := by
  simp [State.transportError]

@[simp] theorem State.putDir_chassis (s : State) (n : Nat) (x : Link) : (s.putDir n x).chassis = s.chassis := by
  unfold State.putDir
  split
  · rfl
  · split <;> rfl

@[simp] theorem State.loseFlit_chassis (s : State) (shut : List Nat) (l : Nat) (e : MosEntry) :
    (s.loseFlit shut l e).chassis = s.chassis := by
  unfold State.loseFlit
  dsimp only
  split
  · exact State.transportError_chassis ..
  · exact State.putDir_chassis ..

@[simp] theorem State.eraseLinks_chassis (s : State) (shut : List Nat) : (s.eraseLinks shut).chassis = s.chassis :=
  foldl_chassis (fun s n => by dsimp only; split <;> simp) _ s

/-- A shutdown changes the SHUT bits alone among these parts (R306). -/
@[simp] theorem State.shutDown_chassis (s : State) (shut : List Nat) (link : Option Nat) :
    (s.shutDown shut link).chassis = (s.shut shut).chassis := by
  have hreset (t : State) : ((List.range 10).foldl (fun s k => if link = some (k / 2) then s.putDir k .reset else s) t).chassis
      = t.chassis := foldl_chassis (fun s n => by split <;> simp) _ t
  have hshut {t u : State} (h : t.chassis = u.chassis) : (t.shut shut).chassis = (u.shut shut).chassis := by
    simp only [State.chassis, Prod.mk.injEq] at h
    obtain ⟨hi, hf, hc⟩ := h
    simp [State.chassis, State.shut, State.idUpdate, hi, hf, hc]
  unfold State.shutDown
  dsimp only
  rw [foldl_chassis (fun s l => foldl_chassis (fun s e => s.loseFlit_chassis shut l e) _ s), State.eraseLinks_chassis]
  exact hshut (hreset s)

/-! ### The identity page -/

/-- A replace request changes GEN, and makes its reason the last one in force (R330). -/
theorem State.replace_ident (s : State) (reason chiplet : Nat) : ∃ g,
    (s.replace reason chiplet).ident =
      { s.ident with gen := g, reasons := s.ident.reasons.filter (fun r => r != reason) ++ [reason] } :=
  ⟨_, State.log_ident ..⟩

@[simp] theorem State.replace_repl (s : State) (reason chiplet : Nat) : (s.replace reason chiplet).ident.repl = true := by
  obtain ⟨g, h⟩ := s.replace_ident reason chiplet
  simp [h, Ident.repl]

@[simp] theorem State.replace_reason (s : State) (reason chiplet : Nat) :
    (s.replace reason chiplet).ident.reason = BitVec.ofNat 8 reason := by
  obtain ⟨g, h⟩ := s.replace_ident reason chiplet
  simp [h, Ident.reason]

@[simp] theorem State.replace_shuttered (s : State) (reason chiplet i : Nat) :
    (s.replace reason chiplet).shuttered i = s.shuttered i := by
  obtain ⟨g, h⟩ := s.replace_ident reason chiplet
  simp [h, State.shuttered]

@[simp] theorem State.replace_retired (s : State) (reason chiplet : Nat) :
    (s.replace reason chiplet).ident.retired = s.ident.retired := by
  obtain ⟨g, h⟩ := s.replace_ident reason chiplet
  rw [h]

@[simp] theorem State.replace_stepAt (s : State) (reason chiplet : Nat) :
    (s.replace reason chiplet).ident.stepAt = s.ident.stepAt := by
  obtain ⟨g, h⟩ := s.replace_ident reason chiplet
  rw [h]

@[simp] theorem State.replace_mhz (s : State) (reason chiplet i : Nat) :
    (s.replace reason chiplet).ident.mhz i = s.ident.mhz i := by
  obtain ⟨g, h⟩ := s.replace_ident reason chiplet
  rw [h]; rfl

@[simp] theorem State.replace_fuses (s : State) (reason chiplet : Nat) : (s.replace reason chiplet).fuses = s.fuses := by
  simp [State.replace, State.idUpdate]

@[simp] theorem State.replace_ctls (s : State) (reason chiplet : Nat) : (s.replace reason chiplet).ctls = s.ctls := by
  simp [State.replace, State.idUpdate]

@[simp] theorem State.replace_fore (s : State) (reason chiplet : Nat) : (s.replace reason chiplet).fore = s.fore := by
  simp [State.replace, State.idUpdate]

/-! ### Shutting chiplets down (R300, R305, R306) -/

theorem State.shut_shuttered (s : State) {l : List Nat} {i : Nat} (hi : i < 17) (hl : i ∈ l) : (s.shut l).shuttered i = true := by
  rw [State.shuttered, State.shut, State.idUpdate]
  simp only [BitVec.toNat_or, BitVec.toNat_ofNat, Nat.testBit_or, Nat.testBit_mod_two_pow, testBit_listMask]
  simp [hi, hl]

section
variable (s : State) (shut : List Nat) (link : Option Nat)

theorem State.shutDown_ident : (s.shutDown shut link).ident = (s.shut shut).ident := congrArg Prod.fst (s.shutDown_chassis shut link)

@[simp] theorem State.shutDown_fuses : (s.shutDown shut link).fuses = s.fuses :=
  congrArg (fun c => c.2.1) (s.shutDown_chassis shut link)

@[simp] theorem State.shutDown_ctls_length : (s.shutDown shut link).ctls.length = s.ctls.length :=
  congrArg (fun c => c.2.2) (s.shutDown_chassis shut link)

theorem State.shutDown_shuttered {i : Nat} (hi : i < 17) (hl : i ∈ shut) : (s.shutDown shut link).shuttered i = true := by
  have h := s.shut_shuttered hi hl
  rwa [State.shuttered, ← s.shutDown_ident shut link] at h

end

theorem foldl_keeps_mem {α : Type} {f : State → α → State} (h : ∀ s a, (f s a).mem = s.mem) (l : List α) (s : State) :
    (l.foldl f s).mem = s.mem := by
  induction l generalizing s with
  | nil => rfl
  | cons a l ih => exact (ih (f s a)).trans (h s a)

@[simp] theorem State.putDir_mem (s : State) (n : Nat) (x : Link) : (s.putDir n x).mem = s.mem := by
  unfold State.putDir
  split
  · rfl
  · split <;> rfl

@[simp] theorem State.eraseLinks_mem (s : State) (shut : List Nat) : (s.eraseLinks shut).mem = s.mem :=
  foldl_keeps_mem (fun s n => by dsimp only; split <;> simp) _ s

theorem State.inFlight_nil {s : State} (h : s.inFlight (fun _ _ => true) = []) (test : MosEntry → Loc → Bool) :
    s.inFlight test = [] := by
  simp only [State.inFlight, List.filter_eq_nil_iff, Bool.and_eq_true, List.any_eq_true, not_and] at h ⊢
  exact fun e he hm => fun ⟨l, hl, _⟩ => h e he hm ⟨l, hl, trivial⟩

/-- With no copy in flight, a shutdown changes no byte: only the copies that it ends write (pins and the error log). -/
theorem State.shutDown_mem (s : State) (shut : List Nat) (h : s.inFlight (fun _ _ => true) = []) :
    (s.shutDown shut none).mem = s.mem := by
  unfold State.shutDown
  simp only [State.inFlight_nil h, List.foldl_nil]
  rw [foldl_keeps_mem (fun _ _ => rfl), State.eraseLinks_mem]
  exact foldl_keeps_mem (fun s n => by split <;> simp) _ s

/-! ### Restarting a die -/

section
variable (s : State) (i : Nat)

@[simp] theorem State.restartClock_mem : (s.restartClock i).mem = s.mem := rfl
@[simp] theorem State.restartClock_fuses : (s.restartClock i).fuses = s.fuses := rfl
@[simp] theorem State.restartClock_ctls : (s.restartClock i).ctls = s.ctls := rfl
@[simp] theorem State.restartClock_reason : (s.restartClock i).ident.reason = s.ident.reason := rfl
@[simp] theorem State.restartClock_shuttered (j : Nat) : (s.restartClock i).shuttered j = s.shuttered j := rfl

theorem State.restartClock_clockOf (h1 : 1 ≤ i) (h4 : i ≤ 4) : (s.restartClock i).clockOf i = 0 := by
  obtain rfl | rfl | rfl | rfl : i = 1 ∨ i = 2 ∨ i = 3 ∨ i = 4 := by omega
  all_goals rfl

end

section
variable (s : State) (d : Nat)

@[simp] theorem State.resetCores_ident : (s.resetCores d).ident = s.ident := by
  unfold State.resetCores; rfl
@[simp] theorem State.resetCores_clk : (s.resetCores d).clk = s.clk := by
  unfold State.resetCores; rfl
@[simp] theorem State.resetCores_clockOf (i : Nat) : (s.resetCores d).clockOf i = s.clockOf i := by
  simp only [State.clockOf, State.resetCores_clk]
@[simp] theorem State.resetCores_shuttered (i : Nat) : (s.resetCores d).shuttered i = s.shuttered i := by
  simp only [State.shuttered, State.resetCores_ident]
@[simp] theorem State.resetCores_cores_length : (s.resetCores d).cores.length = s.cores.length := by simp [State.resetCores]

theorem State.resetCores_ctl (h : d < s.ctls.length) : (s.resetCores d).ctl d = { Ctl.reset with gens := (s.ctl d).gens } := by
  have hlen : d < (s.stopCtl d).ctls.length := by simpa [State.stopCtl, listSet_length] using h
  exact listGet_set_same _ _ _ _ hlen

theorem State.resetCores_core {n : Nat} (hn : n < s.cores.length) (hd : s.dieOfCore n = d) :
    (s.resetCores d).core n = { Core.reset with gens := (s.core n).gens } := by
  simp [State.core, State.resetCores, listGet_eq_getElem?, hn, hd]

theorem State.resetCores_lost {n : Nat} (hn : n < s.cores.length) (hd : s.dieOfCore n = d) : n ∈ (s.resetCores d).sup.lost := by
  simp [State.resetCores, hn, hd]

theorem State.resetCores_byte {a : Nat} (ha : a < 0x100000000) (hd : s.dieOfCore (a / 0x03000000) = d) :
    (s.resetCores d).byte a = unlistedByte :=
  sparseGet_filter_out _ _ (fun v => by simp [ha, hd])

end
/-! ### Soft errors (R324, log entry 37) -/

theorem exec_softErrorCorrected (s : State) (i : Nat) : ∃ t, exec (.softErrorCorrected i) s = .next t ∧
    t.mbox.corrected = s.mbox.corrected + 1 ∧ t.crews = s.crews ∧ t.cores = s.cores ∧ ∀ a, ¬ InLog s a → t.byte a = s.byte a := by
  refine ⟨_, rfl, ?_, ?_, ?_, fun a ha => ?_⟩
  · simp
  · simp
  · simp
  · exact State.log_byte _ _ _ _ _ ha

theorem State.coreError_of_le {s : State} {n : Nat} (h : s.cores.length ≤ n) : s.coreError n = s :=
  if_neg (by omega)

theorem State.coreError_of_lt {s : State} {n : Nat} (h : n < s.cores.length) :
    s.coreError n = s.putCore n { s.core n with errors := (s.core n).errors ++ [s.cclk (s.dieOfCore n)] } := by
  rw [State.coreError, if_pos h]

/-- A counted error changes the core's list of errors, and nothing outside the cores (R330). -/
theorem State.coreError_eq (s : State) (n : Nat) : ∃ l, l.length = s.cores.length ∧ s.coreError n = { s with cores := l } := by
  by_cases h : n < s.cores.length
  · exact ⟨_, listSet_length _ _ _, State.coreError_of_lt h⟩
  · exact ⟨s.cores, rfl, State.coreError_of_le (by omega)⟩

section
variable (s : State) (n : Nat)

@[simp] theorem State.coreError_poison : (s.coreError n).poison = s.poison := by
  obtain ⟨l, -, h⟩ := s.coreError_eq n
  rw [h]

@[simp] theorem State.coreError_crews : (s.coreError n).crews = s.crews := by
  obtain ⟨l, -, h⟩ := s.coreError_eq n
  rw [h]

@[simp] theorem State.coreError_mem : (s.coreError n).mem = s.mem := by
  obtain ⟨l, -, h⟩ := s.coreError_eq n
  rw [h]

@[simp] theorem State.coreError_cores_length : (s.coreError n).cores.length = s.cores.length := by
  obtain ⟨l, hl, h⟩ := s.coreError_eq n
  rw [h]; exact hl

theorem State.coreError_core_self (h : n < s.cores.length) :
    (s.coreError n).core n = { s.core n with errors := (s.core n).errors ++ [s.cclk (s.dieOfCore n)] } := by
  rw [State.coreError_of_lt h, State.core_putCore_same _ _ _ h]

theorem State.coreError_core_other {m : Nat} (h : m ≠ n) : (s.coreError n).core m = s.core m := by
  by_cases hn : n < s.cores.length
  · rw [State.coreError_of_lt hn, State.core_putCore_other _ _ _ _ h]
  · rw [State.coreError_of_le (by omega)]

end

theorem exec_sramUncorrectable_memory {s u : State} {pa : Nat} (hm : mapped pa = true) (hb : s.backed pa = true)
    (hu : u = (if pa < 0x100000000 then s.coreError (pa / 0x03000000) else s)) :
    (pa / 8 ∉ s.poison → exec (.sramUncorrectable (.memory pa)) s = .next { u with poison := s.poison ++ [pa / 8] }) ∧
    (pa / 8 ∈ s.poison → exec (.sramUncorrectable (.memory pa)) s = .next u) := by
  have hp : u.poison = s.poison := by rw [hu]; split <;> simp
  have he : exec (.sramUncorrectable (.memory pa)) s =
      .next (if u.poison.contains (pa / 8) then u else { u with poison := u.poison ++ [pa / 8] }) := by
    simp only [exec, execSramUncorrectable, hm, hb, Bool.and_self, if_true, ← hu]
  rw [he, hp]
  exact ⟨fun h => by simp [h], fun h => by simp [h]⟩

theorem exec_sramUncorrectable_scratchpad {s : State} {b : Nat} {x : Block} (h : s.block? b = some x) :
    exec (.sramUncorrectable (.scratchpad b)) s = .next ((s.coreError x.core).killBlock b cSPMERR) := by
  simp only [exec, execSramUncorrectable, h]

theorem exec_sramUncorrectable_weights {s : State} {n : Nat} (off : Nat) (hn : n < s.cores.length) :
    ∃ t, exec (.sramUncorrectable (.weights n off)) s = .next t ∧
      (t.core n).images = (s.core n).images.filter (fun x => decide (off < x.off) || decide (x.off + x.size ≤ off)) ∧
      (t.core n).errors = (s.core n).errors ++ [s.cclk (s.dieOfCore n)] := by
  refine ⟨_, rfl, ?_⟩
  rw [State.core_putCore_same _ _ _ (by simpa using hn), State.coreError_core_self _ _ hn]
  exact ⟨rfl, rfl⟩

theorem State.sctx_frozen (s : State) (x : Nat) : (s.sctx x).frozen = (s.heldSctx x).frozen := by
  unfold State.sctx
  dsimp only
  split <;> rfl

theorem exec_sramUncorrectable_foreman {s : State} {x : Nat} (hx : x < 2) (hc : s.fore.ctxs.length = 2) :
    ∃ t, exec (.sramUncorrectable (.foreman x)) s = .next t ∧
      (t.sctx x).frozen = true ∧ t.ident.repl = true ∧ t.ident.reason = 7 := by
  refine ⟨(s.putSctx x { s.sctx x with frozen := true }).replace 7 0, ?_, ?_, State.replace_repl .., State.replace_reason ..⟩
  · simp only [exec, execSramUncorrectable, hx, if_true]
  · rw [State.sctx_frozen, State.heldSctx, State.replace_fore, State.putSctx, State.setSctx, listGet_set_same _ _ _ _ (by omega)]

/-- The overlay in slot k is lost (R324). -/
def loseSlot (l : List OvSlot) (k : Nat) : List OvSlot := listSet l k { listGet .empty l k with resident := false }

theorem loseSlot_self {l : List OvSlot} {k : Nat} (h : k < l.length) : ((loseSlot l k)[k]?.getD .empty).resident = false := by
  simp [loseSlot, listSet_eq_set, h]

theorem loseSlot_other (l : List OvSlot) {j k : Nat} (h : j ≠ k) : (loseSlot l k)[j]? = l[j]? := by
  simp [loseSlot, listSet_eq_set, List.getElem?_set_ne h.symm]

theorem exec_sramUncorrectable_coreStore {s : State} {n k : Nat} (hn : n < s.cores.length) (hk : k < (s.core n).slots.length) :
    ∃ t, exec (.sramUncorrectable (.store (.core n) k)) s = .next t ∧ t.cores.length = s.cores.length ∧
      ((t.core n).slots[k]?.getD .empty).resident = false ∧
      (∀ j, j ≠ k → (t.core n).slots[j]? = (s.core n).slots[j]?) ∧ (∀ m, m ≠ n → t.core m = s.core m) ∧
      (t.core n).errors = (s.core n).errors ++ [s.cclk (s.dieOfCore n)] := by
  refine ⟨(s.coreError n).putCore n { (s.coreError n).core n with slots := loseSlot ((s.coreError n).core n).slots k }, rfl, ?_⟩
  rw [State.core_putCore_same _ _ _ (by simpa using hn), State.coreError_core_self _ _ hn]
  refine ⟨?_, loseSlot_self hk, fun j hj => loseSlot_other _ hj, fun m hm => ?_, rfl⟩
  · simp [listSet_length]
  · rw [State.core_putCore_other _ _ _ _ hm, State.coreError_core_other _ _ hm]

theorem exec_sramUncorrectable_ctlStore {s : State} {d k : Nat} (hd : d < s.ctls.length) (hk : k < (s.ctl d).slots.length) :
    ∃ t, exec (.sramUncorrectable (.store (.ctl d) k)) s = .next t ∧ ((t.ctl d).slots[k]?.getD .empty).resident = false ∧
      (∀ j, j ≠ k → (t.ctl d).slots[j]? = (s.ctl d).slots[j]?) ∧ (∀ e, e ≠ d → t.ctl e = s.ctl e) ∧ t.cores = s.cores := by
  refine ⟨s.putCtl d { s.ctl d with slots := loseSlot (s.ctl d).slots k }, rfl, ?_⟩
  have hself : (s.putCtl d { s.ctl d with slots := loseSlot (s.ctl d).slots k }).ctl d =
      { s.ctl d with slots := loseSlot (s.ctl d).slots k } := listGet_set_same _ _ _ _ hd
  rw [hself]
  exact ⟨loseSlot_self hk, fun j hj => loseSlot_other _ hj, fun e he => listGet_set_other _ _ _ _ _ he, rfl⟩

theorem exec_sramUncorrectable_supervisor (s : State) (n : Nat) : ∃ t, exec (.sramUncorrectable (.supervisor n)) s = .next t ∧
    t.sup = { s.sup with lost := s.sup.lost ++ [n] } ∧ t.crews = s.crews ∧ t.mem = s.mem ∧
    (n < s.cores.length → (t.core n).errors = (s.core n).errors ++ [s.cclk (s.dieOfCore n)]) := by
  refine ⟨_, rfl, rfl, s.coreError_crews n, s.coreError_mem n, fun hn => ?_⟩
  exact congrArg Core.errors (s.coreError_core_self n hn)

/-! ### Retiring a core (R330) -/

theorem coreRetire_guard {s : State} {n : Nat} (hf : s.firmwareRuns = true) (hi : s.coreIn n = true)
    (he : threeErrors (s.core n).errors = true) :
    (!s.firmwareRuns || !s.coreIn n || !threeErrors (s.core n).errors) = false := by
  simp [hf, hi, he]

theorem exec_coreRetire_frame {s : State} {n f : Nat} {l : List Nat} (hf : s.firmwareRuns = true) (hi : s.coreIn n = true)
    (he : threeErrors (s.core n).errors = true) (hb : s.blocksOn n = []) (hp : s.slicePage n = none)
    (hs : s.sliceFrames n = f :: l) : exec (.coreRetire n) s = .next (s.moveFrame f) := by
  simp [exec, execCoreRetire, coreRetire_guard hf hi he, hb, hp, hs]

/-- What the firmware does for a core to be retired once no block, page or frame is left on it. -/
theorem exec_coreRetire_empty {s : State} {n : Nat} (hf : s.firmwareRuns = true) (hi : s.coreIn n = true)
    (he : threeErrors (s.core n).errors = true) (hb : s.blocksOn n = []) (hp : s.slicePage n = none)
    (hs : s.sliceFrames n = []) :
    exec (.coreRetire n) s = .next (if s.sliceMoves n = true then s
      else (s.idUpdate (fun x => { x with retired := x.retired ++ [n] })).replace 1 (1 + s.dieOfCore n)) := by
  simp [exec, execCoreRetire, coreRetire_guard hf hi he, hb, hp, hs]

theorem exec_coreRetire_retires {s : State} {n : Nat} (hf : s.firmwareRuns = true) (hi : s.coreIn n = true)
    (he : threeErrors (s.core n).errors = true) (hb : s.blocksOn n = []) (hp : s.slicePage n = none)
    (hs : s.sliceFrames n = []) (hm : s.sliceMoves n = false) : ∃ t, exec (.coreRetire n) s = .next t ∧
      t.ident.retired = s.ident.retired ++ [n] ∧ t.coreIn n = false ∧ t.ident.repl = true ∧ t.ident.reason = 1 := by
  refine ⟨(s.idUpdate (fun x => { x with retired := x.retired ++ [n] })).replace 1 (1 + s.dieOfCore n), ?_, ?_, ?_,
    State.replace_repl .., State.replace_reason ..⟩
  · rw [exec_coreRetire_empty hf hi he hb hp hs, hm, if_neg Bool.false_ne_true]
  · rw [State.replace_retired]; rfl
  · simp [State.coreIn, State.idUpdate]

theorem exec_coreRetire_not {s : State} {n : Nat}
    (h : s.firmwareRuns = false ∨ s.coreIn n = false ∨ threeErrors (s.core n).errors = false) :
    exec (.coreRetire n) s = .next s := by
  have hg : (!s.firmwareRuns || !s.coreIn n || !threeErrors (s.core n).errors) = true := by
    rcases h with h | h | h <;> simp [h]
  simp only [exec, execCoreRetire, hg, if_true]

/-! ### Die resets (R305, R306, R330; log entries 60, 63 and 97) -/

/-- The guard of a reset that the firmware makes: chiplets 1 to 4, of which none has failed. -/
def State.resetMay (s : State) (i : Nat) : Prop :=
  s.firmwareRuns = true ∧ s.porter.booted = true ∧ 1 ≤ i ∧ i ≤ 4 ∧ i ∉ s.ident.failed

theorem State.resetMay.guard {s : State} {i : Nat} (h : s.resetMay i) :
    (!s.firmwareRuns || !s.porter.booted || decide (i = 0) || decide (4 < i) || s.ident.failed.contains i) = false := by
  obtain ⟨hf, hb, h1, h4, hi⟩ := h
  simp [hf, hb, hi, h4, show i ≠ 0 by omega]

theorem exec_singleDieReset_F {s : State} {i : Nat} (r : Attest) (hf : s.firmwareRuns = true) (hb : s.porter.booted = true)
    (h3 : 3 ≤ i) (h4 : i ≤ 4) (hi : i ∉ s.ident.failed) :
    ∃ u, u = (s.shutDown [i] none).restartClock i ∧ u.shuttered i = true ∧ u.clockOf i = 0 ∧
      (s.inFlight (fun _ _ => true) = [] → ∀ a, u.byte a = s.byte a) ∧
      exec (.singleDieReset i r) s = .next (if u.routeOpen i = true then u.attest i r else u) := by
  refine ⟨_, rfl, ?_, State.restartClock_clockOf _ _ (by omega) h4, fun hq a => ?_, ?_⟩
  · rw [State.restartClock_shuttered]
    exact State.shutDown_shuttered _ _ _ (by omega) (by simp)
  · rw [State.byte, State.restartClock_mem, State.shutDown_mem _ _ hq, State.byte]
  · have hmay : s.resetMay i := ⟨hf, hb, by omega, h4, hi⟩
    have hgroup : resetGroup i = [i] := by simp [resetGroup, show i ≠ 1 by omega, show i ≠ 2 by omega]
    have h2 : ¬ i ≤ 2 := by omega
    simp only [exec, execSingleDieReset, hmay.guard, hgroup, h2, if_false]
    rfl

/-- A C-die after its reset. -/
def State.dieReset (s : State) (i : Nat) : State :=
  (((s.shutDown (resetGroup i) none).replace 4 i).restartClock i).resetCores (i - 1)

theorem lt_of_mem_resetGroup {i j : Nat} (hi : i ≤ 2) (hj : j ∈ resetGroup i) : j < 17 := by
  obtain rfl | rfl | rfl : i = 0 ∨ i = 1 ∨ i = 2 := by omega
  all_goals
    simp only [resetGroup, Nat.reduceEqDiff, if_true, if_false, List.mem_cons, List.not_mem_nil, or_false] at hj
    omega

section
variable (s : State) (i : Nat)

theorem State.dieReset_reason : (s.dieReset i).ident.reason = 4 := by
  simp [State.dieReset]

theorem State.dieReset_shuttered (hi : i ≤ 2) {j : Nat} (hj : j ∈ resetGroup i) : (s.dieReset i).shuttered j = true := by
  simpa [State.dieReset] using s.shutDown_shuttered (resetGroup i) none (lt_of_mem_resetGroup hi hj) hj

theorem State.dieReset_clockOf (h1 : 1 ≤ i) (h2 : i ≤ 2) : (s.dieReset i).clockOf i = 0 := by
  rw [State.dieReset, State.resetCores_clockOf, State.restartClock_clockOf _ _ h1 (by omega)]

theorem State.dieReset_ctl (h : i - 1 < s.ctls.length) : ∃ g, (s.dieReset i).ctl (i - 1) = { Ctl.reset with gens := g } :=
  ⟨_, State.resetCores_ctl _ _ (by simpa using h)⟩

/-- A reset die and the package before it agree on the die of each core: the fuses name it. -/
theorem State.dieOfCore_beforeResetCores (n : Nat) :
    (((s.shutDown (resetGroup i) none).replace 4 i).restartClock i).dieOfCore n = s.dieOfCore n := by
  simp [State.dieOfCore]

theorem State.dieReset_core {n : Nat} (hn : n < (s.dieReset i).cores.length) (hd : s.dieOfCore n = i - 1) :
    ((s.dieReset i).core n).images = [] ∧ ((s.dieReset i).core n).slots = Core.reset.slots ∧ n ∈ (s.dieReset i).sup.lost := by
  rw [← s.dieOfCore_beforeResetCores i] at hd
  rw [State.dieReset, State.resetCores_cores_length] at hn
  rw [State.dieReset, State.resetCores_core _ _ hn hd]
  exact ⟨rfl, rfl, State.resetCores_lost _ _ hn hd⟩

theorem State.dieReset_byte {n a : Nat} (hd : s.dieOfCore n = i - 1) (hlo : n * 0x03000000 ≤ a) (hhi : a < (n + 1) * 0x03000000)
    (ha : a < 0x100000000) : (s.dieReset i).byte a = unlistedByte := by
  have hn : a / 0x03000000 = n := by omega
  refine State.resetCores_byte _ _ ha ?_
  rw [hn, State.dieOfCore_beforeResetCores, hd]

end

theorem exec_singleDieReset_C {s : State} {i : Nat} (r : Attest) (h : s.resetMay i) (h2 : i ≤ 2)
    (hb : ∀ p ∈ s.blocks, s.dieOfCore p.2.core ≠ i - 1) :
    exec (.singleDieReset i r) s =
      .next (if (s.dieReset i).routeOpen i = true then (s.dieReset i).attest i r else s.dieReset i) := by
  have hnone : s.blocks.filter (fun p => s.dieOfCore p.2.core == i - 1) = [] := by
    simpa [List.filter_eq_nil_iff] using fun a b hab => hb (a, b) hab
  simp only [exec, execSingleDieReset, h.guard, h2, if_true, hnone]
  rfl

theorem exec_singleDieReset_C_evacuates {s : State} {i : Nat} (r : Attest) (h : s.resetMay i) (h2 : i ≤ 2) {bs : List Nat}
    (hbs : bs = (s.blocks.filter (fun p => s.dieOfCore p.2.core == i - 1)).map (·.1)) (hne : bs ≠ []) :
    exec (.singleDieReset i r) s =
      .next (bs.foldl (fun u b => u.steer (1 - (i - 1)) b) (s.evacuate (s.behind (1 - (i - 1))) cDIELOST bs)) := by
  simp only [exec, execSingleDieReset, h.guard, h2, if_true, ← hbs]
  simp [hne]

/-! ### Throttling (R329, log entry 41) -/

theorem Ident.mhz_setMhz (x : Ident) {i v : Nat} (hi : i ≤ 4) (hv : v < 2 ^ 16) : (x.setMhz i v).mhz i = v := by
  have hw : (BitVec.ofNat 16 v).toNat = v := by rw [BitVec.toNat_ofNat, Nat.mod_eq_of_lt hv]
  obtain rfl | rfl | rfl | rfl | rfl : i = 0 ∨ i = 1 ∨ i = 2 ∨ i = 3 ∨ i = 4 := by omega
  all_goals exact hw

theorem Ident.setMhz_stepAt (x : Ident) (i v : Nat) : (x.setMhz i v).stepAt = x.stepAt := by
  unfold Ident.setMhz
  dsimp only
  repeat' split
  all_goals rfl

theorem Ident.setMhz_reasons (x : Ident) (i v : Nat) : (x.setMhz i v).reasons = x.reasons := by
  unfold Ident.setMhz
  dsimp only
  repeat' split
  all_goals rfl

theorem Ident.mem_settled_reasons (x : Ident) {r : Nat} (h2 : r ≠ 2) (h3 : r ≠ 3) : r ∈ x.settled.reasons ↔ r ∈ x.reasons := by
  simp [Ident.settled, h2, h3]

/-- The clock of a die is set, with the time and the reason of the change. -/
def State.setClock (s : State) (i v cut : Nat) : State :=
  s.idUpdate (fun x => ({ x.setMhz i v with
    stepAt := listSet x.stepAt i (some (s.clockOf i : Int)), cut := listSet x.cut i cut } : Ident).settled)

section
variable (s : State) (i cut : Nat) {v : Nat}

theorem State.setClock_mhz (hi : i ≤ 4) (hv : v < 2 ^ 16) : (s.setClock i v cut).ident.mhz i = v :=
  Ident.mhz_setMhz { s.ident with gen := s.ident.gen + 1 } hi hv

theorem State.setClock_stepAt (hi : i < s.ident.stepAt.length) :
    (s.setClock i v cut).ident.stepAt[i]? = some (some (s.clockOf i : Int)) := by
  simp [State.setClock, State.idUpdate, Ident.settled, listSet_eq_set, hi]

theorem State.mem_setClock_reasons {r : Nat} (h2 : r ≠ 2) (h3 : r ≠ 3) :
    r ∈ (s.setClock i v cut).ident.reasons ↔ r ∈ s.ident.reasons := by
  refine (Ident.mem_settled_reasons _ h2 h3).trans ?_
  simp [Ident.setMhz_reasons]

end

/-- The last change of a die's clock is less than 2^22 of its cycles ago. -/
def State.stepSoon (s : State) (i : Nat) : Bool :=
  match listGet none s.ident.stepAt i with | some t => decide ((s.clockOf i : Int) < t + 2 ^ 22) | none => false

theorem State.stepSoon_iff (s : State) (i : Nat) :
    s.stepSoon i = true ↔ ∃ t : Int, s.ident.stepAt[i]? = some (some t) ∧ (s.clockOf i : Int) < t + 2 ^ 22 := by
  rw [State.stepSoon, listGet_eq_getElem?]
  rcases s.ident.stepAt[i]? with _ | _ | t <;> simp

theorem exec_thermalThrottle_soon {s : State} {i : Nat} (up v : Bool) (h : s.stepSoon i = true) :
    exec (.thermalThrottle i up v) s = .next s := by
  have hg : (!s.firmwareRuns || decide (4 < i) || s.shuttered i || s.stepSoon i) = true := by simp [h]
  exact congrArg Host.Outcome.next (if_pos hg)

/-- A change of a clock that the firmware may make now. -/
theorem exec_thermalThrottle {s : State} {i : Nat} (up v : Bool) (hf : s.firmwareRuns = true) (hi : i ≤ 4)
    (hs : s.shuttered i = false) (h : s.stepSoon i = false) :
    exec (.thermalThrottle i up v) s = .next (
      if up then
        if 3300 ≤ s.ident.mhz i then s
        else s.setClock i (s.ident.mhz i + 100) (if s.ident.mhz i + 100 = 3300 then 0 else listGet 0 s.ident.cut i)
      else if s.ident.mhz i ≤ 100 then s
      else (s.setClock i (s.ident.mhz i - 100) (if v then 3 else 2)).replace (if v then 3 else 2) i) := by
  have hg : ¬ (!s.firmwareRuns || decide (4 < i) || s.shuttered i || s.stepSoon i) = true := by simp [hf, hs, h, hi]
  exact congrArg Host.Outcome.next (if_neg hg)

theorem Ident.mhz_lt (x : Ident) (i : Nat) : x.mhz i < 2 ^ 16 := BitVec.isLt _

theorem exec_thermalThrottle_lowers {s : State} {i : Nat} (v : Bool) (hf : s.firmwareRuns = true) (hi : i ≤ 4)
    (hs : s.shuttered i = false) (hl : s.ident.stepAt.length = 5) (h : s.stepSoon i = false) (hm : 100 < s.ident.mhz i) :
    ∃ t, exec (.thermalThrottle i false v) s = .next t ∧ t.ident.mhz i = s.ident.mhz i - 100 ∧
      t.ident.repl = true ∧ t.ident.reason = (if v = true then 3 else 2) ∧ t.ident.stepAt[i]? = some (some (s.clockOf i : Int)) := by
  refine ⟨(s.setClock i (s.ident.mhz i - 100) (if v then 3 else 2)).replace (if v then 3 else 2) i, ?_, ?_,
    State.replace_repl .., ?_, ?_⟩
  · rw [exec_thermalThrottle _ _ hf hi hs h, if_neg (by simp), if_neg (by omega)]
  · have := s.ident.mhz_lt i
    rw [State.replace_mhz, State.setClock_mhz _ _ _ hi (by omega)]
  · rw [State.replace_reason]; cases v <;> rfl
  · rw [State.replace_stepAt, State.setClock_stepAt _ _ _ (by omega)]

theorem exec_thermalThrottle_raises {s : State} {i : Nat} (v : Bool) (hf : s.firmwareRuns = true) (hi : i ≤ 4)
    (hs : s.shuttered i = false) (h : s.stepSoon i = false) (hm : s.ident.mhz i < 3300) :
    ∃ t, exec (.thermalThrottle i true v) s = .next t ∧ t.ident.mhz i = s.ident.mhz i + 100 ∧
      ∀ r, r ≠ 2 → r ≠ 3 → (r ∈ t.ident.reasons ↔ r ∈ s.ident.reasons) := by
  refine ⟨s.setClock i (s.ident.mhz i + 100) (if s.ident.mhz i + 100 = 3300 then 0 else listGet 0 s.ident.cut i), ?_,
    State.setClock_mhz _ _ _ hi (by omega), fun r h2 h3 => State.mem_setClock_reasons _ _ _ h2 h3⟩
  rw [exec_thermalThrottle _ _ hf hi hs h, if_pos rfl, if_neg (by omega)]

/-- Settles O59: the clauses one by one, each by the lemma for its event. -/
theorem errorsAndHealth : Obligations.ErrorsAndHealth := by
  unfold Obligations.ErrorsAndHealth
  refine ⟨exec_softErrorCorrected, fun s pa u hm hb hu => exec_sramUncorrectable_memory hm hb hu,
    fun s n => ⟨State.coreError_of_le, State.coreError_of_lt⟩, fun s b x hb => exec_sramUncorrectable_scratchpad hb,
    fun s n off hn => exec_sramUncorrectable_weights off hn, fun s x hx hc => exec_sramUncorrectable_foreman hx hc,
    fun s n hf hi he hb hp hs hm => exec_coreRetire_retires hf hi he hb hp hs hm, fun s n hf hi he hb hp =>
      ⟨fun hs hm => by rw [exec_coreRetire_empty hf hi he hb hp hs, if_pos hm],
        fun f l hs => exec_coreRetire_frame hf hi he hb hp hs⟩,
    fun s n h => exec_coreRetire_not h, fun s n k hn hk => exec_sramUncorrectable_coreStore hn hk,
    fun s d k hd hk => exec_sramUncorrectable_ctlStore hd hk, exec_sramUncorrectable_supervisor,
    fun s i r hf hb h3 h4 hi => exec_singleDieReset_F r hf hb h3 h4 hi, fun s i r hf hb h1 h2 hi hc => ?reset,
    fun s i v hf hi hs hl => ?clock, fun s i => ?critical⟩
  case reset =>
    have hmay : s.resetMay i := ⟨hf, hb, h1, by omega, hi⟩
    refine ⟨fun hnone => ⟨s.dieReset i, rfl, s.dieReset_reason i, fun j hj => s.dieReset_shuttered i h2 hj,
      s.dieReset_clockOf i h1 h2, s.dieReset_ctl i (by omega), fun n hn hd => s.dieReset_core i hn hd,
      fun n a hd hlo hhi ha => s.dieReset_byte i hd hlo hhi ha, exec_singleDieReset_C r hmay h2 hnone⟩, ?_⟩
    exact fun bs hbs hne => exec_singleDieReset_C_evacuates r hmay h2 hbs hne
  case clock =>
    refine ⟨fun t ht hsoon up => exec_thermalThrottle_soon up v ((s.stepSoon_iff i).mpr ⟨t, ht, hsoon⟩), fun hlate => ?_⟩
    have hsoon : s.stepSoon i = false := by
      rw [Bool.eq_false_iff, Ne, s.stepSoon_iff]
      rintro ⟨t, ht, hlt⟩
      exact absurd (hlate t ht) (by omega)
    refine ⟨exec_thermalThrottle_lowers v hf hi hs hl hsoon, exec_thermalThrottle_raises v hf hi hs hsoon, fun hm => ?_⟩
    rw [exec_thermalThrottle _ _ hf hi hs hsoon, if_pos rfl, if_pos hm]
  case critical =>
    exact ⟨fun hp => by simp [exec, execCriticalTemperature, hp], fun hp => by simp [exec, execCriticalTemperature, hp]⟩

end Sys2Proof.Machine
